-- ==== Sys2Proof/Word.lean ====
section
/-!
DEFINITION. The word types of the module: the byte, the 32-bit register word of R6, and reading little-endian
multi-byte fields (R9) as numbers and back.
-/

namespace Sys2Proof

/-- A byte of memory, of a message or of a record. -/
abbrev Byte := BitVec 8

/-- A 32-bit set-up register (R6). -/
abbrev Word := BitVec 32

/-- Bits `hi` down to `lo` of a number. -/
def bitsOf (n hi lo : Nat) : Nat := n / 2 ^ lo % 2 ^ (hi + 1 - lo)

/-- Bit `i` of a number. -/
def bitOf (n i : Nat) : Bool := n / 2 ^ i % 2 == 1

end Sys2Proof
end

