-- ==== Sys2Proof/Syntax.lean ====
section
/-!
DEFINITION. The commands of the module: one constructor for every row of the table of operations and events. A row
that is a write of a register carries the word written and its origin; a row that reports a fact of the module's
surroundings (an answer of another agent, a measured value, a timer that ran out) carries that fact.

Units are numbered flat: a cluster is die * 12 + cluster (0 to 47), a core is cluster * 8 + core (0 to 383), a stack
is die * 4 + stack, a picker is cluster * 2 + picker.
-/

namespace Sys2Proof

/-- Who makes a register write or read (JE_ORIGIN and JE_WHO of Table 22.4). -/
inductive Origin where
  | host
  | mgmt (eid : Nat)
deriving DecidableEq, Repr

/-- The transports of R449. -/
inductive Transport where
  | vdm | smbus | i3c
deriving DecidableEq, Repr

/-- The causes of Table 18.4 that end the session (R315, R411, R462). -/
inductive LossCause where
  | linkDown | hotReset | flr | d3hot
deriving DecidableEq, Repr

/-- What the sensors and meters of the module read at a tick: input voltage in mV, mean input power of the last heat
in W, each cluster's activity meter over the last heat in tenths of a watt (R367), each die's hottest junction
in degrees, and the channel messages, by number, acknowledged since the last tick (R13). -/
structure TickReport where
  vin : Nat
  pin : Nat
  meters : List Nat
  tj : List Nat
  acked : List Nat
  /-- coolant inlet and outlet, and the hub's junction, in degrees Celsius, where their sensors are read -/
  coolant : Option (Nat × Nat) := none
  hubTj : Option Nat := none
deriving DecidableEq, Repr

/-- A time message (R29) and the fabric port it came by: the module time, heat number, base and configuration in force
it carries, the armed change (R26), and the modules its sender knows to have HEAT_MASTER_ELIG set, each with whether
it has a locked reference input (R28). -/
structure TimeMsg where
  port : Nat
  time : Nat
  known : List (Nat × Bool)
  heat : Nat
  baseB : Nat
  baseN : Nat
  cfg : Word
  change : Option (Nat × Word)
deriving DecidableEq, Repr

/-- What an array pass met beside its operands: the cycles it froze for a feeder and for a drain (R81), and the sums,
by streamed row and logical column, that a defective cell gave in place of its own (R117 to R121). -/
structure PassReport where
  feed : Nat
  drain : Nat
  faults : List (Nat × Nat × Word)
deriving DecidableEq, Repr

/-- What an outstanding request toward a tier, a module or the host came back with. -/
inductive Answer where
  | data (bytes : List Byte)
  | tierError
  | tierTimeout
  | busyRefused
  | accessDenied
  | versionStale
  | unitLost
  | routeLost
  /-- data of a tier of this module in which an error was corrected (R230) -/
  | corrected
  /-- a tier of this module met errors it cannot correct (R230), in the lines at these byte offsets of the request -/
  | uncorrectable (offs : List Nat)
deriving DecidableEq, Repr

/-- The answers that came back for requests to tiers 2 and 3, and the failures of requests to the module's own tiers,
by the global address requested. A request to tier 2 or 3 that is not listed has no answer yet. -/
abbrev Replies := List (Nat × Answer)

/-- What a bring-up stage found (R412 to R419). -/
inductive StageReport where
  /-- stage 1: hub logic and SRAM passed their test -/
  | rom (hubOk : Bool) (modId smbAddr : Nat)
  | firmware
  /-- stage 3: setting and measured value of every rail and V_in in mV, the coolant inlet in degrees Celsius, and the rise of the
  hottest stack in the second at full load -/
  | measurement (rails : List (Nat × Nat)) (vin inlet rise : Nat)
  | boardMemory (ok : Bool)
  /-- stage 5: rows replaced on every die, and the dies whose tier 0 is out of service -/
  | stackRepair (spares : List Nat) (out_ : List Bool)
  /-- stage 6: failing columns of every cluster, failing cores, failing clusters, failing dies -/
  | selfTest (cols : List (Nat × Nat)) (cores clusters dies : List Nat)
  | fabric
  | hostLink (up : Bool) (rate width : Nat) (flit : Bool)
deriving DecidableEq, Repr

/-- A long accumulator (14_collectives_and_job_mapping.md): an exact sum of binary32 values in units of 2^-149, and the
flags for infinities and NaN. -/
structure LongAcc where
  sum : Int := 0
  pinf : Bool := false
  ninf : Bool := false
  nan : Bool := false
deriving DecidableEq, Repr

/-- What a step close combines (R293): the guard record, the forced skip, the global sum, and the accumulators of table
slots and of layer groups. -/
structure CloseSums where
  b : Nat := 0
  f : Nat := 0
  n : Nat := 0
  forced : Bool := false
  global : LongAcc := {}
  tables : List (Nat × LongAcc) := []
  locals : List (Nat × LongAcc) := []
  globals : List (Nat × LongAcc) := []
deriving DecidableEq, Repr

/-- The body of a collective packet: chunks by rank, a count of R289, an accumulator, the sums of a step close, or an
ABORT with its status (R296). -/
inductive CollBody where
  | abort (status : Nat)
  | chunks (cs : List (Nat × List Byte))
  | count (n : Nat) (refused : Bool)
  | acc (a : LongAcc)
  | close (c : CloseSums)
deriving DecidableEq, Repr

/-- A collective packet (R285 to R289): the sending module, the instance, the operation and the element count it names,
the exchange it belongs to, and the sender's START time (R373). -/
structure CollMsg where
  src : Nat
  bucket : Nat
  step : Nat
  op : Nat
  count : Nat
  round : Nat
  start : Nat
  body : CollBody
deriving DecidableEq, Repr

/-- A contribution row on its way to its home (R195, R196, R202): an address, or the row of a table with the address of
its home; the heat and module time of its stamp at the source unit (R33); its key; formats and elements. -/
structure FarRow where
  table : Option Nat
  row : Nat
  addr : Nat
  heat : Nat
  time : Nat
  version : Nat
  ordered : Bool
  step : Nat
  chip : Nat
  seq : Nat
  dfmt : Nat
  sfmt : Nat
  vals : List Nat
deriving DecidableEq, Repr

/-- Where a contribution row stands: one of this module's rows reaches a home on this module, a far home acknowledges
one, or a row of another module reaches a home here; `ans` is what the home's tier met. -/
inductive ContribCase where
  | own (id k : Nat) (ans : Option Answer)
  | ack (id k status : Nat)
  | arrive (src : Nat) (row : FarRow) (ans : Option Answer)
deriving DecidableEq, Repr

/-- What the copy of a moved row carries (R217): the row, its row state, ledger entries and held rows. -/
structure MoveCopy where
  row : List Byte
  state : Nat
  entries : List (List Byte)
  held : List FarRow
deriving DecidableEq, Repr

/-- How the copy of a row move ended: it landed (with its contents, where another module sent it), or it failed. -/
inductive MoveEnd where
  | landed (copy : Option MoveCopy)
  | failed (status : Nat)
deriving DecidableEq, Repr

/-- Who carries a ladle transfer: a core's work word, or a descriptor of a submission ring by ring and index (R319). -/
inductive Runner where
  | core (n : Nat)
  | ring (r i : Nat)
deriving DecidableEq, Repr

/-- A fabric packet (Table 13.6) without its check code. -/
structure Packet where
  dst : Nat
  src : Nat
  seq : Nat
  hops : Nat
  detour : Nat
  lane : Nat
  kind : Nat
  addr : Nat
  msgOff : Nat
  msgLast : Bool
  payload : List Byte
deriving DecidableEq, Repr

/-- A link-state notice (R269): the module it tells of, the number of the notice, and its ports that are UP, bit p for
port p. -/
structure LinkNotice where
  src : Nat
  num : Nat
  up : Nat
deriving DecidableEq, Repr

/-- A received flit (R266): its link sequence, whether its check code agrees, the last flit it acknowledges, and the
flit from which it asks for a replay. -/
structure FlitReport where
  seq : Nat
  good : Bool
  ack : Nat
  replay : Option Nat
deriving DecidableEq, Repr

/-- What a training stage found (Table 13.3). -/
inductive TrainReport where
  /-- stage 1: the loss in dB of each lane that locked -/
  | lanes (loss : List (Option Nat))
  | aligned
  /-- stage 3: the round trip, ns -/
  | probes (rtt : Nat)
  /-- stage 4: partner module and port, and its capabilities (Table 13.9) -/
  | identity (partner port : Nat) (caps : Word)
  | checks
deriving DecidableEq, Repr

/-- What a broker packet carries (R375): the sender, its heat, its score, whether it was thermal-limited, its tokens, its
spare tokens and the room below 3600 W. -/
structure BrokerMsg where
  src : Nat
  heat : Nat
  score : Nat
  limited : Bool
  tokens : Int
  spare : Nat
  room : Nat
deriving DecidableEq, Repr

/-- Where a held row is to be added: from a cell on, or the ledger entry of a slot for a row and step. -/
inductive HoldDest where
  | addr (a : Nat)
  | entry (slot row step version : Nat)
deriving DecidableEq, Repr

/-- A row in the ordered hold (R202): destination, key, stamp, formats, the bytes its record takes (R205), the elements
not yet folded (cell and code for an address, element number and code for a ledger entry), and whether it has been counted
as a row with an equal key (R204). -/
structure HeldRow where
  dest : HoldDest
  step : Nat
  chip : Nat
  seq : Nat
  heat : Nat
  time : Nat
  dfmt : Nat
  sfmt : Nat
  size : Nat
  els : List (Nat × Nat)
  counted : Bool := false
deriving DecidableEq, Repr

/-- What the reads of a restore returned (R394 to R396): the record from the source and from the replica, and the bytes
of each object of the range, none where a read failed; the rows that the bytes of a hold object (index 1088) hold. -/
structure RestoreData where
  record : Option (List Byte)
  replica : Option (List Byte)
  objects : List (Option (List Byte))
  hold : List HeldRow
deriving DecidableEq, Repr

/-- The unit an uncorrectable error makes lost, or a die that keeps no hub link (R401). -/
inductive FailedUnit where
  | core (n : Nat)
  | cluster (g : Nat)
  | die (d : Nat)
  | link (d : Nat)
deriving DecidableEq, Repr

/-- How a channel message failed (R58, R265): its destination is unreachable, or lost, or discarded it whole. -/
inductive MsgLoss where
  | route | unit | discarded
deriving DecidableEq, Repr

/-- The commands, one for every row of the table. Operand names: `v` and `o` a word written and who writes it; `n` a
core, `g` a cluster, `d` a die, `p` a port, picker or producer, `r` a ring, `w` a peer window, `a` an aperture or
address, `k` an index of its kind, `id` a piece of work or a message by number, `rs` the answers of far memories, `eid` the
MCTP endpoint of a requester. -/
inductive Instr where
  /-- HEAT_TICK (R14) -/
  | heatTick (t : TickReport)
  /-- HEAT_WATCHDOG (R22) -/
  | heatWatchdog (g : Nat)
  /-- DOORBELL_PAGE_RETURN (R304) -/
  | doorbellPageReturn (page : List Byte)
  /-- HEAT_DB_LATE (R15) -/
  | heatDbLate
  /-- HEAT_CHANGE_ARM (R25) -/
  | heatChangeArm (v : Word) (o : Origin)
  /-- HEAT_CHANGE_WITHDRAW (R474) -/
  | heatChangeWithdraw (v : Word) (o : Origin)
  /-- HEAT_RUN_SET (R424) -/
  | heatRunSet (v : Word) (o : Origin)
  /-- HEAT_RUN_CLEAR (R32) -/
  | heatRunClear (v : Word) (o : Origin)
  /-- HEAT_TIME_SET (R32) -/
  | heatTimeSet (v : Word) (o : Origin)
  /-- TIME_MESSAGE (R29) -/
  | timeMessage (t : TimeMsg)
  /-- MASTER_TAKEOVER (R28) -/
  | masterTakeover (known : List (Nat × Bool))
  /-- PPS_EDGE (R31) -/
  | ppsEdge
  /-- REF_LOCK (R31) -/
  | refLock (tenM pps : Bool)
  /-- CORE_VALIDATE (R61) -/
  | coreValidate (n : Nat) (v : Word) (o : Origin)
  /-- CORE_VALIDATE_DONE (R61) -/
  | coreValidateDone (n : Nat)
  /-- CORE_SWITCH_ARM (R62) -/
  | coreSwitchArm (n : Nat) (v : Word) (o : Origin)
  /-- CORE_SWITCH_WITHDRAW (R476) -/
  | coreSwitchWithdraw (n : Nat) (v : Word) (o : Origin)
  /-- CORE_STOP (R63) -/
  | coreStop (n : Nat) (v : Word) (o : Origin)
  /-- CORE_STOP_WITHDRAW (R63) -/
  | coreStopWithdraw (n : Nat) (v : Word) (o : Origin)
  /-- CORE_STEP_WRITE (R65) -/
  | coreStepWrite (n : Nat) (mb : Bool) (v : Word) (o : Origin)
  /-- WORK_WORD_ISSUE (R49) -/
  | workWordIssue (n : Nat)
  /-- SEND (R53) -/
  | send (n : Nat)
  /-- DATA (R57) -/
  | data (n : Nat) (header payload : List Byte)
  /-- CREDIT_GRANT (R55) -/
  | creditGrant (n : Nat) (header : List Byte)
  /-- CREDIT_RETURN (R56) -/
  | creditReturn (n : Nat) (header : List Byte)
  /-- BIND_REQUEST (R55) -/
  | bindRequest (n : Nat) (header : List Byte)
  /-- SLOT_FREE (R56) -/
  | slotFree (n : Nat)
  /-- CHANNEL_LOST (R58) -/
  | channelLost (id : Nat) (how : MsgLoss)
  /-- ARRAY_PASS (R75) -/
  | arrayPass (n : Nat) (rep : PassReport)
  /-- ARRAY_RAMP_DOWN (R82) -/
  | arrayRampDown (g : Nat)
  /-- ARRAY_DRAIN (R74) -/
  | arrayDrain (g : Nat)
  /-- SHADOW_CHECK (R118) -/
  | shadowCheck (g : Nat)
  /-- SHADOW_CAPTURE_DROP (R118) -/
  | shadowCaptureDrop (g : Nat)
  /-- ARR_SLAG_REQ (R84) -/
  | arrSlagReq (g : Nat) (v : Word) (o : Origin)
  /-- VECTOR_OPERATION (R130) -/
  | vectorOperation (n : Nat)
  /-- VECTOR_OP_COMPLETE (R134) -/
  | vectorOpComplete (id : Nat)
  /-- NUM_LS_ARM (R116) -/
  | numLsArm (v : Word) (o : Origin)
  /-- NUM_SEED_LO (R141) -/
  | numSeedLo (v : Word) (o : Origin)
  /-- NUM_SEED_HI (R141) -/
  | numSeedHi (v : Word) (o : Origin)
  /-- STAGE_WRITE (R322) -/
  | stageWrite (n : Nat) (rs : Replies)
  /-- STAGE_RESTORE (R145) -/
  | stageRestore (n : Nat) (rs : Replies)
  /-- HANDOFF (R150) -/
  | handoff (n : Nat)
  /-- DENSE_APPLY (R158) -/
  | denseApply (n : Nat) (rs : Replies) (drift : Bool)
  /-- LEDGER_DRAIN (R165) -/
  | ledgerDrain (n : Nat) (rs : Replies)
  /-- MEM_OPT_ARM (R169) -/
  | memOptArm (k : Nat) (v : Word) (o : Origin)
  /-- PICKER_LOOKUP (R180) -/
  | pickerLookup (n p wait : Nat)
  /-- ROW_LAND (R182) -/
  | rowLand (id k : Nat) (ans : Option Answer)
  /-- PICKER_ROW_TIMEOUT (R183) -/
  | pickerRowTimeout (id k : Nat)
  /-- BAG_POOL (R182) -/
  | bagPool (id b : Nat)
  /-- LOOKUP_COMPLETE (R184) -/
  | lookupComplete (id : Nat)
  /-- INSTALL (R185) -/
  | install (v : Word) (o : Origin)
  /-- SWITCH (R185) -/
  | switch (v : Word) (o : Origin)
  /-- RETIRE (R185) -/
  | retire (v : Word) (o : Origin)
  /-- MEM_TD_DRAIN_CLEAR (R188) -/
  | memTdDrainClear (i : Nat)
  /-- HOME_MAP_WRITE (R190) -/
  | homeMapWrite (v : Word) (o : Origin)
  /-- CONTRIBUTION (R200) -/
  | contribution (n p wait : Nat)
  /-- CONTRIBUTION_ROW (R196) -/
  | contributionRow (x : ContribCase)
  /-- CONTRIBUTION_ROW_TIMEOUT (R199) -/
  | contributionRowTimeout (id k : Nat)
  /-- CONTRIBUTION_COMPLETE (R199) -/
  | contributionComplete (id : Nat)
  /-- CRUCIBLE_ADD (R193): the codes, and what the memory answers -/
  | crucibleAdd (a df sf : Nat) (x : List Nat × Option Answer)
  /-- READ_CLEAR (R192): the count, and what the memory answers -/
  | readClear (src a f : Nat) (x : Nat × Option Answer)
  /-- SKETCH_DECAY (R207) -/
  | sketchDecay
  /-- PROMOTE (R214) -/
  | promote (v : Word) (o : Origin)
  /-- DEMOTE (R214) -/
  | demote (v : Word) (o : Origin)
  /-- MEM_HOT_DRAIN_CLEAR (R214) -/
  | memHotDrainClear (i : Nat)
  /-- DRUPELET_REFRESH (R210) -/
  | drupeletRefresh (i : Nat) (rs : Replies)
  /-- MOVE_ROW_ARM (R216) -/
  | moveRowArm (v : Word) (o : Origin)
  /-- ROW_MOVE_COPY (R217) -/
  | rowMoveCopy (i : Nat) (rs : Replies)
  /-- ROW_MOVED (R217) -/
  | rowMoved (i : Nat) (x : MoveEnd) (rs : Replies)
  /-- COPY (R320) -/
  | copy (who : Runner) (rs : Replies)
  /-- MOVE (R224) -/
  | move (who : Runner) (rs : Replies)
  /-- LADLE_COMPLETE (R326) -/
  | ladleComplete (id : Nat)
  /-- LADLE_REQUEST_TIMEOUT (R228) -/
  | ladleRequestTimeout (id : Nat)
  /-- SCRUB (R230) -/
  | scrub (ch corrected : Nat) (bad : List Nat)
  /-- CREDIT_RECLAIM (R234) -/
  | creditReclaim (ch src : Nat)
  /-- STACK_TEMP_REPORT (R235) -/
  | stackTempReport (k t : Nat)
  /-- BAR2_READ (R245) -/
  | bar2Read (off len : Nat) (ans : Option Answer)
  /-- BAR2_WRITE (R245) -/
  | bar2Write (off : Nat) (bytes : List Byte) (ans : Option Answer)
  /-- HIF_B2_MAP (R244) -/
  | hifB2Map (a : Nat) (v : Word) (o : Origin)
  /-- LINK_TRAINING (R259) -/
  | linkTraining (p : Nat)
  /-- TRAINING_STAGE_END (R259) -/
  | trainingStageEnd (p : Nat) (r : TrainReport)
  /-- TRAINING_STAGE_TIMEOUT (R259) -/
  | trainingStageTimeout (p : Nat)
  /-- RETRAIN_TIMER (R259) -/
  | retrainTimer (p : Nat)
  /-- PORT_RETRAIN (R263) -/
  | portRetrain (p : Nat) (v : Word) (o : Origin)
  /-- PORT_DISABLE (R263) -/
  | portDisable (p : Nat) (v : Word) (o : Origin)
  /-- PORT_ENABLE (R263) -/
  | portEnable (p : Nat) (v : Word) (o : Origin)
  /-- FLIT_RECEIVE (R266) -/
  | flitReceive (p : Nat) (f : FlitReport)
  /-- REPLAY_TIMEOUT (R266) -/
  | replayTimeout (p : Nat)
  /-- LOSS_OF_LOCK (R266) -/
  | lossOfLock (p : Nat)
  /-- PACKET_RECEIVE (R268): the payload, and what memories answer to it -/
  | packetReceive (p : Nat) (header : List Byte) (x : List Byte × Replies)
  /-- RESEQ_GAP_TIMEOUT (R268): the source, and what memories answer to its packets -/
  | reseqGapTimeout (x : Nat × Replies)
  /-- LINK_STATE_NOTICE (R269) -/
  | linkStateNotice (p : Nat) (n : LinkNotice)
  /-- FAB_LDIM_ARM (R274) -/
  | fabLdimArm (v : Word) (o : Origin)
  /-- START (R281) -/
  | start (who : Runner)
  /-- STEP_CLOSE (R293) -/
  | stepClose
  /-- COLLECTIVE_PACKET (R285) -/
  | collectivePacket (x : CollMsg)
  /-- COLLECTIVE_END (R284) -/
  | collectiveEnd (b : Nat)
  /-- COLLECTIVE_TIMEOUT (R296) -/
  | collectiveTimeout (b : Nat)
  /-- ABORT (R296) -/
  | abort (src b step status : Nat)
  /-- BUCKET_INSTALL (R279) -/
  | bucketInstall (v : Word) (o : Origin)
  /-- BUCKET_REMOVE (R279) -/
  | bucketRemove (v : Word) (o : Origin)
  /-- SQ_ENABLE (R308) -/
  | sqEnable (r : Nat) (v : Word) (o : Origin)
  /-- SQ_DISABLE (R308) -/
  | sqDisable (r : Nat) (v : Word) (o : Origin)
  /-- DESCRIPTOR_FETCH (R326) -/
  | descriptorFetch (r i : Nat) (body : Option (BitVec 512))
  /-- PATTERN_LOAD (R324) -/
  | patternLoad (r i : Nat) (rs : Replies)
  /-- NOP (R324) -/
  | nop (r i : Nat)
  /-- HIF_T2_LOAD (R310) -/
  | hifT2Load (v : Word) (o : Origin)
  /-- HOST_MAP_LOAD_DONE (R310) -/
  | hostMapLoadDone (table : Option (List (BitVec 64)))
  /-- HIF_PW_PROBE (R314) -/
  | hifPwProbe (w : Nat) (v : Word) (o : Origin)
  /-- PEER_PROBE_DONE (R314) -/
  | peerProbeDone (w : Nat) (result : Option (Option (BitVec 64))) (rtt : Nat)
  /-- HOST_LINK (R300) -/
  | hostLink (up : Bool) (rate width : Nat) (flit : Bool)
  /-- HOST_LOSS (R348) -/
  | hostLoss (cause : LossCause) (unacked : Nat)
  /-- PRODUCER_ENABLE (R338) -/
  | producerEnable (p : Nat) (v : Word) (o : Origin)
  /-- PRODUCER_DISABLE (R342) -/
  | producerDisable (p : Nat) (v : Word) (o : Origin)
  /-- INGEST_EVALUATION (R343) -/
  | ingestEvaluation
  /-- HIF_HELD_RELEASE (R354) -/
  | hifHeldRelease (v : Word) (o : Origin)
  /-- HIF_OPEN (R356) -/
  | hifOpen (v : Word) (o : Origin)
  /-- EPOCH_CHECK (R357) -/
  | epochCheck (word : Option (BitVec 64))
  /-- RETENTION_EXPIRY (R358) -/
  | retentionExpiry
  /-- VOLTAGE_REACHED (R366) -/
  | voltageReached (d : Nat)
  /-- PWR_PHASE_CLEAR (R367) -/
  | pwrPhaseClear (v : Word) (o : Origin)
  /-- VIN_LOW (R364) -/
  | vinLow (vin : Nat)
  /-- PWR_D_RELEASE (R371) -/
  | pwrDRelease (d : Nat) (v : Word) (o : Origin)
  /-- THERMAL_TRIP (R369) -/
  | thermalTrip (kept : Nat)
  /-- HUB_THERMAL (R369) -/
  | hubThermal (tj : Nat)
  /-- COOLANT_WARN (R369) -/
  | coolantWarn (inlet outlet : Nat)
  /-- BROKER_BOUNDARY (R373) -/
  | brokerBoundary
  /-- BROKER_PACKET (R375) -/
  | brokerPacket (x : BrokerMsg)
  /-- TOKEN_RESET_ARM (R377) -/
  | tokenResetArm (v : Word) (o : Origin)
  /-- CAST_ARM (R384) -/
  | castArm (v : Word) (o : Origin)
  /-- CAST_COPY (R388) -/
  | castCopy
  /-- CAST_COPY_DONE (R389) -/
  | castCopyDone (late : Nat) (fails : List (Nat × Answer))
  /-- CAST_DRAIN_DONE (R391) -/
  | castDrainDone (buddy host : Answer)
  /-- CAST_COMPARE (R400) -/
  | castCompare (record : List Byte)
  /-- CAST_COMPARE_TIMEOUT (R400) -/
  | castCompareTimeout
  /-- CAST_RS_ARM (R394) -/
  | castRsArm (v : Word) (o : Origin)
  /-- RESTORE_DONE (R396) -/
  | restoreDone (d : RestoreData)
  /-- CAST_RS_UNLOCK (R397) -/
  | castRsUnlock (v : Word) (o : Origin)
  /-- UNIT_DECLARE_LOST (R401) -/
  | unitDeclareLost (v : Word) (o : Origin)
  /-- UNIT_RELEASE (R405) -/
  | unitRelease (v : Word) (o : Origin)
  /-- UNCORRECTABLE_UNIT_ERROR (R401) -/
  | uncorrectableUnitError (u : FailedUnit)
  /-- MODULE_DECLARE_LOST (R403) -/
  | moduleDeclareLost (v : Word) (o : Origin)
  /-- MODULE_CLEAR_LOST (R403) -/
  | moduleClearLost (v : Word) (o : Origin)
  /-- FUNCTION_DISABLE (R406) -/
  | functionDisable (v : Word) (o : Origin)
  /-- FUNCTION_ENABLE (R408) -/
  | functionEnable (v : Word) (o : Origin)
  /-- DISABLE_DONE (R408) -/
  | disableDone (f die cluster picker : Nat)
  /-- POWER_ON (R412) -/
  | powerOn (pin : Bool)
  /-- BRINGUP_STAGE_END (R412) -/
  | bringupStageEnd (r : StageReport)
  /-- BRINGUP_STAGE_TIMEOUT (R412) -/
  | bringupStageTimeout
  /-- ID_RESET (R422) -/
  | idReset (v : Word) (o : Origin)
  /-- MOD_RST (R464) -/
  | modRst (kept : Nat)
  /-- VIN_TRIP (R458) -/
  | vinTrip (kept : Nat)
  /-- ID_SETUP_LOCK (R423) -/
  | idSetupLock (v : Word) (o : Origin)
  /-- ID_MAINT_ARM (R426) -/
  | idMaintArm (v : Word) (o : Origin)
  /-- MAINT_END (R429) -/
  | maintEnd (cols : List Nat)
  /-- FWC_STAGE_GO (R433) -/
  | fwcStageGo (v : Word) (o : Origin)
  /-- STAGING_DONE (R433) -/
  | stagingDone (readOk storeOk readBackOk : Bool)
  /-- STAGING_TIMEOUT (R433) -/
  | stagingTimeout
  /-- FWC_STAGE_ABORT (R434) -/
  | fwcStageAbort (v : Word) (o : Origin)
  /-- FWC_SET_WRITE (R438) -/
  | fwcSetWrite (v : Word) (o : Origin)
  /-- FWC_CONFIRM (R440) -/
  | fwcConfirm (v : Word) (o : Origin)
  /-- JOURNAL_STORE (R442) -/
  | journalStore (n : Nat)
  /-- GET_CERT (R447) -/
  | getCert (eid : Nat)
  /-- ATTEST (R448) -/
  | attest (eid : Nat) (nonce : List Byte)
  /-- GET_CHALLENGE (R451) -/
  | getChallenge (eid : Nat)
  /-- CHALLENGE_EXPIRY (R451) -/
  | challengeExpiry
  /-- REG_READ (R450) -/
  | regRead (eid off : Nat)
  /-- REG_WRITE (R450) -/
  | regWrite (eid off : Nat) (v : Word)
  /-- WARM_RESET (R421) -/
  | warmReset (eid : Nat)
  /-- RECOVERY (R437) -/
  | recovery (eid : Nat) (c : List Byte)
  /-- CLAIM (R452) -/
  | claim (eid : Nat) (key c : List Byte)
  /-- RELEASE (R452) -/
  | release (eid : Nat) (c : List Byte)
  /-- DEBUG_UNLOCK (R453) -/
  | debugUnlock (eid : Nat) (c : List Byte)
  /-- REVOKE_KEY (R446) -/
  | revokeKey (eid : Nat) (c : List Byte)
  /-- GET_SENSOR_READING (R454) -/
  | getSensorReading (eid id : Nat)
  /-- PLATFORM_EVENT_MESSAGE (R454) -/
  | platformEventMessage (id : Nat)
  /-- REQUEST_UPDATE (R455) -/
  | requestUpdate (eid : Nat)
  /-- VERIFY_COMPLETE (R455) -/
  | verifyComplete (eid : Nat) (img : List Byte) (storeOk readBackOk : Bool)
  /-- ACTIVATE_FIRMWARE (R455) -/
  | activateFirmware (eid : Nat)
  /-- CANCEL_UPDATE (R455) -/
  | cancelUpdate (eid : Nat)
  /-- REGISTER_WRITE (R7) -/
  | registerWrite (off size : Nat) (v : BitVec 64)
  /-- REGISTER_READ (R36) -/
  | registerRead (off size : Nat)
  /-- MCTP_CONTROL_MESSAGE (R449) -/
  | mctpControlMessage (t : Transport) (assign : Option (BitVec 8))
  /-- EVENT_RECEIVER_REGISTRATION (R454) -/
  | eventReceiverRegistration (eid : Nat)
  /-- COOLANT_WARN_CLEAR (R369) -/
  | coolantWarnClear (inlet outlet : Nat)
deriving DecidableEq, Repr

end Sys2Proof
end

