-- ==== Sys2Proof/Decode.lean ====
section
/-!
DEFINITION. Words of the table. No row of the table gives bits: a command reaches the module as an operation of its
ports, and no word spells one (log entry 2).
-/

namespace Sys2Proof

/-- The command a word of the table spells: none, whatever its length. -/
def decodeTableWord (_nbits _w : Nat) : Option Instr := none

end Sys2Proof
end

