-- ==== Sys2Proof/Config.lean ====
section
/-!
DEFINITION. What the spec leaves open, as constants without a body (nothing can evaluate them or prove a value of
them), and the constants of one device that the spec names but gives no value.
-/

namespace Sys2Proof.Config

/-- A free value: position in the stream of free values to a word (log entry 4). -/
opaque freeWord : Nat → BitVec 32

/-- The scale of a FIT encoding that no scale up to 254 fits (R102): the element format, and the largest magnitude outside
the escapes as a significand and a power of two (log entry 154). -/
opaque fitScale : Nat → Nat → Int → BitVec 8

/-- The hub's hardware random source (R451): position in the stream to a byte. -/
opaque randomByte : Nat → BitVec 8

/-- Verification of a Falcon-1024 signature under the published specification (R444): public key, message (domain tag
and signed bytes), signature. -/
opaque falconVerify : List Byte → List Byte → List Byte → Bool

/-- Signing with the identity key (R444, R448): message to a signature of 1,280 bytes. -/
opaque identitySign : List Byte → List Byte

/-- Public halves of the firmware keys 0 to 3, in ROM (Table 23.1). -/
opaque firmwareKey : Nat → List Byte

/-- The device certificate held in the store (Table 23.2). -/
opaque deviceCertificate : List Byte

/-- The public half of the identity key, DC_PUBKEY (Table 23.2). -/
opaque identityKey : List Byte

/-- The SHAKE256 digest of the ROM, fixed at manufacture (AR_ROM, Table 23.3). -/
opaque romDigest : List Byte

/-- The module's own fixed latency at a fabric port, ns (R260). -/
opaque fixedLatency : Nat → Nat

/-- The bytes that rows of the ordered hold take there (R205), whose record layout is not stated. -/
opaque holdImage : List HeldRow → List Byte

end Sys2Proof.Config
end

