-- ==== Sys2Proof/Machine/Registers.lean ====
section
/-!
DEFINITION. The registers of BAR0: their places, their reset values and what a write of a host or a
manager does to each bit, as the register tables of the chapters of spec/ give them (Tables 1.5, 3.7, 5.6, 8.7,
9.9, 10.7, 11.10, 13.9, 14.12, 15.14, 17.6, 18.8, 19.12, 20.8, 21.8, 22.9, 23.9 and the tables they refer to).

`Reg.X` is the offset of register X in BAR0 (R413), with one argument for every index the spec gives it; a cluster
is numbered die * 12 + cluster (0 to 47) and a core cluster * 8 + core (0 to 383). `Fld.X` is a named bit field.
-/

namespace Sys2Proof.Machine

/-- One row of a register table: `dims` lists (count, stride) of every index; the masks say which bits are read-only
(`ro`), read-write (`rw`), write-1-to-clear (`w1c`), write-only (`wo`), read-write and stored as a setting (`rws`), and
read-write until the set-up lock (`rwl`), as R36 and R423 name the access types. A bit in no mask is reserved. -/
structure RegDef where
  name : String
  base : Nat
  dims : List (Nat × Nat)
  reset : Nat
  ro : Nat
  rw : Nat
  w1c : Nat
  wo : Nat
  rws : Nat
  rwl : Nat
deriving DecidableEq, Repr

/-- A bit field: bits `hi` down to `lo` of the register at offset `reg`. -/
structure Field where
  reg : Nat
  hi : Nat
  lo : Nat
deriving DecidableEq, Repr

end Sys2Proof.Machine

namespace Sys2Proof.Reg

def HEAT_CTRL : Nat := 0x10000
def HEAT_STATUS : Nat := 0x10004
def HEAT_CFG : Nat := 0x10008
def HEAT_CFG_NEXT : Nat := 0x1000C
def HEAT_CHANGE_AT_LO : Nat := 0x10010
def HEAT_CHANGE_AT_HI : Nat := 0x10014
def HEAT_COUNT_LO : Nat := 0x10018
def HEAT_COUNT_HI : Nat := 0x1001C
def HEAT_TIME_LO : Nat := 0x10020
def HEAT_TIME_HI : Nat := 0x10024
def HEAT_TIME_SET_LO : Nat := 0x10028
def HEAT_TIME_SET_HI : Nat := 0x1002C
def HEAT_NEXT_TICK_LO : Nat := 0x10030
def HEAT_NEXT_TICK_HI : Nat := 0x10034
def HEAT_OFFSET : Nat := 0x10038
def HEAT_WDOG : Nat := 0x1003C
def HEAT_MISS_COUNT : Nat := 0x10040
def HEAT_DB_LATE : Nat := 0x10044
def HEAT_CLUSTER_MISS (g : Nat) : Nat := 0x10100 + g / 12 * 0x30 + g % 12 * 0x4
def CORE_CTRL (n : Nat) : Nat := 0x1001000 + n / 96 * 0x400000 + n / 8 % 12 * 0x10000 + n % 8 * 0x100
def CORE_STATUS (n : Nat) : Nat := 0x1001004 + n / 96 * 0x400000 + n / 8 % 12 * 0x10000 + n % 8 * 0x100
def CORE_ENTRY (n : Nat) : Nat := 0x1001008 + n / 96 * 0x400000 + n / 8 % 12 * 0x10000 + n % 8 * 0x100
def CORE_SWITCH_AT_LO (n : Nat) : Nat := 0x100100C + n / 96 * 0x400000 + n / 8 % 12 * 0x10000 + n % 8 * 0x100
def CORE_SWITCH_AT_HI (n : Nat) : Nat := 0x1001010 + n / 96 * 0x400000 + n / 8 % 12 * 0x10000 + n % 8 * 0x100
def CORE_STEP (n : Nat) : Nat := 0x1001014 + n / 96 * 0x400000 + n / 8 % 12 * 0x10000 + n % 8 * 0x100
def CORE_MB (n : Nat) : Nat := 0x1001018 + n / 96 * 0x400000 + n / 8 % 12 * 0x10000 + n % 8 * 0x100
def CORE_IDLE_COUNT (n : Nat) : Nat := 0x100101C + n / 96 * 0x400000 + n / 8 % 12 * 0x10000 + n % 8 * 0x100
def CORE_LOOP (n i : Nat) : Nat := 0x1001020 + n / 96 * 0x400000 + n / 8 % 12 * 0x10000 + n % 8 * 0x100 + i * 0x4
def CORE_DISCARD (n : Nat) : Nat := 0x1001030 + n / 96 * 0x400000 + n / 8 % 12 * 0x10000 + n % 8 * 0x100
def CORE_IN_HELD (n i : Nat) : Nat := 0x1001040 + n / 96 * 0x400000 + n / 8 % 12 * 0x10000 + n % 8 * 0x100 + i * 0x4
def CORE_OUT_CREDIT (n j : Nat) : Nat := 0x1001080 + n / 96 * 0x400000 + n / 8 % 12 * 0x10000 + n % 8 * 0x100 + j * 0x4
def CORE_CL_LEASE (g : Nat) : Nat := 0x1001800 + g / 12 * 0x400000 + g % 12 * 0x10000
def ARR_CTRL (g : Nat) : Nat := 0x1000000 + g / 12 * 0x400000 + g % 12 * 0x10000
def ARR_STATUS (g : Nat) : Nat := 0x1000004 + g / 12 * 0x400000 + g % 12 * 0x10000
def ARR_SLAG_REQ (g : Nat) : Nat := 0x1000008 + g / 12 * 0x400000 + g % 12 * 0x10000
def ARR_PASS_ERR (g : Nat) : Nat := 0x100000C + g / 12 * 0x400000 + g % 12 * 0x10000
def ARR_PASS_COUNT (g : Nat) : Nat := 0x1000010 + g / 12 * 0x400000 + g % 12 * 0x10000
def ARR_INT_SAT_COUNT (g : Nat) : Nat := 0x1000014 + g / 12 * 0x400000 + g % 12 * 0x10000
def ARR_FREEZE_FEED_LO (g : Nat) : Nat := 0x1000018 + g / 12 * 0x400000 + g % 12 * 0x10000
def ARR_FREEZE_FEED_HI (g : Nat) : Nat := 0x100001C + g / 12 * 0x400000 + g % 12 * 0x10000
def ARR_FREEZE_DRAIN_LO (g : Nat) : Nat := 0x1000020 + g / 12 * 0x400000 + g % 12 * 0x10000
def ARR_FREEZE_DRAIN_HI (g : Nat) : Nat := 0x1000024 + g / 12 * 0x400000 + g % 12 * 0x10000
def ARR_STREAM_CYCLES_LO (g : Nat) : Nat := 0x1000028 + g / 12 * 0x400000 + g % 12 * 0x10000
def ARR_STREAM_CYCLES_HI (g : Nat) : Nat := 0x100002C + g / 12 * 0x400000 + g % 12 * 0x10000
def ARR_SLAG_LAST (g : Nat) : Nat := 0x1000030 + g / 12 * 0x400000 + g % 12 * 0x10000
def ARR_SLAG_MAP (g i : Nat) : Nat := 0x1000040 + g / 12 * 0x400000 + g % 12 * 0x10000 + i * 0x4
def NUM_CTRL : Nat := 0x90000
def NUM_STATUS : Nat := 0x90004
def NUM_SKIP_FRAC : Nat := 0x90008
def NUM_LS_CFG : Nat := 0x9000C
def NUM_LS_SET : Nat := 0x90010
def NUM_LS_SET_STEP : Nat := 0x90014
def NUM_LS_NOW : Nat := 0x90018
def NUM_LS_NOW_STEP : Nat := 0x9001C
def NUM_VERDICT : Nat := 0x90020
def NUM_VERDICT_STEP : Nat := 0x90024
def NUM_SKIP_COUNT : Nat := 0x90028
def NUM_SHADOW_CFG : Nat := 0x9002C
def NUM_UF_LIMIT : Nat := 0x90030
def NUM_TV_EDITION : Nat := 0x90034
def NUM_GUARD_OVERRUN : Nat := 0x90038
def NUM_DIE_CTR (d i : Nat) : Nat := 0x90100 + d * 0x40 + i * 0x4
def NUM_SHADOW_SUSPECT (g : Nat) : Nat := 0x90200 + g / 12 * 0x30 + g % 12 * 0x4
def NUM_HUB_CTR (i : Nat) : Nat := 0x90300 + i * 0x4
def NUM_WATCH_CFG (w : Nat) : Nat := 0x91000 + w * 0x8
def NUM_WATCH_STATE (w : Nat) : Nat := 0x91004 + w * 0x8
def NUM_SEED_LO : Nat := 0x90040
def NUM_SEED_HI : Nat := 0x90044
def CORE_VEC_ERR (n : Nat) : Nat := 0x10010C0 + n / 96 * 0x400000 + n / 8 % 12 * 0x10000 + n % 8 * 0x100
def CORE_VEC_OPS (n : Nat) : Nat := 0x10010C4 + n / 96 * 0x400000 + n / 8 % 12 * 0x10000 + n % 8 * 0x100
def CORE_STAGE_POISON (n i : Nat) : Nat := 0x10010D0 + n / 96 * 0x400000 + n / 8 % 12 * 0x10000 + n % 8 * 0x100 + i * 0x4
def CORE_STAGE_FAIL (n : Nat) : Nat := 0x10010F0 + n / 96 * 0x400000 + n / 8 % 12 * 0x10000 + n % 8 * 0x100
def MEM_OPT_CTRL (k : Nat) : Nat := 0x48000 + k * 0x40
def MEM_OPT_ETA (k : Nat) : Nat := 0x48004 + k * 0x40
def MEM_OPT_BETA1 (k : Nat) : Nat := 0x48008 + k * 0x40
def MEM_OPT_BETA2 (k : Nat) : Nat := 0x4800C + k * 0x40
def MEM_OPT_EPS (k : Nat) : Nat := 0x48010 + k * 0x40
def MEM_OPT_LAMBDA (k : Nat) : Nat := 0x48014 + k * 0x40
def MEM_OPT_NORM_LIMIT (k : Nat) : Nat := 0x48018 + k * 0x40
def MEM_OPT_GNORM_LIMIT (k : Nat) : Nat := 0x4801C + k * 0x40
def MEM_OPT_STEP0 (k : Nat) : Nat := 0x48020 + k * 0x40
def MEM_LG_BASE_LO (k : Nat) : Nat := 0x4C000 + k * 0x20
def MEM_LG_BASE_HI (k : Nat) : Nat := 0x4C004 + k * 0x20
def MEM_LG_CFG (k : Nat) : Nat := 0x4C008 + k * 0x20
def MEM_LG_USED (k : Nat) : Nat := 0x4C00C + k * 0x20
def MEM_LG_REFUSED (k : Nat) : Nat := 0x4C010 + k * 0x20
def MEM_LG_LATE (k : Nat) : Nat := 0x4C014 + k * 0x20
def MEM_LG_DRAINED (k : Nat) : Nat := 0x4C018 + k * 0x20
def MEM_LG_DROPPED (k : Nat) : Nat := 0x4C01C + k * 0x20
def MEM_OPT_AUDIT_LOG2 : Nat := 0x47F00
def MEM_OPT_APPLIED : Nat := 0x47F04
def MEM_OPT_NONFINITE : Nat := 0x47F08
def MEM_OPT_NORMLIM : Nat := 0x47F0C
def MEM_OPT_AUDITED : Nat := 0x47F10
def MEM_OPT_DRIFT : Nat := 0x47F14
def MEM_OPT_VSTALE : Nat := 0x47F18
def CORE_OPT_ERR (n : Nat) : Nat := 0x10010C8 + n / 96 * 0x400000 + n / 8 % 12 * 0x10000 + n % 8 * 0x100
def CORE_OPT_OPS (n : Nat) : Nat := 0x10010CC + n / 96 * 0x400000 + n / 8 % 12 * 0x10000 + n % 8 * 0x100
def MEM_TD_SEL : Nat := 0x46000
def MEM_TD_CMD : Nat := 0x46004
def MEM_TD_AT_LO : Nat := 0x46008
def MEM_TD_AT_HI : Nat := 0x4600C
def MEM_TD_ERR : Nat := 0x46010
def MEM_TD_STALE : Nat := 0x46014
def MEM_TD_SWITCHES : Nat := 0x46018
def MEM_TD_SHADOW (w : Nat) : Nat := 0x46040 + w * 0x4
def MEM_TD_READ (w : Nat) : Nat := 0x46080 + w * 0x4
def MEM_TD_MAP_SEL : Nat := 0x46100
def MEM_TD_MAP_LO : Nat := 0x46104
def MEM_TD_MAP_HI : Nat := 0x46108
def PICK_STATUS (g p : Nat) : Nat := 0x1002000 + g / 12 * 0x400000 + g % 12 * 0x10000 + p * 0x100
def PICK_LOOKUPS (g p : Nat) : Nat := 0x1002004 + g / 12 * 0x400000 + g % 12 * 0x10000 + p * 0x100
def PICK_ROWS_LO (g p : Nat) : Nat := 0x1002008 + g / 12 * 0x400000 + g % 12 * 0x10000 + p * 0x100
def PICK_ROWS_HI (g p : Nat) : Nat := 0x100200C + g / 12 * 0x400000 + g % 12 * 0x10000 + p * 0x100
def PICK_ROW_FAIL (g p : Nat) : Nat := 0x1002010 + g / 12 * 0x400000 + g % 12 * 0x10000 + p * 0x100
def PICK_OOR (g p : Nat) : Nat := 0x1002014 + g / 12 * 0x400000 + g % 12 * 0x10000 + p * 0x100
def PICK_TRK_WAIT (g p : Nat) : Nat := 0x1002018 + g / 12 * 0x400000 + g % 12 * 0x10000 + p * 0x100
def MEM_CR_HOLD_BASE_LO : Nat := 0x4D000
def MEM_CR_HOLD_BASE_HI : Nat := 0x4D004
def MEM_CR_HOLD_SIZE : Nat := 0x4D008
def MEM_CR_HOLD_USED : Nat := 0x4D00C
def MEM_CR_FOLDS : Nat := 0x4D010
def MEM_CR_HOLD_FULL : Nat := 0x4D014
def MEM_CR_KEY_DUP : Nat := 0x4D018
def MEM_CR_INT_SAT : Nat := 0x4D01C
def MEM_CR_FAIL : Nat := 0x4D020
def MEM_HOT_CFG : Nat := 0x4E000
def MEM_HOT_SEL : Nat := 0x4E004
def MEM_HOT_CMD : Nat := 0x4E008
def MEM_HOT_AT_LO : Nat := 0x4E00C
def MEM_HOT_AT_HI : Nat := 0x4E010
def MEM_HOT_ERR : Nat := 0x4E014
def MEM_HOT_PROPOSED : Nat := 0x4E018
def MEM_HOT_PROP_DROP : Nat := 0x4E01C
def MEM_HOT_REFRESHED : Nat := 0x4E020
def MEM_HOT_REFRESH_FAIL : Nat := 0x4E024
def MEM_HOT_LATE_READ : Nat := 0x4E028
def MEM_HOT_HOME_READ : Nat := 0x4E02C
def MEM_HOT_SHADOW (w : Nat) : Nat := 0x4E100 + w * 0x4
def MEM_HOT_READ (w : Nat) : Nat := 0x4E180 + w * 0x4
def MEM_MV_SEL : Nat := 0x4F000
def MEM_MV_CMD : Nat := 0x4F004
def MEM_MV_AT_LO : Nat := 0x4F008
def MEM_MV_AT_HI : Nat := 0x4F00C
def MEM_MV_ERR : Nat := 0x4F010
def MEM_MV_FWD : Nat := 0x4F014
def MEM_MV_DONE : Nat := 0x4F018
def MEM_MV_ABANDONED : Nat := 0x4F01C
def MEM_MV_SHADOW (w : Nat) : Nat := 0x4F040 + w * 0x4
def MEM_MV_READ (w : Nat) : Nat := 0x4F050 + w * 0x4
def CORE_CR_ERR (n : Nat) : Nat := 0x10010F4 + n / 96 * 0x400000 + n / 8 % 12 * 0x10000 + n % 8 * 0x100
def CORE_CR_OPS (n : Nat) : Nat := 0x10010F8 + n / 96 * 0x400000 + n / 8 % 12 * 0x10000 + n % 8 * 0x100
def MEM_CTRL : Nat := 0x40000
def MEM_STATUS : Nat := 0x40004
def MEM_TMO_T01 : Nat := 0x40008
def MEM_TMO_T2 : Nat := 0x4000C
def MEM_TMO_T3 : Nat := 0x40010
def MEM_T2_SIZE : Nat := 0x40014
def MEM_T1_SIZE : Nat := 0x40018
def MEM_T0_SIZE (d : Nat) : Nat := 0x40020 + d * 0x4
def MEM_TRK_DEPTH (d : Nat) : Nat := 0x40100 + d * 0x20
def MEM_TRK_USED (d : Nat) : Nat := 0x40104 + d * 0x20
def MEM_TRK_PEAK (d : Nat) : Nat := 0x40108 + d * 0x20
def MEM_TRK_WAIT (d : Nat) : Nat := 0x4010C + d * 0x20
def MEM_REQ_TMO (d : Nat) : Nat := 0x40110 + d * 0x20
def MEM_REQ_ERR (d : Nat) : Nat := 0x40114 + d * 0x20
def MEM_ECC_CE (u : Nat) : Nat := 0x40200 + u * 0x10
def MEM_ECC_UE (u : Nat) : Nat := 0x40204 + u * 0x10
def MEM_RELEASED_HIT (u : Nat) : Nat := 0x40208 + u * 0x10
def MEM_STACK (d k : Nat) : Nat := 0x40300 + d * 0x10 + k * 0x4
def HIF_B2_MAP_LO (a : Nat) : Nat := 0x20800 + a * 0x8
def HIF_B2_MAP_HI (a : Nat) : Nat := 0x20804 + a * 0x8
def HIF_B2_MISS : Nat := 0x20A00
def HIF_B2_FAIL : Nat := 0x20A04
def FAB_CTRL : Nat := 0x50000
def FAB_STATUS : Nat := 0x50004
def FAB_SELF : Nat := 0x50008
def FAB_EPOCH : Nat := 0x5000C
def FAB_RESEQ_TMO : Nat := 0x50010
def FAB_RETRAIN_S : Nat := 0x50014
def FAB_RETRY_US : Nat := 0x50018
def FAB_DUP : Nat := 0x50020
def FAB_RESEQ_GAP : Nat := 0x50024
def FAB_HOP_DROP : Nat := 0x50028
def FAB_DETOURS : Nat := 0x5002C
def FAB_BAD_PKT : Nat := 0x50030
def FAB_LDIM_LO : Nat := 0x50040
def FAB_LDIM_HI : Nat := 0x50044
def FAB_LDIM_AT_LO : Nat := 0x50048
def FAB_LDIM_AT_HI : Nat := 0x5004C
def FAB_LDIM_NOW_LO : Nat := 0x50050
def FAB_LDIM_NOW_HI : Nat := 0x50054
def FAB_ROUTE (m : Nat) : Nat := 0x58000 + m * 0x4
def FAB_P_CTRL (p : Nat) : Nat := 0x50100 + p * 0x40
def FAB_P_STATUS (p : Nat) : Nat := 0x50104 + p * 0x40
def FAB_P_PARTNER (p : Nat) : Nat := 0x50108 + p * 0x40
def FAB_P_CAPS (p : Nat) : Nat := 0x5010C + p * 0x40
def FAB_P_DELAY (p : Nat) : Nat := 0x50110 + p * 0x40
def FAB_P_LENGTH (p : Nat) : Nat := 0x50114 + p * 0x40
def FAB_P_REPLAYS (p : Nat) : Nat := 0x50118 + p * 0x40
def FAB_P_FLIT_ERR (p : Nat) : Nat := 0x5011C + p * 0x40
def FAB_P_DOWNS (p : Nat) : Nat := 0x50120 + p * 0x40
def COL_CTRL : Nat := 0x60000
def COL_STATUS : Nat := 0x60004
def COL_BK_SEL : Nat := 0x60008
def COL_BK_CMD : Nat := 0x6000C
def COL_BK_ERR : Nat := 0x60010
def COL_DONE : Nat := 0x60014
def COL_FAILED : Nat := 0x60018
def COL_STRAY : Nat := 0x6001C
def COL_LATE_ADD : Nat := 0x60020
def COL_STORE_USED : Nat := 0x60024
def COL_SC_STEP : Nat := 0x60028
def COL_SC_GNORM2 : Nat := 0x6002C
def COL_BK_SHADOW (w : Nat) : Nat := 0x60040 + w * 0x4
def COL_BK_READ (w : Nat) : Nat := 0x60080 + w * 0x4
def COL_TN (k : Nat) : Nat := 0x60100 + k * 0x4
def COL_GNS_CFG : Nat := 0x60200
def COL_GNS_BSMALL : Nat := 0x60204
def COL_BK_LAST_STEP (b : Nat) : Nat := 0x61000 + b * 0x10
def COL_BK_LAST_STATUS (b : Nat) : Nat := 0x61004 + b * 0x10
def COL_BK_NORM2 (b : Nat) : Nat := 0x61008 + b * 0x10
def COL_BK_LOCAL2 (b : Nat) : Nat := 0x6100C + b * 0x10
def COL_GNS_G2 (g : Nat) : Nat := 0x65000 + g * 0x10
def COL_GNS_TR (g : Nat) : Nat := 0x65004 + g * 0x10
def COL_GNS_BNOISE (g : Nat) : Nat := 0x65008 + g * 0x10
def COL_GNS_STEP (g : Nat) : Nat := 0x6500C + g * 0x10
def HIF_CTRL : Nat := 0x20000
def HIF_STATUS : Nat := 0x20004
def HIF_DB_BASE_LO : Nat := 0x20008
def HIF_DB_BASE_HI : Nat := 0x2000C
def HIF_SESSION : Nat := 0x20010
def HIF_DB_STALE : Nat := 0x20014
def HIF_DB_READS : Nat := 0x20018
def HIF_EV_UNROUTED : Nat := 0x2001C
def HIF_T2_TAB_LO : Nat := 0x20020
def HIF_T2_TAB_HI : Nat := 0x20024
def HIF_T2_CMD : Nat := 0x20028
def HIF_PEER_FLUSH : Nat := 0x20030
def HIF_SQ_BASE_LO (r : Nat) : Nat := 0x21000 + r * 0x20
def HIF_SQ_BASE_HI (r : Nat) : Nat := 0x21004 + r * 0x20
def HIF_SQ_CFG (r : Nat) : Nat := 0x21008 + r * 0x20
def HIF_SQ_ACCEPTED (r : Nat) : Nat := 0x2100C + r * 0x20
def HIF_SQ_DONE (r : Nat) : Nat := 0x21010 + r * 0x20
def HIF_SQ_HELD (r : Nat) : Nat := 0x21014 + r * 0x20
def HIF_CQ_BASE_LO (q : Nat) : Nat := 0x21800 + q * 0x20
def HIF_CQ_BASE_HI (q : Nat) : Nat := 0x21804 + q * 0x20
def HIF_CQ_CFG (q : Nat) : Nat := 0x21808 + q * 0x20
def HIF_CQ_POSTED (q : Nat) : Nat := 0x2180C + q * 0x20
def HIF_CQ_SEEN (q : Nat) : Nat := 0x21810 + q * 0x20
def HIF_ER_BASE_LO (e : Nat) : Nat := 0x22000 + e * 0x20
def HIF_ER_BASE_HI (e : Nat) : Nat := 0x22004 + e * 0x20
def HIF_ER_CFG (e : Nat) : Nat := 0x22008 + e * 0x20
def HIF_ER_MASK (e : Nat) : Nat := 0x2200C + e * 0x20
def HIF_ER_POSTED (e : Nat) : Nat := 0x22010 + e * 0x20
def HIF_ER_SEEN (e : Nat) : Nat := 0x22014 + e * 0x20
def HIF_PW_BASE_LO (w : Nat) : Nat := 0x22400 + w * 0x20
def HIF_PW_BASE_HI (w : Nat) : Nat := 0x22404 + w * 0x20
def HIF_PW_SIZE (w : Nat) : Nat := 0x22408 + w * 0x20
def HIF_PW_CTRL (w : Nat) : Nat := 0x2240C + w * 0x20
def HIF_PW_EXPECT_LO (w : Nat) : Nat := 0x22410 + w * 0x20
def HIF_PW_EXPECT_HI (w : Nat) : Nat := 0x22414 + w * 0x20
def HIF_PW_RTT (w : Nat) : Nat := 0x22418 + w * 0x20
def MSIX_TABLE (v w : Nat) : Nat := 0x24000 + v * 0x10 + w * 0x4
def MSIX_TABLE_CTL (v : Nat) : Nat := 0x2400C + v * 0x10
def MSIX_PENDING (w : Nat) : Nat := 0x25000 + w * 0x4
def CORE_LD_ERR (n : Nat) : Nat := 0x1001034 + n / 96 * 0x400000 + n / 8 % 12 * 0x10000 + n % 8 * 0x100
def CORE_LD_OPS (n : Nat) : Nat := 0x1001038 + n / 96 * 0x400000 + n / 8 % 12 * 0x10000 + n % 8 * 0x100
def CORE_LD_FAIL (n : Nat) : Nat := 0x100103C + n / 96 * 0x400000 + n / 8 % 12 * 0x10000 + n % 8 * 0x100
def ING_RES_CFG : Nat := 0x30000
def ING_STATUS : Nat := 0x30004
def ING_RES_FREE : Nat := 0x30008
def ING_STOP_SUM : Nat := 0x3000C
def ING_RATE_SUM : Nat := 0x30010
def ING_RES_TIME_US : Nat := 0x30014
def ING_OVERRUN : Nat := 0x30018
def ING_HOLDS : Nat := 0x3001C
def ING_P_CTRL (p : Nat) : Nat := 0x30100 + p * 0x40
def ING_P_LANE (p : Nat) : Nat := 0x30104 + p * 0x40
def ING_P_STOP (p : Nat) : Nat := 0x30108 + p * 0x40
def ING_P_RATE (p : Nat) : Nat := 0x3010C + p * 0x40
def ING_P_NOTE_LO (p : Nat) : Nat := 0x30110 + p * 0x40
def ING_P_NOTE_HI (p : Nat) : Nat := 0x30114 + p * 0x40
def ING_P_CONSUME_POS_LO (p : Nat) : Nat := 0x30118 + p * 0x40
def ING_P_CONSUME_POS_HI (p : Nat) : Nat := 0x3011C + p * 0x40
def ING_P_COMMIT_POS_LO (p : Nat) : Nat := 0x30120 + p * 0x40
def ING_P_COMMIT_POS_HI (p : Nat) : Nat := 0x30124 + p * 0x40
def ING_P_FREE (p : Nat) : Nat := 0x30128 + p * 0x40
def HIF_LOSS_CFG : Nat := 0x20040
def HIF_LOSS_STATUS : Nat := 0x20044
def HIF_LOSS_TIME_LO : Nat := 0x20048
def HIF_LOSS_TIME_HI : Nat := 0x2004C
def HIF_RETAIN_KIB : Nat := 0x20050
def HIF_LOSS_VOID : Nat := 0x20054
def HIF_OPEN : Nat := 0x20058
def HIF_EPOCH_NEXT_ADDR_LO : Nat := 0x20060
def HIF_EPOCH_NEXT_ADDR_HI : Nat := 0x20064
def HIF_EPOCH_NEXT_LO : Nat := 0x20068
def HIF_EPOCH_NEXT_HI : Nat := 0x2006C
def HIF_EPOCH_ADDR_LO : Nat := 0x20070
def HIF_EPOCH_ADDR_HI : Nat := 0x20074
def HIF_EPOCH_LO : Nat := 0x20078
def HIF_EPOCH_HI : Nat := 0x2007C
def PWR_CTRL : Nat := 0x70000
def PWR_STATUS : Nat := 0x70004
def PWR_CAP_BASE : Nat := 0x70008
def PWR_CAP_NOW : Nat := 0x7000C
def PWR_VIN : Nat := 0x70010
def PWR_PIN : Nat := 0x70014
def PWR_TOKENS : Nat := 0x70018
def PWR_BROKER_CFG : Nat := 0x7001C
def PWR_TOKEN_RESET_AT_LO : Nat := 0x70020
def PWR_TOKEN_RESET_AT_HI : Nat := 0x70024
def PWR_OVERCAP : Nat := 0x70028
def PWR_COOL : Nat := 0x7002C
def PWR_HUB_TJ : Nat := 0x70030
def PWR_SCORE : Nat := 0x70034
def PWR_PHASE_INIT : Nat := 0x70038
def PWR_ARRIVAL_LO (i : Nat) : Nat := 0x70200 + i * 0x8
def PWR_ARRIVAL_HI (i : Nat) : Nat := 0x70204 + i * 0x8
def PWR_PHASE (d t : Nat) : Nat := 0x71000 + d * 0x400 + t * 0x4
def PWR_D_CTRL (d : Nat) : Nat := 0x70100 + d * 0x20
def PWR_D_STEP (d : Nat) : Nat := 0x70104 + d * 0x20
def PWR_D_TJ (d : Nat) : Nat := 0x70108 + d * 0x20
def PWR_D_POWER (d : Nat) : Nat := 0x7010C + d * 0x20
def PWR_D_CHANGES (d : Nat) : Nat := 0x70110 + d * 0x20
def CAST_CTRL : Nat := 0x80000
def CAST_STATUS : Nat := 0x80004
def CAST_NUMBER : Nat := 0x80008
def CAST_AT_LO : Nat := 0x8000C
def CAST_AT_HI : Nat := 0x80010
def CAST_REC_STEP : Nat := 0x80014
def CAST_REC_MB : Nat := 0x80018
def CAST_EST_US : Nat := 0x8001C
def CAST_STOP_US : Nat := 0x80020
def CAST_STOP_ACT : Nat := 0x80024
def CAST_LAST : Nat := 0x80028
def CAST_LATE_WRITE : Nat := 0x8002C
def CAST_DIVERGED_COUNT : Nat := 0x80030
def CAST_RES0 (d : Nat) : Nat := 0x80040 + d * 0x4
def CAST_RES1 : Nat := 0x80050
def CAST_BUDDY : Nat := 0x80054
def CAST_HOST_LO : Nat := 0x80058
def CAST_HOST_HI : Nat := 0x8005C
def CAST_HOST_SIZE : Nat := 0x80060
def CAST_RS_CTRL : Nat := 0x80100
def CAST_RS_NUMBER : Nat := 0x80104
def CAST_RS_MODULE : Nat := 0x80108
def CAST_RS_STEP : Nat := 0x8010C
def CAST_RS_MB : Nat := 0x80110
def CAST_RS_OBJ : Nat := 0x80114
def CAST_RS_T2 : Nat := 0x80118
def CAST_RS_STATUS : Nat := 0x8011C
def CAST_RS_PMASK : Nat := 0x80120
def CAST_RS_POS_LO (p : Nat) : Nat := 0x80140 + p * 0x8
def CAST_RS_POS_HI (p : Nat) : Nat := 0x80144 + p * 0x8
def CAST_UNIT_CMD : Nat := 0x80200
def CAST_DIE_LOST : Nat := 0x80204
def CAST_CLUSTER_STATE (g : Nat) : Nat := 0x80300 + g / 12 * 0x30 + g % 12 * 0x4
def CAST_ML_CMD : Nat := 0x80400
def CAST_ML_MAP (w : Nat) : Nat := 0x80800 + w * 0x4
def CAST_DIS_SEL : Nat := 0x80C00
def CAST_DIS_CMD : Nat := 0x80C04
def CAST_DIS_STATE : Nat := 0x80C08
def CAST_OBJ_ADDR_LO (k : Nat) : Nat := 0x88000 + k * 0x20
def CAST_OBJ_ADDR_HI (k : Nat) : Nat := 0x88004 + k * 0x20
def CAST_OBJ_SIZE (k : Nat) : Nat := 0x88008 + k * 0x20
def CAST_OBJ_SETS (k : Nat) : Nat := 0x8800C + k * 0x20
def CAST_OBJ_LAST (k : Nat) : Nat := 0x88010 + k * 0x20
def CAST_OBJ_RS (k : Nat) : Nat := 0x88014 + k * 0x20
def ID_PCI : Nat := 0x0
def ID_STEPPING : Nat := 0x4
def ID_SERIAL_LO : Nat := 0x8
def ID_SERIAL_HI : Nat := 0xC
def ID_BOOT : Nat := 0x10
def ID_BOOT_TIME : Nat := 0x14
def ID_RESET_CAUSE : Nat := 0x18
def ID_RESET : Nat := 0x1C
def ID_SETUP : Nat := 0x20
def ID_LOCK_ERR : Nat := 0x24
def ID_MAINT_N : Nat := 0x30
def ID_MAINT_REQ : Nat := 0x34
def ID_MAINT_RESULT : Nat := 0x38
def ID_MAINT_COUNT : Nat := 0x3C
def ID_STAGE_MS (k : Nat) : Nat := 0x60 + k * 0x4
def ID_DIE_BOOT (d : Nat) : Nat := 0x80 + d * 0x4
def ID_VIN_BOOT : Nat := 0x90
def FWC_RUN_VER : Nat := 0xB0000
def FWC_RUN_INFO : Nat := 0xB0004
def FWC_OTP_SVN : Nat := 0xB0008
def FWC_CONFIRMED_VER : Nat := 0xB000C
def FWC_CTRL : Nat := 0xB0010
def FWC_STATUS : Nat := 0xB0014
def FWC_STAGE_SRC_LO : Nat := 0xB0018
def FWC_STAGE_SRC_HI : Nat := 0xB001C
def FWC_STAGE_LEN : Nat := 0xB0020
def FWC_STAGE_EST_S : Nat := 0xB0024
def FWC_STAGED_VER : Nat := 0xB0028
def FWC_STAGED_INFO : Nat := 0xB002C
def FWC_BOOT_COUNT : Nat := 0xB0030
def FWC_SET_SEL : Nat := 0xB0040
def FWC_SET_WRITE : Nat := 0xB0044
def FWC_SET_STORED : Nat := 0xB0048
def FWC_SET_HELD : Nat := 0xB004C
def FWC_SET_FMT : Nat := 0xB0050
def FWC_JNL_NEXT : Nat := 0xB0060
def FWC_JNL_OLDEST : Nat := 0xB0064
def FWC_JNL_SEL : Nat := 0xB0068
def FWC_JNL_READ (w : Nat) : Nat := 0xB0080 + w * 0x4
def SEC_STATUS : Nat := 0xA0000
def SEC_EID : Nat := 0xA0004
def SEC_SMBUS : Nat := 0xA0008
def SEC_MGMT_EN : Nat := 0xA000C
def SEC_ATTEST_COUNT : Nat := 0xA0010
def SEC_REJECT_COUNT : Nat := 0xA0014
def SEC_OWNER_DIGEST (w : Nat) : Nat := 0xA0020 + w * 0x4
def SEC_ID_DIGEST (w : Nat) : Nat := 0xA0040 + w * 0x4

end Sys2Proof.Reg

namespace Sys2Proof.Fld
open Sys2Proof.Machine

def HEAT_REF_EN : Field := ⟨Reg.HEAT_CTRL, 2, 2⟩
def HEAT_MASTER_ELIG : Field := ⟨Reg.HEAT_CTRL, 1, 1⟩
def HEAT_RUN : Field := ⟨Reg.HEAT_CTRL, 0, 0⟩
def HEAT_HELD : Field := ⟨Reg.HEAT_STATUS, 5, 5⟩
def HEAT_SYNCED : Field := ⟨Reg.HEAT_STATUS, 4, 4⟩
def HEAT_PPS_LOCK : Field := ⟨Reg.HEAT_STATUS, 3, 3⟩
def HEAT_10M_LOCK : Field := ⟨Reg.HEAT_STATUS, 2, 2⟩
def HEAT_IS_MASTER : Field := ⟨Reg.HEAT_STATUS, 1, 1⟩
def HEAT_RUNNING : Field := ⟨Reg.HEAT_STATUS, 0, 0⟩
def HEAT_PERIOD_US : Field := ⟨Reg.HEAT_CFG, 22, 8⟩
def HEAT_SET_PM : Field := ⟨Reg.HEAT_CFG, 7, 0⟩
def HEAT_PERIOD_US_OF_HEAT_CFG_NEXT : Field := ⟨Reg.HEAT_CFG_NEXT, 22, 8⟩
def HEAT_SET_PM_OF_HEAT_CFG_NEXT : Field := ⟨Reg.HEAT_CFG_NEXT, 7, 0⟩
def HEAT_CHANGE_ARM : Field := ⟨Reg.HEAT_CHANGE_AT_HI, 31, 31⟩
def HEAT_CHANGE_AT_H : Field := ⟨Reg.HEAT_CHANGE_AT_HI, 15, 0⟩
def HEAT_WDOG_HEATS : Field := ⟨Reg.HEAT_WDOG, 7, 0⟩
def HEAT_CM_CONSEC (g : Nat) : Field := ⟨Reg.HEAT_CLUSTER_MISS g, 31, 24⟩
def HEAT_CM_TOTAL (g : Nat) : Field := ⟨Reg.HEAT_CLUSTER_MISS g, 23, 0⟩
def CORE_STOP (n : Nat) : Field := ⟨Reg.CORE_CTRL n, 2, 2⟩
def CORE_SWITCH_ARM (n : Nat) : Field := ⟨Reg.CORE_CTRL n, 1, 1⟩
def CORE_VALIDATE (n : Nat) : Field := ⟨Reg.CORE_CTRL n, 0, 0⟩
def CORE_LOAD_ERR (n : Nat) : Field := ⟨Reg.CORE_STATUS n, 23, 16⟩
def CORE_VALIDATING (n : Nat) : Field := ⟨Reg.CORE_STATUS n, 10, 10⟩
def CORE_LAST_ALT (n : Nat) : Field := ⟨Reg.CORE_STATUS n, 9, 8⟩
def CORE_IDLE_LAST (n : Nat) : Field := ⟨Reg.CORE_STATUS n, 7, 7⟩
def CORE_INACTIVE_OK (n : Nat) : Field := ⟨Reg.CORE_STATUS n, 6, 6⟩
def CORE_ACTIVE_BANK (n : Nat) : Field := ⟨Reg.CORE_STATUS n, 5, 5⟩
def CORE_STATE (n : Nat) : Field := ⟨Reg.CORE_STATUS n, 3, 0⟩
def ARR_RAMP_SEL (g : Nat) : Field := ⟨Reg.ARR_CTRL g, 1, 0⟩
def ARR_SLAG_K (g : Nat) : Field := ⟨Reg.ARR_STATUS g, 25, 20⟩
def ARR_FAILED (g : Nat) : Field := ⟨Reg.ARR_STATUS g, 19, 19⟩
def ARR_SLAG_PEND (g : Nat) : Field := ⟨Reg.ARR_STATUS g, 18, 18⟩
def ARR_RAMP_STATE (g : Nat) : Field := ⟨Reg.ARR_STATUS g, 17, 16⟩
def ARR_WIDTH (g : Nat) : Field := ⟨Reg.ARR_STATUS g, 9, 0⟩
def ARR_SLAG_ARM (g : Nat) : Field := ⟨Reg.ARR_SLAG_REQ g, 31, 31⟩
def ARR_SLAG_COL (g : Nat) : Field := ⟨Reg.ARR_SLAG_REQ g, 8, 0⟩
def NUM_SHADOW_LOG2 : Field := ⟨Reg.NUM_CTRL, 12, 8⟩
def NUM_GUARD_EN : Field := ⟨Reg.NUM_CTRL, 0, 0⟩
def NUM_LS_AT_MIN : Field := ⟨Reg.NUM_STATUS, 2, 2⟩
def NUM_UF_ANY : Field := ⟨Reg.NUM_STATUS, 1, 1⟩
def NUM_VERDICT_WAIT : Field := ⟨Reg.NUM_STATUS, 0, 0⟩
def NUM_LS_GROW : Field := ⟨Reg.NUM_LS_CFG, 31, 16⟩
def NUM_LS_MAX : Field := ⟨Reg.NUM_LS_CFG, 15, 8⟩
def NUM_LS_MIN : Field := ⟨Reg.NUM_LS_CFG, 7, 0⟩
def NUM_LS_ARM : Field := ⟨Reg.NUM_LS_SET, 31, 31⟩
def NUM_SHADOW_SLAG : Field := ⟨Reg.NUM_SHADOW_CFG, 31, 24⟩
def NUM_SHADOW_THRESH : Field := ⟨Reg.NUM_SHADOW_CFG, 23, 16⟩
def NUM_SHADOW_B4 : Field := ⟨Reg.NUM_SHADOW_CFG, 14, 10⟩
def NUM_SHADOW_B8 : Field := ⟨Reg.NUM_SHADOW_CFG, 9, 5⟩
def NUM_SHADOW_B16 : Field := ⟨Reg.NUM_SHADOW_CFG, 4, 0⟩
def NUM_WS_GUARD (w : Nat) : Field := ⟨Reg.NUM_WATCH_CFG w, 1, 1⟩
def NUM_WS_EN (w : Nat) : Field := ⟨Reg.NUM_WATCH_CFG w, 0, 0⟩
def NUM_WS_ALARM (w : Nat) : Field := ⟨Reg.NUM_WATCH_STATE w, 31, 31⟩
def MEM_OPT_ARM (k : Nat) : Field := ⟨Reg.MEM_OPT_CTRL k, 31, 31⟩
def MEM_OPT_PEND (k : Nat) : Field := ⟨Reg.MEM_OPT_CTRL k, 30, 30⟩
def MEM_OPT_RULE (k : Nat) : Field := ⟨Reg.MEM_OPT_CTRL k, 3, 0⟩
def MEM_LG_EN (k : Nat) : Field := ⟨Reg.MEM_LG_CFG k, 31, 31⟩
def MEM_TD_ARM : Field := ⟨Reg.MEM_TD_CMD, 31, 31⟩
def MEM_TD_PEND : Field := ⟨Reg.MEM_TD_CMD, 30, 30⟩
def MEM_TD_DRAIN : Field := ⟨Reg.MEM_TD_CMD, 29, 29⟩
def MEM_TD_VALID : Field := ⟨Reg.MEM_TD_CMD, 28, 28⟩
def MEM_TD_OP : Field := ⟨Reg.MEM_TD_CMD, 1, 0⟩
def PICK_BUSY (g p : Nat) : Field := ⟨Reg.PICK_STATUS g p, 8, 8⟩
def PICK_ERR (g p : Nat) : Field := ⟨Reg.PICK_STATUS g p, 7, 0⟩
def MEM_HOT_THRESH : Field := ⟨Reg.MEM_HOT_CFG, 31, 16⟩
def MEM_HOT_DECAY : Field := ⟨Reg.MEM_HOT_CFG, 12, 8⟩
def MEM_HOT_MAXPROP : Field := ⟨Reg.MEM_HOT_CFG, 7, 0⟩
def MEM_HOT_ARM : Field := ⟨Reg.MEM_HOT_CMD, 31, 31⟩
def MEM_HOT_PEND : Field := ⟨Reg.MEM_HOT_CMD, 30, 30⟩
def MEM_HOT_DRAIN : Field := ⟨Reg.MEM_HOT_CMD, 29, 29⟩
def MEM_HOT_VALID : Field := ⟨Reg.MEM_HOT_CMD, 28, 28⟩
def MEM_HOT_OP : Field := ⟨Reg.MEM_HOT_CMD, 1, 0⟩
def MEM_MV_ARM : Field := ⟨Reg.MEM_MV_CMD, 31, 31⟩
def MEM_MV_PEND : Field := ⟨Reg.MEM_MV_CMD, 30, 30⟩
def MEM_MV_STATE : Field := ⟨Reg.MEM_MV_CMD, 29, 28⟩
def MEM_PRI_AGE : Field := ⟨Reg.MEM_CTRL, 23, 16⟩
def MEM_TRK_LADLE_PCT : Field := ⟨Reg.MEM_CTRL, 15, 8⟩
def MEM_SCRUB_EN : Field := ⟨Reg.MEM_CTRL, 0, 0⟩
def MEM_RC_PROFILE : Field := ⟨Reg.MEM_STATUS, 16, 16⟩
def MEM_STK_DIE_STEPS (d k : Nat) : Field := ⟨Reg.MEM_STACK d k, 18, 16⟩
def MEM_STK_STATE (d k : Nat) : Field := ⟨Reg.MEM_STACK d k, 9, 8⟩
def MEM_STK_TEMP (d k : Nat) : Field := ⟨Reg.MEM_STACK d k, 7, 0⟩
def HIF_B2_VALID (a : Nat) : Field := ⟨Reg.HIF_B2_MAP_LO a, 0, 0⟩
def FAB_PAIR_EN : Field := ⟨Reg.FAB_CTRL, 16, 16⟩
def FAB_DIMS : Field := ⟨Reg.FAB_CTRL, 11, 8⟩
def FAB_WIRING : Field := ⟨Reg.FAB_CTRL, 0, 0⟩
def FAB_PARTITIONED : Field := ⟨Reg.FAB_STATUS, 31, 31⟩
def FAB_ROUTES_PEND : Field := ⟨Reg.FAB_STATUS, 30, 30⟩
def FAB_PORTS_UP : Field := ⟨Reg.FAB_STATUS, 12, 0⟩
def FAB_LDIM_ARM : Field := ⟨Reg.FAB_LDIM_HI, 31, 31⟩
def FAB_RT_VALID (m : Nat) : Field := ⟨Reg.FAB_ROUTE m, 31, 31⟩
def FAB_RT_HOPS (m : Nat) : Field := ⟨Reg.FAB_ROUTE m, 23, 16⟩
def FAB_RT_ALT (m : Nat) : Field := ⟨Reg.FAB_ROUTE m, 11, 8⟩
def FAB_RT_PRIMARY (m : Nat) : Field := ⟨Reg.FAB_ROUTE m, 3, 0⟩
def FAB_P_RETRAIN (p : Nat) : Field := ⟨Reg.FAB_P_CTRL p, 1, 1⟩
def FAB_P_DISABLE (p : Nat) : Field := ⟨Reg.FAB_P_CTRL p, 0, 0⟩
def FAB_P_FAULT (p : Nat) : Field := ⟨Reg.FAB_P_STATUS p, 23, 20⟩
def FAB_P_LOSS_CLASS (p : Nat) : Field := ⟨Reg.FAB_P_STATUS p, 19, 16⟩
def FAB_P_CLASS (p : Nat) : Field := ⟨Reg.FAB_P_STATUS p, 15, 12⟩
def FAB_P_WIDTH (p : Nat) : Field := ⟨Reg.FAB_P_STATUS p, 7, 4⟩
def FAB_P_STATE (p : Nat) : Field := ⟨Reg.FAB_P_STATUS p, 2, 0⟩
def FAB_CAP_REV (p : Nat) : Field := ⟨Reg.FAB_P_CAPS p, 31, 24⟩
def FAB_CAP_FIXED_NS (p : Nat) : Field := ⟨Reg.FAB_P_CAPS p, 23, 12⟩
def FAB_CAP_DIMS (p : Nat) : Field := ⟨Reg.FAB_P_CAPS p, 11, 8⟩
def FAB_CAP_RC (p : Nat) : Field := ⟨Reg.FAB_P_CAPS p, 7, 7⟩
def FAB_CAP_CROSSED (p : Nat) : Field := ⟨Reg.FAB_P_CAPS p, 6, 6⟩
def FAB_CAP_PAIR (p : Nat) : Field := ⟨Reg.FAB_P_CAPS p, 5, 5⟩
def FAB_CAP_LANES (p : Nat) : Field := ⟨Reg.FAB_P_CAPS p, 3, 0⟩
def COL_TMO_MS : Field := ⟨Reg.COL_CTRL, 31, 16⟩
def COL_JOB_MASK : Field := ⟨Reg.COL_CTRL, 11, 0⟩
def COL_BK_ARM : Field := ⟨Reg.COL_BK_CMD, 31, 31⟩
def COL_BK_PEND : Field := ⟨Reg.COL_BK_CMD, 30, 30⟩
def COL_BK_VALID : Field := ⟨Reg.COL_BK_CMD, 29, 29⟩
def COL_BK_RUNNING : Field := ⟨Reg.COL_BK_CMD, 28, 28⟩
def COL_BK_OP : Field := ⟨Reg.COL_BK_CMD, 1, 0⟩
def COL_GNS_REPL : Field := ⟨Reg.COL_GNS_CFG, 31, 16⟩
def HIF_FETCH_MAX : Field := ⟨Reg.HIF_CTRL, 31, 16⟩
def HIF_RO_EN : Field := ⟨Reg.HIF_CTRL, 1, 1⟩
def HIF_DB_EN : Field := ⟨Reg.HIF_CTRL, 0, 0⟩
def HIF_LINK_RATE : Field := ⟨Reg.HIF_STATUS, 27, 24⟩
def HIF_LINK_WIDTH : Field := ⟨Reg.HIF_STATUS, 20, 16⟩
def HIF_FLIT : Field := ⟨Reg.HIF_STATUS, 8, 8⟩
def HIF_LINK_UP : Field := ⟨Reg.HIF_STATUS, 4, 4⟩
def HIF_SESSION_OPEN : Field := ⟨Reg.HIF_STATUS, 0, 0⟩
def HIF_T2_LOAD : Field := ⟨Reg.HIF_T2_CMD, 31, 31⟩
def HIF_T2_LOADED : Field := ⟨Reg.HIF_T2_CMD, 30, 30⟩
def HIF_T2_ERR : Field := ⟨Reg.HIF_T2_CMD, 29, 29⟩
def HIF_SQ_EN (r : Nat) : Field := ⟨Reg.HIF_SQ_CFG r, 31, 31⟩
def HIF_SQ_ACTIVE (r : Nat) : Field := ⟨Reg.HIF_SQ_CFG r, 30, 30⟩
def HIF_SQ_LOG2 (r : Nat) : Field := ⟨Reg.HIF_SQ_CFG r, 20, 16⟩
def HIF_SQ_CQ (r : Nat) : Field := ⟨Reg.HIF_SQ_CFG r, 5, 0⟩
def HIF_CQ_EN (q : Nat) : Field := ⟨Reg.HIF_CQ_CFG q, 31, 31⟩
def HIF_CQ_LOG2 (q : Nat) : Field := ⟨Reg.HIF_CQ_CFG q, 20, 16⟩
def HIF_CQ_MSIX (q : Nat) : Field := ⟨Reg.HIF_CQ_CFG q, 15, 15⟩
def HIF_ER_EN (e : Nat) : Field := ⟨Reg.HIF_ER_CFG e, 31, 31⟩
def HIF_ER_LOG2 (e : Nat) : Field := ⟨Reg.HIF_ER_CFG e, 20, 16⟩
def HIF_ER_MSIX (e : Nat) : Field := ⟨Reg.HIF_ER_CFG e, 15, 15⟩
def HIF_PW_VALID (w : Nat) : Field := ⟨Reg.HIF_PW_CTRL w, 31, 31⟩
def HIF_PW_PROBE (w : Nat) : Field := ⟨Reg.HIF_PW_CTRL w, 30, 30⟩
def HIF_PW_BUSY (w : Nat) : Field := ⟨Reg.HIF_PW_CTRL w, 29, 29⟩
def HIF_PW_RESULT (w : Nat) : Field := ⟨Reg.HIF_PW_CTRL w, 3, 0⟩
def ING_RES_BASE : Field := ⟨Reg.ING_RES_CFG, 15, 8⟩
def ING_RES_SIZE : Field := ⟨Reg.ING_RES_CFG, 5, 0⟩
def ING_P_EN (p : Nat) : Field := ⟨Reg.ING_P_CTRL p, 31, 31⟩
def ING_P_HELD (p : Nat) : Field := ⟨Reg.ING_P_CTRL p, 30, 30⟩
def ING_P_NOTE_PEER (p : Nat) : Field := ⟨Reg.ING_P_CTRL p, 29, 29⟩
def ING_P_NOTE_WIN (p : Nat) : Field := ⟨Reg.ING_P_CTRL p, 28, 26⟩
def ING_P_LANE_OFF (p : Nat) : Field := ⟨Reg.ING_P_LANE p, 31, 16⟩
def ING_P_LANE_SIZE (p : Nat) : Field := ⟨Reg.ING_P_LANE p, 15, 0⟩
def HIF_HELD_RELEASE : Field := ⟨Reg.HIF_LOSS_CFG, 31, 31⟩
def HIF_RETAIN_MS : Field := ⟨Reg.HIF_LOSS_CFG, 29, 16⟩
def HIF_HOLD_EN : Field := ⟨Reg.HIF_LOSS_CFG, 0, 0⟩
def HIF_OPEN_STATUS : Field := ⟨Reg.HIF_LOSS_STATUS, 23, 16⟩
def HIF_LOSS_CAUSE : Field := ⟨Reg.HIF_LOSS_STATUS, 15, 12⟩
def HIF_RETAIN_RESULT : Field := ⟨Reg.HIF_LOSS_STATUS, 11, 8⟩
def HIF_HOST_HELD : Field := ⟨Reg.HIF_LOSS_STATUS, 2, 2⟩
def HIF_WAIT_HOST : Field := ⟨Reg.HIF_LOSS_STATUS, 1, 1⟩
def HIF_DETACHED : Field := ⟨Reg.HIF_LOSS_STATUS, 0, 0⟩
def PWR_PHASE_CLEAR : Field := ⟨Reg.PWR_CTRL, 1, 1⟩
def PWR_BROKER_EN : Field := ⟨Reg.PWR_CTRL, 0, 0⟩
def PWR_COOLANT_WARN : Field := ⟨Reg.PWR_STATUS, 4, 4⟩
def PWR_VIN_LOW : Field := ⟨Reg.PWR_STATUS, 3, 3⟩
def PWR_TOKENS_FROZEN : Field := ⟨Reg.PWR_STATUS, 2, 2⟩
def PWR_TOKEN_STEP : Field := ⟨Reg.PWR_BROKER_CFG, 31, 24⟩
def PWR_BROKER_HEATS : Field := ⟨Reg.PWR_BROKER_CFG, 15, 0⟩
def PWR_D_RELEASE (d : Nat) : Field := ⟨Reg.PWR_D_CTRL d, 31, 31⟩
def PWR_D_HALT_AUTO (d : Nat) : Field := ⟨Reg.PWR_D_CTRL d, 0, 0⟩
def PWR_D_HALTED (d : Nat) : Field := ⟨Reg.PWR_D_STEP d, 1, 1⟩
def CAST_ARM : Field := ⟨Reg.CAST_CTRL, 31, 31⟩
def CAST_PAIRED : Field := ⟨Reg.CAST_CTRL, 30, 30⟩
def CAST_SLOTS : Field := ⟨Reg.CAST_CTRL, 7, 4⟩
def CAST_SET : Field := ⟨Reg.CAST_CTRL, 3, 0⟩
def CAST_RS_LOCKED : Field := ⟨Reg.CAST_STATUS, 27, 27⟩
def CAST_UNCOMPARED : Field := ⟨Reg.CAST_STATUS, 24, 24⟩
def CAST_RS_ARM : Field := ⟨Reg.CAST_RS_CTRL, 31, 31⟩
def CAST_RS_UNLOCK : Field := ⟨Reg.CAST_RS_CTRL, 30, 30⟩
def CAST_RS_BUSY : Field := ⟨Reg.CAST_RS_CTRL, 29, 29⟩
def CAST_RS_REPL : Field := ⟨Reg.CAST_RS_CTRL, 5, 4⟩
def CAST_RS_SRC : Field := ⟨Reg.CAST_RS_CTRL, 1, 0⟩
def CAST_RS_COUNT : Field := ⟨Reg.CAST_RS_OBJ, 26, 16⟩
def CAST_RS_FIRST : Field := ⟨Reg.CAST_RS_OBJ, 10, 0⟩
def CAST_DIS_DONE : Field := ⟨Reg.CAST_DIS_STATE, 0, 0⟩
def ID_WARM : Field := ⟨Reg.ID_BOOT, 18, 18⟩
def ID_DEGRADED : Field := ⟨Reg.ID_BOOT, 17, 17⟩
def ID_READY : Field := ⟨Reg.ID_BOOT, 16, 16⟩
def ID_BOOT_FAIL : Field := ⟨Reg.ID_BOOT, 15, 8⟩
def ID_BOOT_STAGE : Field := ⟨Reg.ID_BOOT, 3, 0⟩
def ID_SETUP_LOCK : Field := ⟨Reg.ID_SETUP, 31, 31⟩
def ID_PROFILE : Field := ⟨Reg.ID_SETUP, 0, 0⟩
def ID_MAINT_ARM : Field := ⟨Reg.ID_MAINT_REQ, 31, 31⟩
def ID_MAINT_PEND : Field := ⟨Reg.ID_MAINT_REQ, 30, 30⟩
def ID_MAINT_RUN : Field := ⟨Reg.ID_MAINT_REQ, 29, 29⟩
def ID_MAINT_KIND : Field := ⟨Reg.ID_MAINT_REQ, 23, 20⟩
def ID_MAINT_DIE : Field := ⟨Reg.ID_MAINT_REQ, 17, 16⟩
def ID_MAINT_CLUSTER : Field := ⟨Reg.ID_MAINT_REQ, 11, 8⟩
def FH_SET_FMT : Field := ⟨Reg.FWC_RUN_INFO, 15, 8⟩
def FH_SVN : Field := ⟨Reg.FWC_RUN_INFO, 7, 0⟩
def FWC_CONFIRM : Field := ⟨Reg.FWC_CTRL, 31, 31⟩
def FWC_STAGE_GO : Field := ⟨Reg.FWC_CTRL, 30, 30⟩
def FWC_STAGE_ABORT : Field := ⟨Reg.FWC_CTRL, 29, 29⟩
def FWC_STAGE_RESULT : Field := ⟨Reg.FWC_STATUS, 31, 24⟩
def FWC_STAGE_PEND : Field := ⟨Reg.FWC_STATUS, 17, 17⟩
def FWC_STAGING : Field := ⟨Reg.FWC_STATUS, 16, 16⟩
def FWC_UNCONFIRMED : Field := ⟨Reg.FWC_STATUS, 2, 2⟩
def FWC_SET_DEFAULTS : Field := ⟨Reg.FWC_STATUS, 1, 1⟩
def FWC_SET_MIGRATED : Field := ⟨Reg.FWC_STATUS, 0, 0⟩
def FH_SET_FMT_OF_FWC_STAGED_INFO : Field := ⟨Reg.FWC_STAGED_INFO, 15, 8⟩
def FH_SVN_OF_FWC_STAGED_INFO : Field := ⟨Reg.FWC_STAGED_INFO, 7, 0⟩
def SEC_KEY_REVOKED : Field := ⟨Reg.SEC_STATUS, 7, 4⟩
def SEC_CHALLENGE_OPEN : Field := ⟨Reg.SEC_STATUS, 3, 3⟩
def SEC_DEBUG_PEND : Field := ⟨Reg.SEC_STATUS, 2, 2⟩
def SEC_DEBUG_OPEN : Field := ⟨Reg.SEC_STATUS, 1, 1⟩
def SEC_OWNED : Field := ⟨Reg.SEC_STATUS, 0, 0⟩

end Sys2Proof.Fld

namespace Sys2Proof.Machine

/-- The register table rows of the ID block. -/
def regsId : List RegDef := [
  ⟨"ID_PCI", 0x0, [], 0x0, 0xFFFFFFFF, 0x0, 0x0, 0x0, 0x0, 0x0⟩,
  ⟨"ID_STEPPING", 0x4, [], 0x0, 0xFFFFFF, 0x0, 0x0, 0x0, 0x0, 0x0⟩,
  ⟨"ID_SERIAL_LO", 0x8, [], 0x0, 0xFFFFFFFF, 0x0, 0x0, 0x0, 0x0, 0x0⟩,
  ⟨"ID_SERIAL_HI", 0xC, [], 0x0, 0xFFFFFFFF, 0x0, 0x0, 0x0, 0x0, 0x0⟩,
  ⟨"ID_BOOT", 0x10, [], 0x1, 0x7FF0F, 0x0, 0x0, 0x0, 0x0, 0x0⟩,
  ⟨"ID_BOOT_TIME", 0x14, [], 0x0, 0xFFFFFFFF, 0x0, 0x0, 0x0, 0x0, 0x0⟩,
  ⟨"ID_RESET_CAUSE", 0x18, [], 0x0, 0x7, 0x0, 0x0, 0x0, 0x0, 0x0⟩,
  ⟨"ID_RESET", 0x1C, [], 0x0, 0x0, 0x0, 0x0, 0xFFFF0001, 0x0, 0x0⟩,
  ⟨"ID_SETUP", 0x20, [], 0x0, 0x0, 0x80000000, 0x0, 0x0, 0x0, 0x1⟩,
  ⟨"ID_LOCK_ERR", 0x24, [], 0x0, 0xFFFFFFFF, 0x0, 0x0, 0x0, 0x0, 0x0⟩,
  ⟨"ID_MAINT_N", 0x30, [], 0x1000, 0x0, 0x0, 0x0, 0x0, 0xFFFF, 0x0⟩,
  ⟨"ID_MAINT_REQ", 0x34, [], 0x0, 0x60000000, 0x80F30F00, 0x0, 0x0, 0x0, 0x0⟩,
  ⟨"ID_MAINT_RESULT", 0x38, [], 0x0, 0xFFF0FFFF, 0x0, 0x0, 0x0, 0x0, 0x0⟩,
  ⟨"ID_MAINT_COUNT", 0x3C, [], 0x0, 0xFFFFFFFF, 0x0, 0x0, 0x0, 0x0, 0x0⟩,
  ⟨"ID_STAGE_MS", 0x60, [(8, 0x4)], 0x0, 0xFFFFFFFF, 0x0, 0x0, 0x0, 0x0, 0x0⟩,
  ⟨"ID_DIE_BOOT", 0x80, [(4, 0x4)], 0x0, 0xFFFF01BF, 0x0, 0x0, 0x0, 0x0, 0x0⟩,
  ⟨"ID_VIN_BOOT", 0x90, [], 0x0, 0xFFFF, 0x0, 0x0, 0x0, 0x0, 0x0⟩ ]

/-- The register table rows of the HEAT block. -/
def regsHeat : List RegDef := [
  ⟨"HEAT_CTRL", 0x10000, [], 0x2, 0x0, 0x1, 0x0, 0x0, 0x0, 0x6⟩,
  ⟨"HEAT_STATUS", 0x10004, [], 0x0, 0x3F, 0x0, 0x0, 0x0, 0x0, 0x0⟩,
  ⟨"HEAT_CFG", 0x10008, [], 0xFA28, 0x7FFFFF, 0x0, 0x0, 0x0, 0x0, 0x0⟩,
  ⟨"HEAT_CFG_NEXT", 0x1000C, [], 0xFA28, 0x0, 0x7FFFFF, 0x0, 0x0, 0x0, 0x0⟩,
  ⟨"HEAT_CHANGE_AT_LO", 0x10010, [], 0x0, 0x0, 0xFFFFFFFF, 0x0, 0x0, 0x0, 0x0⟩,
  ⟨"HEAT_CHANGE_AT_HI", 0x10014, [], 0x0, 0x0, 0x8000FFFF, 0x0, 0x0, 0x0, 0x0⟩,
  ⟨"HEAT_COUNT_LO", 0x10018, [], 0x0, 0xFFFFFFFF, 0x0, 0x0, 0x0, 0x0, 0x0⟩,
  ⟨"HEAT_COUNT_HI", 0x1001C, [], 0x0, 0xFFFF, 0x0, 0x0, 0x0, 0x0, 0x0⟩,
  ⟨"HEAT_TIME_LO", 0x10020, [], 0x0, 0xFFFFFFFF, 0x0, 0x0, 0x0, 0x0, 0x0⟩,
  ⟨"HEAT_TIME_HI", 0x10024, [], 0x0, 0xFFFFFFFF, 0x0, 0x0, 0x0, 0x0, 0x0⟩,
  ⟨"HEAT_TIME_SET_LO", 0x10028, [], 0x0, 0x0, 0x0, 0x0, 0xFFFFFFFF, 0x0, 0x0⟩,
  ⟨"HEAT_TIME_SET_HI", 0x1002C, [], 0x0, 0x0, 0x0, 0x0, 0xFFFFFFFF, 0x0, 0x0⟩,
  ⟨"HEAT_NEXT_TICK_LO", 0x10030, [], 0x0, 0xFFFFFFFF, 0x0, 0x0, 0x0, 0x0, 0x0⟩,
  ⟨"HEAT_NEXT_TICK_HI", 0x10034, [], 0x0, 0xFFFFFFFF, 0x0, 0x0, 0x0, 0x0, 0x0⟩,
  ⟨"HEAT_OFFSET", 0x10038, [], 0x0, 0xFFFFFFFF, 0x0, 0x0, 0x0, 0x0, 0x0⟩,
  ⟨"HEAT_WDOG", 0x1003C, [], 0x4, 0x0, 0x0, 0x0, 0x0, 0xFF, 0x0⟩,
  ⟨"HEAT_MISS_COUNT", 0x10040, [], 0x0, 0xFFFFFFFF, 0x0, 0x0, 0x0, 0x0, 0x0⟩,
  ⟨"HEAT_DB_LATE", 0x10044, [], 0x0, 0xFFFFFFFF, 0x0, 0x0, 0x0, 0x0, 0x0⟩,
  ⟨"HEAT_CLUSTER_MISS", 0x10100, [(4, 0x30), (12, 0x4)], 0x0, 0xFFFFFFFF, 0x0, 0x0, 0x0, 0x0, 0x0⟩ ]

/-- The register table rows of the HIF block, part 1. -/
def regsHif0 : List RegDef := [
  ⟨"HIF_B2_MAP_LO", 0x20800, [(64, 0x8)], 0x0, 0x0, 0xC0000001, 0x0, 0x0, 0x0, 0x0⟩,
  ⟨"HIF_B2_MAP_HI", 0x20804, [(64, 0x8)], 0x0, 0x0, 0xFFFFFFFF, 0x0, 0x0, 0x0, 0x0⟩,
  ⟨"HIF_B2_MISS", 0x20A00, [], 0x0, 0xFFFFFFFF, 0x0, 0x0, 0x0, 0x0, 0x0⟩,
  ⟨"HIF_B2_FAIL", 0x20A04, [], 0x0, 0xFFFFFFFF, 0x0, 0x0, 0x0, 0x0, 0x0⟩,
  ⟨"HIF_CTRL", 0x20000, [], 0x1000000, 0x0, 0xFFFF0001, 0x0, 0x0, 0x0, 0x2⟩,
  ⟨"HIF_STATUS", 0x20004, [], 0x0, 0xF1F0111, 0x0, 0x0, 0x0, 0x0, 0x0⟩,
  ⟨"HIF_DB_BASE_LO", 0x20008, [], 0x0, 0x0, 0xFFFFF000, 0x0, 0x0, 0x0, 0x0⟩,
  ⟨"HIF_DB_BASE_HI", 0x2000C, [], 0x0, 0x0, 0xFFFFFFFF, 0x0, 0x0, 0x0, 0x0⟩,
  ⟨"HIF_SESSION", 0x20010, [], 0x0, 0xFFFFFFFF, 0x0, 0x0, 0x0, 0x0, 0x0⟩,
  ⟨"HIF_DB_STALE", 0x20014, [], 0x0, 0xFFFFFFFF, 0x0, 0x0, 0x0, 0x0, 0x0⟩,
  ⟨"HIF_DB_READS", 0x20018, [], 0x0, 0xFFFFFFFF, 0x0, 0x0, 0x0, 0x0, 0x0⟩,
  ⟨"HIF_EV_UNROUTED", 0x2001C, [], 0x0, 0xFFFFFFFF, 0x0, 0x0, 0x0, 0x0, 0x0⟩,
  ⟨"HIF_T2_TAB_LO", 0x20020, [], 0x0, 0x0, 0xFFFFF000, 0x0, 0x0, 0x0, 0x0⟩,
  ⟨"HIF_T2_TAB_HI", 0x20024, [], 0x0, 0x0, 0xFFFFFFFF, 0x0, 0x0, 0x0, 0x0⟩,
  ⟨"HIF_T2_CMD", 0x20028, [], 0x0, 0x60000000, 0x0, 0x0, 0x80000000, 0x0, 0x0⟩,
  ⟨"HIF_PEER_FLUSH", 0x20030, [], 0x0, 0xFFFFFFFF, 0x0, 0x0, 0x0, 0x0, 0x0⟩,
  ⟨"HIF_SQ_BASE_LO", 0x21000, [(64, 0x20)], 0x0, 0x0, 0xFFFFF000, 0x0, 0x0, 0x0, 0x0⟩,
  ⟨"HIF_SQ_BASE_HI", 0x21004, [(64, 0x20)], 0x0, 0x0, 0xFFFFFFFF, 0x0, 0x0, 0x0, 0x0⟩,
  ⟨"HIF_SQ_CFG", 0x21008, [(64, 0x20)], 0x60000, 0x40000000, 0x801F003F, 0x0, 0x0, 0x0, 0x0⟩,
  ⟨"HIF_SQ_ACCEPTED", 0x2100C, [(64, 0x20)], 0x0, 0xFFFFFFFF, 0x0, 0x0, 0x0, 0x0, 0x0⟩,
  ⟨"HIF_SQ_DONE", 0x21010, [(64, 0x20)], 0x0, 0xFFFFFFFF, 0x0, 0x0, 0x0, 0x0, 0x0⟩,
  ⟨"HIF_SQ_HELD", 0x21014, [(64, 0x20)], 0x0, 0xFFFFFFFF, 0x0, 0x0, 0x0, 0x0, 0x0⟩,
  ⟨"HIF_CQ_BASE_LO", 0x21800, [(64, 0x20)], 0x0, 0x0, 0xFFFFF000, 0x0, 0x0, 0x0, 0x0⟩,
  ⟨"HIF_CQ_BASE_HI", 0x21804, [(64, 0x20)], 0x0, 0x0, 0xFFFFFFFF, 0x0, 0x0, 0x0, 0x0⟩,
  ⟨"HIF_CQ_CFG", 0x21808, [(64, 0x20)], 0x50000, 0x0, 0x801F803F, 0x0, 0x0, 0x0, 0x0⟩,
  ⟨"HIF_CQ_POSTED", 0x2180C, [(64, 0x20)], 0x0, 0xFFFFFFFF, 0x0, 0x0, 0x0, 0x0, 0x0⟩,
  ⟨"HIF_CQ_SEEN", 0x21810, [(64, 0x20)], 0x0, 0xFFFFFFFF, 0x0, 0x0, 0x0, 0x0, 0x0⟩,
  ⟨"HIF_ER_BASE_LO", 0x22000, [(8, 0x20)], 0x0, 0x0, 0xFFFFF000, 0x0, 0x0, 0x0, 0x0⟩,
  ⟨"HIF_ER_BASE_HI", 0x22004, [(8, 0x20)], 0x0, 0x0, 0xFFFFFFFF, 0x0, 0x0, 0x0, 0x0⟩,
  ⟨"HIF_ER_CFG", 0x22008, [(8, 0x20)], 0x50000, 0x0, 0x801F803F, 0x0, 0x0, 0x0, 0x0⟩ ]

/-- The register table rows of the HIF block, part 2. -/
def regsHif1 : List RegDef := [
  ⟨"HIF_ER_MASK", 0x2200C, [(8, 0x20)], 0x0, 0x0, 0x1FFF, 0x0, 0x0, 0x0, 0x0⟩,
  ⟨"HIF_ER_POSTED", 0x22010, [(8, 0x20)], 0x0, 0xFFFFFFFF, 0x0, 0x0, 0x0, 0x0, 0x0⟩,
  ⟨"HIF_ER_SEEN", 0x22014, [(8, 0x20)], 0x0, 0xFFFFFFFF, 0x0, 0x0, 0x0, 0x0, 0x0⟩,
  ⟨"HIF_PW_BASE_LO", 0x22400, [(8, 0x20)], 0x0, 0x0, 0xFFFFF000, 0x0, 0x0, 0x0, 0x0⟩,
  ⟨"HIF_PW_BASE_HI", 0x22404, [(8, 0x20)], 0x0, 0x0, 0xFFFFFFFF, 0x0, 0x0, 0x0, 0x0⟩,
  ⟨"HIF_PW_SIZE", 0x22408, [(8, 0x20)], 0x0, 0x0, 0xFFFFFFFF, 0x0, 0x0, 0x0, 0x0⟩,
  ⟨"HIF_PW_CTRL", 0x2240C, [(8, 0x20)], 0x0, 0x2000000F, 0x80000000, 0x0, 0x40000000, 0x0, 0x0⟩,
  ⟨"HIF_PW_EXPECT_LO", 0x22410, [(8, 0x20)], 0x0, 0x0, 0xFFFFFFFF, 0x0, 0x0, 0x0, 0x0⟩,
  ⟨"HIF_PW_EXPECT_HI", 0x22414, [(8, 0x20)], 0x0, 0x0, 0xFFFFFFFF, 0x0, 0x0, 0x0, 0x0⟩,
  ⟨"HIF_PW_RTT", 0x22418, [(8, 0x20)], 0x0, 0xFFFF, 0x0, 0x0, 0x0, 0x0, 0x0⟩,
  ⟨"MSIX_TABLE", 0x24000, [(64, 0x10), (3, 0x4)], 0x0, 0x0, 0xFFFFFFFF, 0x0, 0x0, 0x0, 0x0⟩,
  ⟨"MSIX_TABLE_CTL", 0x2400C, [(64, 0x10)], 0x1, 0x0, 0xFFFFFFFF, 0x0, 0x0, 0x0, 0x0⟩,
  ⟨"MSIX_PENDING", 0x25000, [(2, 0x4)], 0x0, 0xFFFFFFFF, 0x0, 0x0, 0x0, 0x0, 0x0⟩,
  ⟨"HIF_LOSS_CFG", 0x20040, [], 0x7D00001, 0x0, 0x0, 0x0, 0x80000000, 0x3FFF0001, 0x0⟩,
  ⟨"HIF_LOSS_STATUS", 0x20044, [], 0x0, 0xFFFF07, 0x0, 0x0, 0x0, 0x0, 0x0⟩,
  ⟨"HIF_LOSS_TIME_LO", 0x20048, [], 0x0, 0xFFFFFFFF, 0x0, 0x0, 0x0, 0x0, 0x0⟩,
  ⟨"HIF_LOSS_TIME_HI", 0x2004C, [], 0x0, 0xFFFFFFFF, 0x0, 0x0, 0x0, 0x0, 0x0⟩,
  ⟨"HIF_RETAIN_KIB", 0x20050, [], 0x0, 0x1FFFF, 0x0, 0x0, 0x0, 0x0, 0x0⟩,
  ⟨"HIF_LOSS_VOID", 0x20054, [], 0x0, 0xFFFFFFFF, 0x0, 0x0, 0x0, 0x0, 0x0⟩,
  ⟨"HIF_OPEN", 0x20058, [], 0x0, 0x0, 0x0, 0x0, 0xFFFFFFFF, 0x0, 0x0⟩,
  ⟨"HIF_EPOCH_NEXT_ADDR_LO", 0x20060, [], 0x0, 0x0, 0xFFFFFFF8, 0x0, 0x0, 0x0, 0x0⟩,
  ⟨"HIF_EPOCH_NEXT_ADDR_HI", 0x20064, [], 0x0, 0x0, 0xFFFFFFFF, 0x0, 0x0, 0x0, 0x0⟩,
  ⟨"HIF_EPOCH_NEXT_LO", 0x20068, [], 0x0, 0x0, 0xFFFFFFFF, 0x0, 0x0, 0x0, 0x0⟩,
  ⟨"HIF_EPOCH_NEXT_HI", 0x2006C, [], 0x0, 0x0, 0xFFFFFFFF, 0x0, 0x0, 0x0, 0x0⟩,
  ⟨"HIF_EPOCH_ADDR_LO", 0x20070, [], 0x0, 0xFFFFFFFF, 0x0, 0x0, 0x0, 0x0, 0x0⟩,
  ⟨"HIF_EPOCH_ADDR_HI", 0x20074, [], 0x0, 0xFFFFFFFF, 0x0, 0x0, 0x0, 0x0, 0x0⟩,
  ⟨"HIF_EPOCH_LO", 0x20078, [], 0x0, 0xFFFFFFFF, 0x0, 0x0, 0x0, 0x0, 0x0⟩,
  ⟨"HIF_EPOCH_HI", 0x2007C, [], 0x0, 0xFFFFFFFF, 0x0, 0x0, 0x0, 0x0, 0x0⟩ ]

/-- The register table rows of the HIF block. -/
def regsHif : List RegDef := regsHif0 ++ regsHif1

/-- The register table rows of the ING block. -/
def regsIng : List RegDef := [
  ⟨"ING_RES_CFG", 0x30000, [], 0xF010, 0x0, 0x0, 0x0, 0x0, 0x0, 0xFF3F⟩,
  ⟨"ING_STATUS", 0x30004, [], 0x0, 0xFFFF0003, 0x0, 0x0, 0x0, 0x0, 0x0⟩,
  ⟨"ING_RES_FREE", 0x30008, [], 0x0, 0xFFFFFFFF, 0x0, 0x0, 0x0, 0x0, 0x0⟩,
  ⟨"ING_STOP_SUM", 0x3000C, [], 0x0, 0xFFFFFFFF, 0x0, 0x0, 0x0, 0x0, 0x0⟩,
  ⟨"ING_RATE_SUM", 0x30010, [], 0x0, 0xFFFFFFFF, 0x0, 0x0, 0x0, 0x0, 0x0⟩,
  ⟨"ING_RES_TIME_US", 0x30014, [], 0xFFFFFFFF, 0xFFFFFFFF, 0x0, 0x0, 0x0, 0x0, 0x0⟩,
  ⟨"ING_OVERRUN", 0x30018, [], 0x0, 0xFFFFFFFF, 0x0, 0x0, 0x0, 0x0, 0x0⟩,
  ⟨"ING_HOLDS", 0x3001C, [], 0x0, 0xFFFFFFFF, 0x0, 0x0, 0x0, 0x0, 0x0⟩,
  ⟨"ING_P_CTRL", 0x30100, [(16, 0x40)], 0x0, 0x40000000, 0xBC000000, 0x0, 0x0, 0x0, 0x0⟩,
  ⟨"ING_P_LANE", 0x30104, [(16, 0x40)], 0x0, 0x0, 0xFFFFFFFF, 0x0, 0x0, 0x0, 0x0⟩,
  ⟨"ING_P_STOP", 0x30108, [(16, 0x40)], 0x0, 0x0, 0xFFFFFFFF, 0x0, 0x0, 0x0, 0x0⟩,
  ⟨"ING_P_RATE", 0x3010C, [(16, 0x40)], 0x0, 0x0, 0xFFFFFFFF, 0x0, 0x0, 0x0, 0x0⟩,
  ⟨"ING_P_NOTE_LO", 0x30110, [(16, 0x40)], 0x0, 0x0, 0xFFFFFFFF, 0x0, 0x0, 0x0, 0x0⟩,
  ⟨"ING_P_NOTE_HI", 0x30114, [(16, 0x40)], 0x0, 0x0, 0xFFFFFFFF, 0x0, 0x0, 0x0, 0x0⟩,
  ⟨"ING_P_CONSUME_POS_LO", 0x30118, [(16, 0x40)], 0x0, 0xFFFFFFFF, 0x0, 0x0, 0x0, 0x0, 0x0⟩,
  ⟨"ING_P_CONSUME_POS_HI", 0x3011C, [(16, 0x40)], 0x0, 0xFFFFFFFF, 0x0, 0x0, 0x0, 0x0, 0x0⟩,
  ⟨"ING_P_COMMIT_POS_LO", 0x30120, [(16, 0x40)], 0x0, 0xFFFFFFFF, 0x0, 0x0, 0x0, 0x0, 0x0⟩,
  ⟨"ING_P_COMMIT_POS_HI", 0x30124, [(16, 0x40)], 0x0, 0xFFFFFFFF, 0x0, 0x0, 0x0, 0x0, 0x0⟩,
  ⟨"ING_P_FREE", 0x30128, [(16, 0x40)], 0x0, 0xFFFFFFFF, 0x0, 0x0, 0x0, 0x0, 0x0⟩ ]

/-- The register table rows of the MEM block, part 1. -/
def regsMem0 : List RegDef := [
  ⟨"MEM_OPT_CTRL", 0x48000, [(256, 0x40)], 0x0, 0x40000000, 0x8000000F, 0x0, 0x0, 0x0, 0x0⟩,
  ⟨"MEM_OPT_ETA", 0x48004, [(256, 0x40)], 0x0, 0x0, 0xFFFFFFFF, 0x0, 0x0, 0x0, 0x0⟩,
  ⟨"MEM_OPT_BETA1", 0x48008, [(256, 0x40)], 0x0, 0x0, 0xFFFFFFFF, 0x0, 0x0, 0x0, 0x0⟩,
  ⟨"MEM_OPT_BETA2", 0x4800C, [(256, 0x40)], 0x0, 0x0, 0xFFFFFFFF, 0x0, 0x0, 0x0, 0x0⟩,
  ⟨"MEM_OPT_EPS", 0x48010, [(256, 0x40)], 0x0, 0x0, 0xFFFFFFFF, 0x0, 0x0, 0x0, 0x0⟩,
  ⟨"MEM_OPT_LAMBDA", 0x48014, [(256, 0x40)], 0x0, 0x0, 0xFFFFFFFF, 0x0, 0x0, 0x0, 0x0⟩,
  ⟨"MEM_OPT_NORM_LIMIT", 0x48018, [(256, 0x40)], 0x7F800000, 0x0, 0xFFFFFFFF, 0x0, 0x0, 0x0, 0x0⟩,
  ⟨"MEM_OPT_GNORM_LIMIT", 0x4801C, [(256, 0x40)], 0x7F800000, 0x0, 0xFFFFFFFF, 0x0, 0x0, 0x0, 0x0⟩,
  ⟨"MEM_OPT_STEP0", 0x48020, [(256, 0x40)], 0x0, 0x0, 0xFFFFFFFF, 0x0, 0x0, 0x0, 0x0⟩,
  ⟨"MEM_LG_BASE_LO", 0x4C000, [(64, 0x20)], 0x0, 0x0, 0xFFFFFFFF, 0x0, 0x0, 0x0, 0x0⟩,
  ⟨"MEM_LG_BASE_HI", 0x4C004, [(64, 0x20)], 0x0, 0x0, 0xFFFFFFFF, 0x0, 0x0, 0x0, 0x0⟩,
  ⟨"MEM_LG_CFG", 0x4C008, [(64, 0x20)], 0x0, 0x0, 0x8F1F0FFF, 0x0, 0x0, 0x0, 0x0⟩,
  ⟨"MEM_LG_USED", 0x4C00C, [(64, 0x20)], 0x0, 0xFFFFFFFF, 0x0, 0x0, 0x0, 0x0, 0x0⟩,
  ⟨"MEM_LG_REFUSED", 0x4C010, [(64, 0x20)], 0x0, 0xFFFFFFFF, 0x0, 0x0, 0x0, 0x0, 0x0⟩,
  ⟨"MEM_LG_LATE", 0x4C014, [(64, 0x20)], 0x0, 0xFFFFFFFF, 0x0, 0x0, 0x0, 0x0, 0x0⟩,
  ⟨"MEM_LG_DRAINED", 0x4C018, [(64, 0x20)], 0x0, 0xFFFFFFFF, 0x0, 0x0, 0x0, 0x0, 0x0⟩,
  ⟨"MEM_LG_DROPPED", 0x4C01C, [(64, 0x20)], 0x0, 0xFFFFFFFF, 0x0, 0x0, 0x0, 0x0, 0x0⟩,
  ⟨"MEM_OPT_AUDIT_LOG2", 0x47F00, [], 0x8, 0x0, 0x1F, 0x0, 0x0, 0x0, 0x0⟩,
  ⟨"MEM_OPT_APPLIED", 0x47F04, [], 0x0, 0xFFFFFFFF, 0x0, 0x0, 0x0, 0x0, 0x0⟩,
  ⟨"MEM_OPT_NONFINITE", 0x47F08, [], 0x0, 0xFFFFFFFF, 0x0, 0x0, 0x0, 0x0, 0x0⟩,
  ⟨"MEM_OPT_NORMLIM", 0x47F0C, [], 0x0, 0xFFFFFFFF, 0x0, 0x0, 0x0, 0x0, 0x0⟩,
  ⟨"MEM_OPT_AUDITED", 0x47F10, [], 0x0, 0xFFFFFFFF, 0x0, 0x0, 0x0, 0x0, 0x0⟩,
  ⟨"MEM_OPT_DRIFT", 0x47F14, [], 0x0, 0xFFFFFFFF, 0x0, 0x0, 0x0, 0x0, 0x0⟩,
  ⟨"MEM_OPT_VSTALE", 0x47F18, [], 0x0, 0xFFFFFFFF, 0x0, 0x0, 0x0, 0x0, 0x0⟩,
  ⟨"MEM_TD_SEL", 0x46000, [], 0x0, 0x0, 0xFFF, 0x0, 0x0, 0x0, 0x0⟩,
  ⟨"MEM_TD_CMD", 0x46004, [], 0x0, 0x70000000, 0x80000003, 0x0, 0x0, 0x0, 0x0⟩,
  ⟨"MEM_TD_AT_LO", 0x46008, [], 0x0, 0x0, 0xFFFFFFFF, 0x0, 0x0, 0x0, 0x0⟩,
  ⟨"MEM_TD_AT_HI", 0x4600C, [], 0x0, 0x0, 0xFFFF, 0x0, 0x0, 0x0, 0x0⟩,
  ⟨"MEM_TD_ERR", 0x46010, [], 0x0, 0xFF, 0x0, 0x0, 0x0, 0x0, 0x0⟩,
  ⟨"MEM_TD_STALE", 0x46014, [], 0x0, 0xFFFFFFFF, 0x0, 0x0, 0x0, 0x0, 0x0⟩ ]

/-- The register table rows of the MEM block, part 2. -/
def regsMem1 : List RegDef := [
  ⟨"MEM_TD_SWITCHES", 0x46018, [], 0x0, 0xFFFFFFFF, 0x0, 0x0, 0x0, 0x0, 0x0⟩,
  ⟨"MEM_TD_SHADOW", 0x46040, [(16, 0x4)], 0x0, 0x0, 0xFFFFFFFF, 0x0, 0x0, 0x0, 0x0⟩,
  ⟨"MEM_TD_READ", 0x46080, [(16, 0x4)], 0x0, 0xFFFFFFFF, 0x0, 0x0, 0x0, 0x0, 0x0⟩,
  ⟨"MEM_TD_MAP_SEL", 0x46100, [], 0x0, 0x0, 0xFFFF, 0x0, 0x0, 0x0, 0x0⟩,
  ⟨"MEM_TD_MAP_LO", 0x46104, [], 0x0, 0x0, 0xFFFFFFFF, 0x0, 0x0, 0x0, 0x0⟩,
  ⟨"MEM_TD_MAP_HI", 0x46108, [], 0x0, 0x0, 0xFFFFFFFF, 0x0, 0x0, 0x0, 0x0⟩,
  ⟨"MEM_CR_HOLD_BASE_LO", 0x4D000, [], 0x0, 0x0, 0x0, 0x0, 0x0, 0x0, 0xFFFF0000⟩,
  ⟨"MEM_CR_HOLD_BASE_HI", 0x4D004, [], 0x0, 0x0, 0x0, 0x0, 0x0, 0x0, 0xFFFFFFFF⟩,
  ⟨"MEM_CR_HOLD_SIZE", 0x4D008, [], 0x0, 0x0, 0x0, 0x0, 0x0, 0x0, 0xFFFF⟩,
  ⟨"MEM_CR_HOLD_USED", 0x4D00C, [], 0x0, 0xFFFF, 0x0, 0x0, 0x0, 0x0, 0x0⟩,
  ⟨"MEM_CR_FOLDS", 0x4D010, [], 0x0, 0xFFFFFFFF, 0x0, 0x0, 0x0, 0x0, 0x0⟩,
  ⟨"MEM_CR_HOLD_FULL", 0x4D014, [], 0x0, 0xFFFFFFFF, 0x0, 0x0, 0x0, 0x0, 0x0⟩,
  ⟨"MEM_CR_KEY_DUP", 0x4D018, [], 0x0, 0xFFFFFFFF, 0x0, 0x0, 0x0, 0x0, 0x0⟩,
  ⟨"MEM_CR_INT_SAT", 0x4D01C, [], 0x0, 0xFFFFFFFF, 0x0, 0x0, 0x0, 0x0, 0x0⟩,
  ⟨"MEM_CR_FAIL", 0x4D020, [], 0x0, 0xFFFFFFFF, 0x0, 0x0, 0x0, 0x0, 0x0⟩,
  ⟨"MEM_HOT_CFG", 0x4E000, [], 0x4000C10, 0x0, 0xFFFF1FFF, 0x0, 0x0, 0x0, 0x0⟩,
  ⟨"MEM_HOT_SEL", 0x4E004, [], 0x0, 0x0, 0x3FFF, 0x0, 0x0, 0x0, 0x0⟩,
  ⟨"MEM_HOT_CMD", 0x4E008, [], 0x0, 0x70000000, 0x80000003, 0x0, 0x0, 0x0, 0x0⟩,
  ⟨"MEM_HOT_AT_LO", 0x4E00C, [], 0x0, 0x0, 0xFFFFFFFF, 0x0, 0x0, 0x0, 0x0⟩,
  ⟨"MEM_HOT_AT_HI", 0x4E010, [], 0x0, 0x0, 0xFFFF, 0x0, 0x0, 0x0, 0x0⟩,
  ⟨"MEM_HOT_ERR", 0x4E014, [], 0x0, 0xFF, 0x0, 0x0, 0x0, 0x0, 0x0⟩,
  ⟨"MEM_HOT_PROPOSED", 0x4E018, [], 0x0, 0xFFFFFFFF, 0x0, 0x0, 0x0, 0x0, 0x0⟩,
  ⟨"MEM_HOT_PROP_DROP", 0x4E01C, [], 0x0, 0xFFFFFFFF, 0x0, 0x0, 0x0, 0x0, 0x0⟩,
  ⟨"MEM_HOT_REFRESHED", 0x4E020, [], 0x0, 0xFFFFFFFF, 0x0, 0x0, 0x0, 0x0, 0x0⟩,
  ⟨"MEM_HOT_REFRESH_FAIL", 0x4E024, [], 0x0, 0xFFFFFFFF, 0x0, 0x0, 0x0, 0x0, 0x0⟩,
  ⟨"MEM_HOT_LATE_READ", 0x4E028, [], 0x0, 0xFFFFFFFF, 0x0, 0x0, 0x0, 0x0, 0x0⟩,
  ⟨"MEM_HOT_HOME_READ", 0x4E02C, [], 0x0, 0xFFFFFFFF, 0x0, 0x0, 0x0, 0x0, 0x0⟩,
  ⟨"MEM_HOT_SHADOW", 0x4E100, [(32, 0x4)], 0x0, 0x0, 0xFFFFFFFF, 0x0, 0x0, 0x0, 0x0⟩,
  ⟨"MEM_HOT_READ", 0x4E180, [(32, 0x4)], 0x0, 0xFFFFFFFF, 0x0, 0x0, 0x0, 0x0, 0x0⟩,
  ⟨"MEM_MV_SEL", 0x4F000, [], 0x0, 0x0, 0x3FFF, 0x0, 0x0, 0x0, 0x0⟩ ]

/-- The register table rows of the MEM block, part 3. -/
def regsMem2 : List RegDef := [
  ⟨"MEM_MV_CMD", 0x4F004, [], 0x0, 0x70000000, 0x80000000, 0x0, 0x0, 0x0, 0x0⟩,
  ⟨"MEM_MV_AT_LO", 0x4F008, [], 0x0, 0x0, 0xFFFFFFFF, 0x0, 0x0, 0x0, 0x0⟩,
  ⟨"MEM_MV_AT_HI", 0x4F00C, [], 0x0, 0x0, 0xFFFF, 0x0, 0x0, 0x0, 0x0⟩,
  ⟨"MEM_MV_ERR", 0x4F010, [], 0x0, 0xFF, 0x0, 0x0, 0x0, 0x0, 0x0⟩,
  ⟨"MEM_MV_FWD", 0x4F014, [], 0x0, 0xFFFFFFFF, 0x0, 0x0, 0x0, 0x0, 0x0⟩,
  ⟨"MEM_MV_DONE", 0x4F018, [], 0x0, 0xFFFFFFFF, 0x0, 0x0, 0x0, 0x0, 0x0⟩,
  ⟨"MEM_MV_ABANDONED", 0x4F01C, [], 0x0, 0xFFFFFFFF, 0x0, 0x0, 0x0, 0x0, 0x0⟩,
  ⟨"MEM_MV_SHADOW", 0x4F040, [(4, 0x4)], 0x0, 0x0, 0xFFFFFFFF, 0x0, 0x0, 0x0, 0x0⟩,
  ⟨"MEM_MV_READ", 0x4F050, [(4, 0x4)], 0x0, 0xFFFFFFFF, 0x0, 0x0, 0x0, 0x0, 0x0⟩,
  ⟨"MEM_CTRL", 0x40000, [], 0x401901, 0x0, 0xFF0001, 0x0, 0x0, 0x0, 0xFF00⟩,
  ⟨"MEM_STATUS", 0x40004, [], 0x0, 0x10000, 0x0, 0x0, 0x0, 0x0, 0x0⟩,
  ⟨"MEM_TMO_T01", 0x40008, [], 0x32, 0x0, 0xFFFF, 0x0, 0x0, 0x0, 0x0⟩,
  ⟨"MEM_TMO_T2", 0x4000C, [], 0x7D0, 0x0, 0xFFFF, 0x0, 0x0, 0x0, 0x0⟩,
  ⟨"MEM_TMO_T3", 0x40010, [], 0xC8, 0x0, 0xFFFF, 0x0, 0x0, 0x0, 0x0⟩,
  ⟨"MEM_T2_SIZE", 0x40014, [], 0x0, 0x0, 0x0, 0x0, 0x0, 0x0, 0x7FFF⟩,
  ⟨"MEM_T1_SIZE", 0x40018, [], 0x0, 0x3FF, 0x0, 0x0, 0x0, 0x0, 0x0⟩,
  ⟨"MEM_T0_SIZE", 0x40020, [(4, 0x4)], 0x0, 0x3F, 0x0, 0x0, 0x0, 0x0, 0x0⟩,
  ⟨"MEM_TRK_DEPTH", 0x40100, [(4, 0x20)], 0x0, 0x1FFFF, 0x0, 0x0, 0x0, 0x0, 0x0⟩,
  ⟨"MEM_TRK_USED", 0x40104, [(4, 0x20)], 0x0, 0x1FFFF, 0x0, 0x0, 0x0, 0x0, 0x0⟩,
  ⟨"MEM_TRK_PEAK", 0x40108, [(4, 0x20)], 0x0, 0x1FFFF, 0x0, 0x0, 0x0, 0x0, 0x0⟩,
  ⟨"MEM_TRK_WAIT", 0x4010C, [(4, 0x20)], 0x0, 0xFFFFFFFF, 0x0, 0x0, 0x0, 0x0, 0x0⟩,
  ⟨"MEM_REQ_TMO", 0x40110, [(4, 0x20)], 0x0, 0xFFFFFFFF, 0x0, 0x0, 0x0, 0x0, 0x0⟩,
  ⟨"MEM_REQ_ERR", 0x40114, [(4, 0x20)], 0x0, 0xFFFFFFFF, 0x0, 0x0, 0x0, 0x0, 0x0⟩,
  ⟨"MEM_ECC_CE", 0x40200, [(5, 0x10)], 0x0, 0xFFFFFFFF, 0x0, 0x0, 0x0, 0x0, 0x0⟩,
  ⟨"MEM_ECC_UE", 0x40204, [(5, 0x10)], 0x0, 0xFFFFFFFF, 0x0, 0x0, 0x0, 0x0, 0x0⟩,
  ⟨"MEM_RELEASED_HIT", 0x40208, [(5, 0x10)], 0x0, 0xFFFFFFFF, 0x0, 0x0, 0x0, 0x0, 0x0⟩,
  ⟨"MEM_STACK", 0x40300, [(4, 0x10), (4, 0x4)], 0x0, 0x703FF, 0x0, 0x0, 0x0, 0x0, 0x0⟩ ]

/-- The register table rows of the MEM block. -/
def regsMem : List RegDef := regsMem0 ++ regsMem1 ++ regsMem2

/-- The register table rows of the FAB block. -/
def regsFab : List RegDef := [
  ⟨"FAB_CTRL", 0x50000, [], 0x0, 0x0, 0x0, 0x0, 0x0, 0x0, 0x10F01⟩,
  ⟨"FAB_STATUS", 0x50004, [], 0x0, 0xC0001FFF, 0x0, 0x0, 0x0, 0x0, 0x0⟩,
  ⟨"FAB_SELF", 0x50008, [], 0x0, 0x1FFF, 0x0, 0x0, 0x0, 0x0, 0x0⟩,
  ⟨"FAB_EPOCH", 0x5000C, [], 0x0, 0xFFFFFFFF, 0x0, 0x0, 0x0, 0x0, 0x0⟩,
  ⟨"FAB_RESEQ_TMO", 0x50010, [], 0x5, 0x0, 0xFFFF, 0x0, 0x0, 0x0, 0x0⟩,
  ⟨"FAB_RETRAIN_S", 0x50014, [], 0x1, 0x0, 0xFF, 0x0, 0x0, 0x0, 0x0⟩,
  ⟨"FAB_RETRY_US", 0x50018, [], 0x2, 0x0, 0xFF, 0x0, 0x0, 0x0, 0x0⟩,
  ⟨"FAB_DUP", 0x50020, [], 0x0, 0xFFFFFFFF, 0x0, 0x0, 0x0, 0x0, 0x0⟩,
  ⟨"FAB_RESEQ_GAP", 0x50024, [], 0x0, 0xFFFFFFFF, 0x0, 0x0, 0x0, 0x0, 0x0⟩,
  ⟨"FAB_HOP_DROP", 0x50028, [], 0x0, 0xFFFFFFFF, 0x0, 0x0, 0x0, 0x0, 0x0⟩,
  ⟨"FAB_DETOURS", 0x5002C, [], 0x0, 0xFFFFFFFF, 0x0, 0x0, 0x0, 0x0, 0x0⟩,
  ⟨"FAB_BAD_PKT", 0x50030, [], 0x0, 0xFFFFFFFF, 0x0, 0x0, 0x0, 0x0, 0x0⟩,
  ⟨"FAB_LDIM_LO", 0x50040, [], 0x76543210, 0x0, 0xFFFFFFFF, 0x0, 0x0, 0x0, 0x0⟩,
  ⟨"FAB_LDIM_HI", 0x50044, [], 0xCBA98, 0x0, 0x800FFFFF, 0x0, 0x0, 0x0, 0x0⟩,
  ⟨"FAB_LDIM_AT_LO", 0x50048, [], 0x0, 0x0, 0xFFFFFFFF, 0x0, 0x0, 0x0, 0x0⟩,
  ⟨"FAB_LDIM_AT_HI", 0x5004C, [], 0x0, 0x0, 0xFFFF, 0x0, 0x0, 0x0, 0x0⟩,
  ⟨"FAB_LDIM_NOW_LO", 0x50050, [], 0x76543210, 0xFFFFFFFF, 0x0, 0x0, 0x0, 0x0, 0x0⟩,
  ⟨"FAB_LDIM_NOW_HI", 0x50054, [], 0xCBA98, 0xFFFFFFFF, 0x0, 0x0, 0x0, 0x0, 0x0⟩,
  ⟨"FAB_ROUTE", 0x58000, [(8192, 0x4)], 0x0, 0x80FF0F0F, 0x0, 0x0, 0x0, 0x0, 0x0⟩,
  ⟨"FAB_P_CTRL", 0x50100, [(13, 0x40)], 0x0, 0x0, 0x3, 0x0, 0x0, 0x0, 0x0⟩,
  ⟨"FAB_P_STATUS", 0x50104, [(13, 0x40)], 0x0, 0xFFF0F7, 0x0, 0x0, 0x0, 0x0, 0x0⟩,
  ⟨"FAB_P_PARTNER", 0x50108, [(13, 0x40)], 0x0, 0xF1FFF, 0x0, 0x0, 0x0, 0x0, 0x0⟩,
  ⟨"FAB_P_CAPS", 0x5010C, [(13, 0x40)], 0x0, 0xFFFFFFEF, 0x0, 0x0, 0x0, 0x0, 0x0⟩,
  ⟨"FAB_P_DELAY", 0x50110, [(13, 0x40)], 0x0, 0xFFFF, 0x0, 0x0, 0x0, 0x0, 0x0⟩,
  ⟨"FAB_P_LENGTH", 0x50114, [(13, 0x40)], 0x0, 0xFFFF, 0x0, 0x0, 0x0, 0x0, 0x0⟩,
  ⟨"FAB_P_REPLAYS", 0x50118, [(13, 0x40)], 0x0, 0xFFFFFFFF, 0x0, 0x0, 0x0, 0x0, 0x0⟩,
  ⟨"FAB_P_FLIT_ERR", 0x5011C, [(13, 0x40)], 0x0, 0xFFFFFFFF, 0x0, 0x0, 0x0, 0x0, 0x0⟩,
  ⟨"FAB_P_DOWNS", 0x50120, [(13, 0x40)], 0x0, 0xFFFFFFFF, 0x0, 0x0, 0x0, 0x0, 0x0⟩ ]

/-- The register table rows of the COL block. -/
def regsCol : List RegDef := [
  ⟨"COL_CTRL", 0x60000, [], 0xC80000, 0x0, 0xFFFF0000, 0x0, 0x0, 0x0, 0xFFF⟩,
  ⟨"COL_STATUS", 0x60004, [], 0x0, 0x1F07FF, 0x0, 0x0, 0x0, 0x0, 0x0⟩,
  ⟨"COL_BK_SEL", 0x60008, [], 0x0, 0x0, 0x3FF, 0x0, 0x0, 0x0, 0x0⟩,
  ⟨"COL_BK_CMD", 0x6000C, [], 0x0, 0x70000000, 0x80000003, 0x0, 0x0, 0x0, 0x0⟩,
  ⟨"COL_BK_ERR", 0x60010, [], 0x0, 0xFF, 0x0, 0x0, 0x0, 0x0, 0x0⟩,
  ⟨"COL_DONE", 0x60014, [], 0x0, 0xFFFFFFFF, 0x0, 0x0, 0x0, 0x0, 0x0⟩,
  ⟨"COL_FAILED", 0x60018, [], 0x0, 0xFFFFFFFF, 0x0, 0x0, 0x0, 0x0, 0x0⟩,
  ⟨"COL_STRAY", 0x6001C, [], 0x0, 0xFFFFFFFF, 0x0, 0x0, 0x0, 0x0, 0x0⟩,
  ⟨"COL_LATE_ADD", 0x60020, [], 0x0, 0xFFFFFFFF, 0x0, 0x0, 0x0, 0x0, 0x0⟩,
  ⟨"COL_STORE_USED", 0x60024, [], 0x0, 0xFFFF, 0x0, 0x0, 0x0, 0x0, 0x0⟩,
  ⟨"COL_SC_STEP", 0x60028, [], 0x0, 0xFFFFFFFF, 0x0, 0x0, 0x0, 0x0, 0x0⟩,
  ⟨"COL_SC_GNORM2", 0x6002C, [], 0x0, 0xFFFFFFFF, 0x0, 0x0, 0x0, 0x0, 0x0⟩,
  ⟨"COL_BK_SHADOW", 0x60040, [(16, 0x4)], 0x0, 0x0, 0xFFFFFFFF, 0x0, 0x0, 0x0, 0x0⟩,
  ⟨"COL_BK_READ", 0x60080, [(16, 0x4)], 0x0, 0xFFFFFFFF, 0x0, 0x0, 0x0, 0x0, 0x0⟩,
  ⟨"COL_TN", 0x60100, [(64, 0x4)], 0x0, 0x0, 0x80000FFF, 0x0, 0x0, 0x0, 0x0⟩,
  ⟨"COL_GNS_CFG", 0x60200, [], 0x4, 0x0, 0xFFFF001F, 0x0, 0x0, 0x0, 0x0⟩,
  ⟨"COL_GNS_BSMALL", 0x60204, [], 0x0, 0x0, 0xFFFFFFFF, 0x0, 0x0, 0x0, 0x0⟩,
  ⟨"COL_BK_LAST_STEP", 0x61000, [(1024, 0x10)], 0x0, 0xFFFFFFFF, 0x0, 0x0, 0x0, 0x0, 0x0⟩,
  ⟨"COL_BK_LAST_STATUS", 0x61004, [(1024, 0x10)], 0x0, 0xFF, 0x0, 0x0, 0x0, 0x0, 0x0⟩,
  ⟨"COL_BK_NORM2", 0x61008, [(1024, 0x10)], 0x0, 0xFFFFFFFF, 0x0, 0x0, 0x0, 0x0, 0x0⟩,
  ⟨"COL_BK_LOCAL2", 0x6100C, [(1024, 0x10)], 0x0, 0xFFFFFFFF, 0x0, 0x0, 0x0, 0x0, 0x0⟩,
  ⟨"COL_GNS_G2", 0x65000, [(64, 0x10)], 0x0, 0xFFFFFFFF, 0x0, 0x0, 0x0, 0x0, 0x0⟩,
  ⟨"COL_GNS_TR", 0x65004, [(64, 0x10)], 0x0, 0xFFFFFFFF, 0x0, 0x0, 0x0, 0x0, 0x0⟩,
  ⟨"COL_GNS_BNOISE", 0x65008, [(64, 0x10)], 0x0, 0xFFFFFFFF, 0x0, 0x0, 0x0, 0x0, 0x0⟩,
  ⟨"COL_GNS_STEP", 0x6500C, [(64, 0x10)], 0x0, 0xFFFFFFFF, 0x0, 0x0, 0x0, 0x0, 0x0⟩ ]

/-- The register table rows of the PWR block. -/
def regsPwr : List RegDef := [
  ⟨"PWR_CTRL", 0x70000, [], 0x0, 0x0, 0x0, 0x0, 0x2, 0x0, 0x1⟩,
  ⟨"PWR_STATUS", 0x70004, [], 0x0, 0x1F, 0x0, 0x0, 0x0, 0x0, 0x0⟩,
  ⟨"PWR_CAP_BASE", 0x70008, [], 0xC80, 0x0, 0x0, 0x0, 0x0, 0x1FFF, 0x0⟩,
  ⟨"PWR_CAP_NOW", 0x7000C, [], 0xC80, 0x1FFF, 0x0, 0x0, 0x0, 0x0, 0x0⟩,
  ⟨"PWR_VIN", 0x70010, [], 0x0, 0xFFFF, 0x0, 0x0, 0x0, 0x0, 0x0⟩,
  ⟨"PWR_PIN", 0x70014, [], 0x0, 0x1FFF, 0x0, 0x0, 0x0, 0x0, 0x0⟩,
  ⟨"PWR_TOKENS", 0x70018, [], 0x0, 0xFFFF, 0x0, 0x0, 0x0, 0x0, 0x0⟩,
  ⟨"PWR_BROKER_CFG", 0x7001C, [], 0xA000040, 0x0, 0xFF00FFFF, 0x0, 0x0, 0x0, 0x0⟩,
  ⟨"PWR_TOKEN_RESET_AT_LO", 0x70020, [], 0x0, 0x0, 0xFFFFFFFF, 0x0, 0x0, 0x0, 0x0⟩,
  ⟨"PWR_TOKEN_RESET_AT_HI", 0x70024, [], 0x0, 0x0, 0x8000FFFF, 0x0, 0x0, 0x0, 0x0⟩,
  ⟨"PWR_OVERCAP", 0x70028, [], 0x0, 0xFFFFFFFF, 0x0, 0x0, 0x0, 0x0, 0x0⟩,
  ⟨"PWR_COOL", 0x7002C, [], 0x0, 0xFFFF, 0x0, 0x0, 0x0, 0x0, 0x0⟩,
  ⟨"PWR_HUB_TJ", 0x70030, [], 0x0, 0xFF, 0x0, 0x0, 0x0, 0x0, 0x0⟩,
  ⟨"PWR_SCORE", 0x70034, [], 0x0, 0xFFFFFFFF, 0x0, 0x0, 0x0, 0x0, 0x0⟩,
  ⟨"PWR_PHASE_INIT", 0x70038, [], 0x30, 0x0, 0xFF, 0x0, 0x0, 0x0, 0x0⟩,
  ⟨"PWR_ARRIVAL_LO", 0x70200, [(64, 0x8)], 0x0, 0xFFF01FFF, 0x0, 0x0, 0x0, 0x0, 0x0⟩,
  ⟨"PWR_ARRIVAL_HI", 0x70204, [(64, 0x8)], 0x0, 0xFFFFFFFF, 0x0, 0x0, 0x0, 0x0, 0x0⟩,
  ⟨"PWR_PHASE", 0x71000, [(4, 0x400), (256, 0x4)], 0x1E0, 0xFFF, 0x0, 0x0, 0x0, 0x0, 0x0⟩,
  ⟨"PWR_D_CTRL", 0x70100, [(4, 0x20)], 0x1, 0x0, 0x0, 0x0, 0x80000000, 0x1, 0x0⟩,
  ⟨"PWR_D_STEP", 0x70104, [(4, 0x20)], 0x0, 0x77773, 0x0, 0x0, 0x0, 0x0, 0x0⟩,
  ⟨"PWR_D_TJ", 0x70108, [(4, 0x20)], 0x0, 0xFF, 0x0, 0x0, 0x0, 0x0, 0x0⟩,
  ⟨"PWR_D_POWER", 0x7010C, [(4, 0x20)], 0x0, 0x1FFF, 0x0, 0x0, 0x0, 0x0, 0x0⟩,
  ⟨"PWR_D_CHANGES", 0x70110, [(4, 0x20)], 0x0, 0xFFFFFFFF, 0x0, 0x0, 0x0, 0x0, 0x0⟩ ]

/-- The register table rows of the CAST block, part 1. -/
def regsCast0 : List RegDef := [
  ⟨"CAST_CTRL", 0x80000, [], 0x20, 0x0, 0x8000000F, 0x0, 0x0, 0x0, 0x400000F0⟩,
  ⟨"CAST_STATUS", 0x80004, [], 0x0, 0xFF0000FF, 0x0, 0x0, 0x0, 0x0, 0x0⟩,
  ⟨"CAST_NUMBER", 0x80008, [], 0x0, 0x0, 0xFFFFFFFF, 0x0, 0x0, 0x0, 0x0⟩,
  ⟨"CAST_AT_LO", 0x8000C, [], 0x0, 0x0, 0xFFFFFFFF, 0x0, 0x0, 0x0, 0x0⟩,
  ⟨"CAST_AT_HI", 0x80010, [], 0x0, 0x0, 0xFFFF, 0x0, 0x0, 0x0, 0x0⟩,
  ⟨"CAST_REC_STEP", 0x80014, [], 0x0, 0x0, 0xFFFFFFFF, 0x0, 0x0, 0x0, 0x0⟩,
  ⟨"CAST_REC_MB", 0x80018, [], 0x0, 0x0, 0xFFFF, 0x0, 0x0, 0x0, 0x0⟩,
  ⟨"CAST_EST_US", 0x8001C, [], 0x5DC, 0xFFFFFFFF, 0x0, 0x0, 0x0, 0x0, 0x0⟩,
  ⟨"CAST_STOP_US", 0x80020, [], 0x0, 0xFFFFFFFF, 0x0, 0x0, 0x0, 0x0, 0x0⟩,
  ⟨"CAST_STOP_ACT", 0x80024, [], 0x0, 0xFFFFFFFF, 0x0, 0x0, 0x0, 0x0, 0x0⟩,
  ⟨"CAST_LAST", 0x80028, [], 0x0, 0xFFFFFFFF, 0x0, 0x0, 0x0, 0x0, 0x0⟩,
  ⟨"CAST_LATE_WRITE", 0x8002C, [], 0x0, 0xFFFFFFFF, 0x0, 0x0, 0x0, 0x0, 0x0⟩,
  ⟨"CAST_DIVERGED_COUNT", 0x80030, [], 0x0, 0xFFFFFFFF, 0x0, 0x0, 0x0, 0x0, 0x0⟩,
  ⟨"CAST_RES0", 0x80040, [(4, 0x4)], 0x0, 0x0, 0x0, 0x0, 0x0, 0x0, 0x3F003F⟩,
  ⟨"CAST_RES1", 0x80050, [], 0x0, 0x0, 0x0, 0x0, 0x0, 0x0, 0x3FF03FF⟩,
  ⟨"CAST_BUDDY", 0x80054, [], 0x0, 0x0, 0x0, 0x0, 0x0, 0x0, 0x3FF03FF⟩,
  ⟨"CAST_HOST_LO", 0x80058, [], 0x0, 0x0, 0x0, 0x0, 0x0, 0x0, 0xC0000000⟩,
  ⟨"CAST_HOST_HI", 0x8005C, [], 0x0, 0x0, 0x0, 0x0, 0x0, 0x0, 0xFFFFFFFF⟩,
  ⟨"CAST_HOST_SIZE", 0x80060, [], 0x0, 0x0, 0x0, 0x0, 0x0, 0x0, 0xFFFF⟩,
  ⟨"CAST_RS_CTRL", 0x80100, [], 0x0, 0x20000000, 0x80000033, 0x0, 0x40000000, 0x0, 0x0⟩,
  ⟨"CAST_RS_NUMBER", 0x80104, [], 0x0, 0x0, 0xFFFFFFFF, 0x0, 0x0, 0x0, 0x0⟩,
  ⟨"CAST_RS_MODULE", 0x80108, [], 0x0, 0x0, 0x1FFF, 0x0, 0x0, 0x0, 0x0⟩,
  ⟨"CAST_RS_STEP", 0x8010C, [], 0x0, 0x0, 0xFFFFFFFF, 0x0, 0x0, 0x0, 0x0⟩,
  ⟨"CAST_RS_MB", 0x80110, [], 0x0, 0x0, 0xFFFF, 0x0, 0x0, 0x0, 0x0⟩,
  ⟨"CAST_RS_OBJ", 0x80114, [], 0x0, 0x0, 0x7FF07FF, 0x0, 0x0, 0x0, 0x0⟩,
  ⟨"CAST_RS_T2", 0x80118, [], 0x0, 0x0, 0x3FFF, 0x0, 0x0, 0x0, 0x0⟩,
  ⟨"CAST_RS_STATUS", 0x8011C, [], 0x0, 0xFFFF00FF, 0x0, 0x0, 0x0, 0x0, 0x0⟩,
  ⟨"CAST_RS_PMASK", 0x80120, [], 0x0, 0x0, 0xFFFF, 0x0, 0x0, 0x0, 0x0⟩,
  ⟨"CAST_RS_POS_LO", 0x80140, [(16, 0x8)], 0x0, 0x0, 0xFFFFFFFF, 0x0, 0x0, 0x0, 0x0⟩,
  ⟨"CAST_RS_POS_HI", 0x80144, [(16, 0x8)], 0x0, 0x0, 0xFFFFFFFF, 0x0, 0x0, 0x0, 0x0⟩ ]

/-- The register table rows of the CAST block, part 2. -/
def regsCast1 : List RegDef := [
  ⟨"CAST_UNIT_CMD", 0x80200, [], 0x0, 0x0, 0x0, 0x0, 0xC3003F07, 0x0, 0x0⟩,
  ⟨"CAST_DIE_LOST", 0x80204, [], 0x0, 0xF, 0x0, 0x0, 0x0, 0x0, 0x0⟩,
  ⟨"CAST_CLUSTER_STATE", 0x80300, [(4, 0x30), (12, 0x4)], 0x0, 0x1FFFF, 0x0, 0x0, 0x0, 0x0, 0x0⟩,
  ⟨"CAST_ML_CMD", 0x80400, [], 0x0, 0x0, 0x0, 0x0, 0xC0001FFF, 0x0, 0x0⟩,
  ⟨"CAST_ML_MAP", 0x80800, [(256, 0x4)], 0x0, 0xFFFFFFFF, 0x0, 0x0, 0x0, 0x0, 0x0⟩,
  ⟨"CAST_DIS_SEL", 0x80C00, [], 0x0, 0x0, 0xF003F01, 0x0, 0x0, 0x0, 0x0⟩,
  ⟨"CAST_DIS_CMD", 0x80C04, [], 0x0, 0x0, 0x0, 0x0, 0xC0000000, 0x0, 0x0⟩,
  ⟨"CAST_DIS_STATE", 0x80C08, [], 0x0, 0xFFFF0007, 0x0, 0x0, 0x0, 0x0, 0x0⟩,
  ⟨"CAST_OBJ_ADDR_LO", 0x88000, [(1024, 0x20)], 0x0, 0x0, 0xFFFFFFFF, 0x0, 0x0, 0x0, 0x0⟩,
  ⟨"CAST_OBJ_ADDR_HI", 0x88004, [(1024, 0x20)], 0x0, 0x0, 0xFFFFFFFF, 0x0, 0x0, 0x0, 0x0⟩,
  ⟨"CAST_OBJ_SIZE", 0x88008, [(1024, 0x20)], 0x0, 0x0, 0xFFFFFFFF, 0x0, 0x0, 0x0, 0x0⟩,
  ⟨"CAST_OBJ_SETS", 0x8800C, [(1024, 0x20)], 0x0, 0x0, 0x8000FFFF, 0x0, 0x0, 0x0, 0x0⟩,
  ⟨"CAST_OBJ_LAST", 0x88010, [(1024, 0x20)], 0x0, 0xFFFFFFFF, 0x0, 0x0, 0x0, 0x0, 0x0⟩,
  ⟨"CAST_OBJ_RS", 0x88014, [(1024, 0x20)], 0x0, 0xFF, 0x0, 0x0, 0x0, 0x0, 0x0⟩ ]

/-- The register table rows of the CAST block. -/
def regsCast : List RegDef := regsCast0 ++ regsCast1

/-- The register table rows of the NUM block. -/
def regsNum : List RegDef := [
  ⟨"NUM_CTRL", 0x90000, [], 0xC01, 0x0, 0x1F00, 0x0, 0x0, 0x0, 0x1⟩,
  ⟨"NUM_STATUS", 0x90004, [], 0x0, 0x7, 0x0, 0x0, 0x0, 0x0, 0x0⟩,
  ⟨"NUM_SKIP_FRAC", 0x90008, [], 0x100, 0x0, 0xFFFF, 0x0, 0x0, 0x0, 0x0⟩,
  ⟨"NUM_LS_CFG", 0x9000C, [], 0x2800, 0x0, 0xFFFFFFFF, 0x0, 0x0, 0x0, 0x0⟩,
  ⟨"NUM_LS_SET", 0x90010, [], 0x0, 0x0, 0x800000FF, 0x0, 0x0, 0x0, 0x0⟩,
  ⟨"NUM_LS_SET_STEP", 0x90014, [], 0x0, 0x0, 0xFFFFFFFF, 0x0, 0x0, 0x0, 0x0⟩,
  ⟨"NUM_LS_NOW", 0x90018, [], 0x10, 0xFF, 0x0, 0x0, 0x0, 0x0, 0x0⟩,
  ⟨"NUM_LS_NOW_STEP", 0x9001C, [], 0x0, 0xFFFFFFFF, 0x0, 0x0, 0x0, 0x0, 0x0⟩,
  ⟨"NUM_VERDICT", 0x90020, [], 0x0, 0x301, 0x0, 0x0, 0x0, 0x0, 0x0⟩,
  ⟨"NUM_VERDICT_STEP", 0x90024, [], 0x0, 0xFFFFFFFF, 0x0, 0x0, 0x0, 0x0, 0x0⟩,
  ⟨"NUM_SKIP_COUNT", 0x90028, [], 0x0, 0xFFFFFFFF, 0x0, 0x0, 0x0, 0x0, 0x0⟩,
  ⟨"NUM_SHADOW_CFG", 0x9002C, [], 0x3043E10, 0x0, 0xFFFF7FFF, 0x0, 0x0, 0x0, 0x0⟩,
  ⟨"NUM_UF_LIMIT", 0x90030, [], 0x64, 0x0, 0xFFFF, 0x0, 0x0, 0x0, 0x0⟩,
  ⟨"NUM_TV_EDITION", 0x90034, [], 0x0, 0xFFFF, 0x0, 0x0, 0x0, 0x0, 0x0⟩,
  ⟨"NUM_GUARD_OVERRUN", 0x90038, [], 0x0, 0xFFFFFFFF, 0x0, 0x0, 0x0, 0x0, 0x0⟩,
  ⟨"NUM_DIE_CTR", 0x90100, [(4, 0x40), (10, 0x4)], 0x0, 0xFFFFFFFF, 0x0, 0x0, 0x0, 0x0, 0x0⟩,
  ⟨"NUM_SHADOW_SUSPECT", 0x90200, [(4, 0x30), (12, 0x4)], 0x0, 0xFF0001FF, 0x0, 0x0, 0x0, 0x0, 0x0⟩,
  ⟨"NUM_HUB_CTR", 0x90300, [(7, 0x4)], 0x0, 0xFFFFFFFF, 0x0, 0x0, 0x0, 0x0, 0x0⟩,
  ⟨"NUM_WATCH_CFG", 0x91008, [(1023, 0x8)], 0x0, 0x0, 0x3, 0x0, 0x0, 0x0, 0x0⟩,
  ⟨"NUM_WATCH_STATE", 0x9100C, [(1023, 0x8)], 0x0, 0x8000FFFF, 0x0, 0x0, 0x0, 0x0, 0x0⟩,
  ⟨"NUM_SEED_LO", 0x90040, [], 0x0, 0x0, 0xFFFFFFFF, 0x0, 0x0, 0x0, 0x0⟩,
  ⟨"NUM_SEED_HI", 0x90044, [], 0x0, 0x0, 0xFFFFFFFF, 0x0, 0x0, 0x0, 0x0⟩ ]

/-- The register table rows of the SEC block. -/
def regsSec : List RegDef := [
  ⟨"SEC_STATUS", 0xA0000, [], 0x0, 0xFF, 0x0, 0x0, 0x0, 0x0, 0x0⟩,
  ⟨"SEC_EID", 0xA0004, [], 0x0, 0xFFFFFF, 0x0, 0x0, 0x0, 0x0, 0x0⟩,
  ⟨"SEC_SMBUS", 0xA0008, [], 0x0, 0x0, 0x0, 0x0, 0x0, 0x7F, 0x0⟩,
  ⟨"SEC_MGMT_EN", 0xA000C, [], 0x7, 0x0, 0x0, 0x0, 0x0, 0x0, 0x7⟩,
  ⟨"SEC_ATTEST_COUNT", 0xA0010, [], 0x0, 0xFFFFFFFF, 0x0, 0x0, 0x0, 0x0, 0x0⟩,
  ⟨"SEC_REJECT_COUNT", 0xA0014, [], 0x0, 0xFFFFFFFF, 0x0, 0x0, 0x0, 0x0, 0x0⟩,
  ⟨"SEC_OWNER_DIGEST", 0xA0020, [(8, 0x4)], 0x0, 0xFFFFFFFF, 0x0, 0x0, 0x0, 0x0, 0x0⟩,
  ⟨"SEC_ID_DIGEST", 0xA0040, [(8, 0x4)], 0x0, 0xFFFFFFFF, 0x0, 0x0, 0x0, 0x0, 0x0⟩ ]

/-- The register table rows of the FWC block. -/
def regsFwc : List RegDef := [
  ⟨"FWC_RUN_VER", 0xB0000, [], 0x0, 0xFFFFFFFF, 0x0, 0x0, 0x0, 0x0, 0x0⟩,
  ⟨"FWC_RUN_INFO", 0xB0004, [], 0x0, 0xFFFF, 0x0, 0x0, 0x0, 0x0, 0x0⟩,
  ⟨"FWC_OTP_SVN", 0xB0008, [], 0x0, 0x7F, 0x0, 0x0, 0x0, 0x0, 0x0⟩,
  ⟨"FWC_CONFIRMED_VER", 0xB000C, [], 0x0, 0xFFFFFFFF, 0x0, 0x0, 0x0, 0x0, 0x0⟩,
  ⟨"FWC_CTRL", 0xB0010, [], 0x0, 0x0, 0x0, 0x0, 0xE0000000, 0x0, 0x0⟩,
  ⟨"FWC_STATUS", 0xB0014, [], 0x0, 0xFF030007, 0x0, 0x0, 0x0, 0x0, 0x0⟩,
  ⟨"FWC_STAGE_SRC_LO", 0xB0018, [], 0x0, 0x0, 0xFFFFFFFF, 0x0, 0x0, 0x0, 0x0⟩,
  ⟨"FWC_STAGE_SRC_HI", 0xB001C, [], 0x0, 0x0, 0xFFFFFFFF, 0x0, 0x0, 0x0, 0x0⟩,
  ⟨"FWC_STAGE_LEN", 0xB0020, [], 0x0, 0x0, 0xFFFFFFFF, 0x0, 0x0, 0x0, 0x0⟩,
  ⟨"FWC_STAGE_EST_S", 0xB0024, [], 0x2, 0xFFFFFFFF, 0x0, 0x0, 0x0, 0x0, 0x0⟩,
  ⟨"FWC_STAGED_VER", 0xB0028, [], 0x0, 0xFFFFFFFF, 0x0, 0x0, 0x0, 0x0, 0x0⟩,
  ⟨"FWC_STAGED_INFO", 0xB002C, [], 0x0, 0xFFFF, 0x0, 0x0, 0x0, 0x0, 0x0⟩,
  ⟨"FWC_BOOT_COUNT", 0xB0030, [], 0x0, 0xFFFFFFFF, 0x0, 0x0, 0x0, 0x0, 0x0⟩,
  ⟨"FWC_SET_SEL", 0xB0040, [], 0x0, 0x0, 0xFF, 0x0, 0x0, 0x0, 0x0⟩,
  ⟨"FWC_SET_WRITE", 0xB0044, [], 0x0, 0x0, 0x0, 0x0, 0xFFFFFFFF, 0x0, 0x0⟩,
  ⟨"FWC_SET_STORED", 0xB0048, [], 0x0, 0xFFFFFFFF, 0x0, 0x0, 0x0, 0x0, 0x0⟩,
  ⟨"FWC_SET_HELD", 0xB004C, [], 0x0, 0xFFFFFFFF, 0x0, 0x0, 0x0, 0x0, 0x0⟩,
  ⟨"FWC_SET_FMT", 0xB0050, [], 0x0, 0xFFFF, 0x0, 0x0, 0x0, 0x0, 0x0⟩,
  ⟨"FWC_JNL_NEXT", 0xB0060, [], 0x0, 0xFFFFFFFF, 0x0, 0x0, 0x0, 0x0, 0x0⟩,
  ⟨"FWC_JNL_OLDEST", 0xB0064, [], 0x0, 0xFFFFFFFF, 0x0, 0x0, 0x0, 0x0, 0x0⟩,
  ⟨"FWC_JNL_SEL", 0xB0068, [], 0x0, 0x0, 0xFFFFFFFF, 0x0, 0x0, 0x0, 0x0⟩,
  ⟨"FWC_JNL_READ", 0xB0080, [(8, 0x4)], 0x0, 0xFFFFFFFF, 0x0, 0x0, 0x0, 0x0, 0x0⟩ ]

/-- The register table rows of the DIE block, part 1. -/
def regsDie0 : List RegDef := [
  ⟨"CORE_CTRL", 0x1001000, [(4, 0x400000), (12, 0x10000), (8, 0x100)], 0x0, 0x0, 0x6, 0x0, 0x1, 0x0, 0x0⟩,
  ⟨"CORE_STATUS", 0x1001004, [(4, 0x400000), (12, 0x10000), (8, 0x100)], 0x0, 0xFF07EF, 0x0, 0x0, 0x0, 0x0, 0x0⟩,
  ⟨"CORE_ENTRY", 0x1001008, [(4, 0x400000), (12, 0x10000), (8, 0x100)], 0x0, 0x3FF, 0x0, 0x0, 0x0, 0x0, 0x0⟩,
  ⟨"CORE_SWITCH_AT_LO", 0x100100C, [(4, 0x400000), (12, 0x10000), (8, 0x100)], 0x0, 0x0, 0xFFFFFFFF, 0x0, 0x0, 0x0, 0x0⟩,
  ⟨"CORE_SWITCH_AT_HI", 0x1001010, [(4, 0x400000), (12, 0x10000), (8, 0x100)], 0x0, 0x0, 0xFFFF, 0x0, 0x0, 0x0, 0x0⟩,
  ⟨"CORE_STEP", 0x1001014, [(4, 0x400000), (12, 0x10000), (8, 0x100)], 0x0, 0x0, 0xFFFFFFFF, 0x0, 0x0, 0x0, 0x0⟩,
  ⟨"CORE_MB", 0x1001018, [(4, 0x400000), (12, 0x10000), (8, 0x100)], 0x0, 0x0, 0xFFFF, 0x0, 0x0, 0x0, 0x0⟩,
  ⟨"CORE_IDLE_COUNT", 0x100101C, [(4, 0x400000), (12, 0x10000), (8, 0x100)], 0x0, 0xFFFFFFFF, 0x0, 0x0, 0x0, 0x0, 0x0⟩,
  ⟨"CORE_LOOP", 0x1001020, [(4, 0x400000), (12, 0x10000), (8, 0x100), (4, 0x4)], 0x0, 0xFFFF, 0x0, 0x0, 0x0, 0x0, 0x0⟩,
  ⟨"CORE_DISCARD", 0x1001030, [(4, 0x400000), (12, 0x10000), (8, 0x100)], 0x0, 0xFFFFFFFF, 0x0, 0x0, 0x0, 0x0, 0x0⟩,
  ⟨"CORE_IN_HELD", 0x1001040, [(4, 0x400000), (12, 0x10000), (8, 0x100), (16, 0x4)], 0x0, 0x1F, 0x0, 0x0, 0x0, 0x0, 0x0⟩,
  ⟨"CORE_OUT_CREDIT", 0x1001080, [(4, 0x400000), (12, 0x10000), (8, 0x100), (16, 0x4)], 0x0, 0x1F, 0x0, 0x0, 0x0, 0x0, 0x0⟩,
  ⟨"CORE_CL_LEASE", 0x1001800, [(4, 0x400000), (12, 0x10000)], 0x0, 0xF, 0x0, 0x0, 0x0, 0x0, 0x0⟩,
  ⟨"ARR_CTRL", 0x1000000, [(4, 0x400000), (12, 0x10000)], 0x1, 0x0, 0x3, 0x0, 0x0, 0x0, 0x0⟩,
  ⟨"ARR_STATUS", 0x1000004, [(4, 0x400000), (12, 0x10000)], 0x0, 0x3FF03FF, 0x0, 0x0, 0x0, 0x0, 0x0⟩,
  ⟨"ARR_SLAG_REQ", 0x1000008, [(4, 0x400000), (12, 0x10000)], 0x0, 0x0, 0x800001FF, 0x0, 0x0, 0x0, 0x0⟩,
  ⟨"ARR_PASS_ERR", 0x100000C, [(4, 0x400000), (12, 0x10000)], 0x0, 0xFF, 0x0, 0x0, 0x0, 0x0, 0x0⟩,
  ⟨"ARR_PASS_COUNT", 0x1000010, [(4, 0x400000), (12, 0x10000)], 0x0, 0xFFFFFFFF, 0x0, 0x0, 0x0, 0x0, 0x0⟩,
  ⟨"ARR_INT_SAT_COUNT", 0x1000014, [(4, 0x400000), (12, 0x10000)], 0x0, 0xFFFFFFFF, 0x0, 0x0, 0x0, 0x0, 0x0⟩,
  ⟨"ARR_FREEZE_FEED_LO", 0x1000018, [(4, 0x400000), (12, 0x10000)], 0x0, 0xFFFFFFFF, 0x0, 0x0, 0x0, 0x0, 0x0⟩,
  ⟨"ARR_FREEZE_FEED_HI", 0x100001C, [(4, 0x400000), (12, 0x10000)], 0x0, 0xFFFFFFFF, 0x0, 0x0, 0x0, 0x0, 0x0⟩,
  ⟨"ARR_FREEZE_DRAIN_LO", 0x1000020, [(4, 0x400000), (12, 0x10000)], 0x0, 0xFFFFFFFF, 0x0, 0x0, 0x0, 0x0, 0x0⟩,
  ⟨"ARR_FREEZE_DRAIN_HI", 0x1000024, [(4, 0x400000), (12, 0x10000)], 0x0, 0xFFFFFFFF, 0x0, 0x0, 0x0, 0x0, 0x0⟩,
  ⟨"ARR_STREAM_CYCLES_LO", 0x1000028, [(4, 0x400000), (12, 0x10000)], 0x0, 0xFFFFFFFF, 0x0, 0x0, 0x0, 0x0, 0x0⟩,
  ⟨"ARR_STREAM_CYCLES_HI", 0x100002C, [(4, 0x400000), (12, 0x10000)], 0x0, 0xFFFFFFFF, 0x0, 0x0, 0x0, 0x0, 0x0⟩,
  ⟨"ARR_SLAG_LAST", 0x1000030, [(4, 0x400000), (12, 0x10000)], 0x0, 0x701FF, 0x0, 0x0, 0x0, 0x0, 0x0⟩,
  ⟨"ARR_SLAG_MAP", 0x1000040, [(4, 0x400000), (12, 0x10000), (16, 0x4)], 0x0, 0xFFFFFFFF, 0x0, 0x0, 0x0, 0x0, 0x0⟩,
  ⟨"CORE_VEC_ERR", 0x10010C0, [(4, 0x400000), (12, 0x10000), (8, 0x100)], 0x0, 0xFF, 0x0, 0x0, 0x0, 0x0, 0x0⟩,
  ⟨"CORE_VEC_OPS", 0x10010C4, [(4, 0x400000), (12, 0x10000), (8, 0x100)], 0x0, 0xFFFFFFFF, 0x0, 0x0, 0x0, 0x0, 0x0⟩,
  ⟨"CORE_STAGE_POISON", 0x10010D0, [(4, 0x400000), (12, 0x10000), (8, 0x100), (8, 0x4)], 0x0, 0x0, 0x0, 0xFFFFFFFF, 0x0, 0x0, 0x0⟩ ]

/-- The register table rows of the DIE block, part 2. -/
def regsDie1 : List RegDef := [
  ⟨"CORE_STAGE_FAIL", 0x10010F0, [(4, 0x400000), (12, 0x10000), (8, 0x100)], 0x0, 0xFFFFFFFF, 0x0, 0x0, 0x0, 0x0, 0x0⟩,
  ⟨"CORE_OPT_ERR", 0x10010C8, [(4, 0x400000), (12, 0x10000), (8, 0x100)], 0x0, 0xFF, 0x0, 0x0, 0x0, 0x0, 0x0⟩,
  ⟨"CORE_OPT_OPS", 0x10010CC, [(4, 0x400000), (12, 0x10000), (8, 0x100)], 0x0, 0xFFFFFFFF, 0x0, 0x0, 0x0, 0x0, 0x0⟩,
  ⟨"PICK_STATUS", 0x1002000, [(4, 0x400000), (12, 0x10000), (2, 0x100)], 0x0, 0x1FF, 0x0, 0x0, 0x0, 0x0, 0x0⟩,
  ⟨"PICK_LOOKUPS", 0x1002004, [(4, 0x400000), (12, 0x10000), (2, 0x100)], 0x0, 0xFFFFFFFF, 0x0, 0x0, 0x0, 0x0, 0x0⟩,
  ⟨"PICK_ROWS_LO", 0x1002008, [(4, 0x400000), (12, 0x10000), (2, 0x100)], 0x0, 0xFFFFFFFF, 0x0, 0x0, 0x0, 0x0, 0x0⟩,
  ⟨"PICK_ROWS_HI", 0x100200C, [(4, 0x400000), (12, 0x10000), (2, 0x100)], 0x0, 0xFFFFFFFF, 0x0, 0x0, 0x0, 0x0, 0x0⟩,
  ⟨"PICK_ROW_FAIL", 0x1002010, [(4, 0x400000), (12, 0x10000), (2, 0x100)], 0x0, 0xFFFFFFFF, 0x0, 0x0, 0x0, 0x0, 0x0⟩,
  ⟨"PICK_OOR", 0x1002014, [(4, 0x400000), (12, 0x10000), (2, 0x100)], 0x0, 0xFFFFFFFF, 0x0, 0x0, 0x0, 0x0, 0x0⟩,
  ⟨"PICK_TRK_WAIT", 0x1002018, [(4, 0x400000), (12, 0x10000), (2, 0x100)], 0x0, 0xFFFFFFFF, 0x0, 0x0, 0x0, 0x0, 0x0⟩,
  ⟨"CORE_CR_ERR", 0x10010F4, [(4, 0x400000), (12, 0x10000), (8, 0x100)], 0x0, 0xFF, 0x0, 0x0, 0x0, 0x0, 0x0⟩,
  ⟨"CORE_CR_OPS", 0x10010F8, [(4, 0x400000), (12, 0x10000), (8, 0x100)], 0x0, 0xFFFFFFFF, 0x0, 0x0, 0x0, 0x0, 0x0⟩,
  ⟨"CORE_LD_ERR", 0x1001034, [(4, 0x400000), (12, 0x10000), (8, 0x100)], 0x0, 0xFF, 0x0, 0x0, 0x0, 0x0, 0x0⟩,
  ⟨"CORE_LD_OPS", 0x1001038, [(4, 0x400000), (12, 0x10000), (8, 0x100)], 0x0, 0xFFFFFFFF, 0x0, 0x0, 0x0, 0x0, 0x0⟩,
  ⟨"CORE_LD_FAIL", 0x100103C, [(4, 0x400000), (12, 0x10000), (8, 0x100)], 0x0, 0xFFFFFFFF, 0x0, 0x0, 0x0, 0x0, 0x0⟩ ]

/-- The register table rows of the DIE block. -/
def regsDie : List RegDef := regsDie0 ++ regsDie1

/-- The rows that can hold an offset: BAR0's 64 KiB hub blocks, then the windows of the dies (R413). -/
def regBlock (off : Nat) : List RegDef :=
  match off / 0x10000 with
  | 0 => regsId
  | 1 => regsHeat
  | 2 => regsHif
  | 3 => regsIng
  | 4 => regsMem
  | 5 => regsFab
  | 6 => regsCol
  | 7 => regsPwr
  | 8 => regsCast
  | 9 => regsNum
  | 10 => regsSec
  | 11 => regsFwc
  | n => if n < 0x100 then [] else regsDie

/-- Whether a remainder is some index of each of the dimensions in turn, the largest stride first. -/
def dimsHit : List (Nat × Nat) → Nat → Bool
  | [], r => r == 0
  | (count, stride) :: ds, r => decide (r / stride < count) && dimsHit ds (r % stride)

/-- Whether an offset is one of the places of a register table row. -/
def regHit (d : RegDef) (off : Nat) : Bool := decide (d.base ≤ off) && dimsHit d.dims (off - d.base)

/-- The row of the register at an offset; none where BAR0 has no register (R36: such an offset reads 0). -/
def regAt (off : Nat) : Option RegDef := (regBlock off).find? (fun d => regHit d off)

/-- Bases of the registers whose name ends _LO; the _HI register of each stands 4 above it (R36). -/
def loBases : List Nat := [0x10010, 0x10018, 0x10020, 0x10028, 0x10030, 0x100100C, 0x1000018, 0x1000020, 0x1000028, 0x90040, 0x4C000, 0x46008, 0x46104, 0x1002008, 0x4D000, 0x4E00C, 0x4F008, 0x20800, 0x50040, 0x50048, 0x50050, 0x20008, 0x20020, 0x21000, 0x21800, 0x22000, 0x22400, 0x22410, 0x30110, 0x30118, 0x30120, 0x20048, 0x20060, 0x20068, 0x20070, 0x20078, 0x70020, 0x70200, 0x8000C, 0x80058, 0x80140, 0x88000, 0x8, 0xB0018]

/-- The reset value the tables give the register at an offset; 0 where there is no register. -/
def regReset (off : Nat) : BitVec 32 :=
  match regAt off with
  | some d => BitVec.ofNat 32 d.reset
  | none => 0

end Sys2Proof.Machine
end

