-- ==== Sys2Proof/Machine/Tab.lean ====
section
/-!
DEFINITION. Sparse tables: a list of (key, value) pairs in one canonical form, keys strictly rising and no entry equal
to what an unlisted key reads as. Registers, memory bytes and every per-unit record of the state are held in this form.
-/

namespace Sys2Proof.Machine

/-- A sparse table. -/
abbrev Tab (α : Type) := List (Nat × α)

/-- The entry a table lists for a key. -/
def tabFind {α : Type} : Tab α → Nat → Option α
  | [], _ => none
  | (k, v) :: t, a => if a = k then some v else tabFind t a

/-- What a table reads as at a key, `d` giving what an unlisted key reads as. -/
def tabGet {α : Type} (d : Nat → α) (t : Tab α) (a : Nat) : α :=
  match tabFind t a with
  | some v => v
  | none => d a

/-- Remove a key. -/
def tabErase {α : Type} : Tab α → Nat → Tab α
  | [], _ => []
  | (k, v) :: t, a => if a = k then tabErase t a else (k, v) :: tabErase t a

/-- List a key with a value, in its place. -/
def tabInsert {α : Type} : Tab α → Nat → α → Tab α
  | [], a, x => [(a, x)]
  | (k, v) :: t, a, x =>
    if a = k then (a, x) :: t else if a < k then (a, x) :: (k, v) :: t else (k, v) :: tabInsert t a x

/-- Write a key: writing what an unlisted key reads as removes the entry. -/
def tabPut {α : Type} [DecidableEq α] (d : Nat → α) (t : Tab α) (a : Nat) (x : α) : Tab α :=
  if x = d a then tabErase t a else tabInsert t a x

/-- All keys of a table are above a bound. -/
def tabAbove {α : Type} (a : Nat) : Tab α → Bool
  | [] => true
  | (k, _) :: t => decide (a < k) && tabAbove a t

/-- The canonical form: keys strictly rising and no entry equal to what an unlisted key reads as. -/
def tabWf {α : Type} [DecidableEq α] (d : Nat → α) : Tab α → Bool
  | [] => true
  | (k, v) :: t => decide (v ≠ d k) && tabAbove k t && tabWf d t

/-- Update the entry of a key through a function. -/
def tabMod {α : Type} [DecidableEq α] (d : Nat → α) (t : Tab α) (a : Nat) (f : α → α) : Tab α :=
  tabPut d t a (f (tabGet d t a))

end Sys2Proof.Machine
end

