-- ==== Sys2Proof/Machine/State.lean ====
section
/-!
DEFINITION. The state of the module, as plain data: the queue of commands waiting, the bytes of its memories, and
everything else (registers, units, work in flight, store), with the reasons a command can stop and the state after
reset. A field's docstring names the rule of spec/ that gives it.
-/

namespace Sys2Proof.Machine

open Sys2Proof

/-! ### The heat and module time (01_heat.md) -/

/-- The base in force of R24: heat `n` is at tick time `b`, with period `p` microseconds from there on. -/
structure HeatBase where
  b : Nat := 0
  n : Nat := 0
  p : Nat := 250
deriving DecidableEq, Repr

/-- A pending change of period and set length (R25): the heat it takes force at and the HEAT_CFG word taken. -/
structure HeatChange where
  at_ : Nat
  cfg : Word
deriving DecidableEq, Repr

/-- Where the module stands with respect to the plane's heat. -/
structure HeatSt where
  /-- module time, ns (R27) -/
  time : BitVec 64 := 0
  /-- heat counter (R23) -/
  count : BitVec 48 := 0
  /-- module time of the last tick (step 0 of R14) -/
  tickTime : Nat := 0
  base : HeatBase := {}
  change : Option HeatChange := none
  /-- the time master's configuration and armed change, as the last time message carried them (R26) -/
  masterCfg : Option Word := none
  masterChange : Option HeatChange := none
  masterBase : HeatBase := {}
  masterHeat : Nat := 0
  /-- ticks until the module joins the heat (R30) -/
  joinIn : Option Nat := none
  /-- the module has taken part in a heat since this start -/
  everRan : Bool := false
  /-- correction of module time still to be made, ns, at 50 parts per million (R29, R31) -/
  pull : Int := 0
  /-- fraction of the correction earned so far, in units of 10^-6 ns -/
  pullFrac : Nat := 0
  /-- the offset last measured against the master exceeds 1 microsecond (R30) -/
  offsetFault : Option Int := none
  /-- the number of the module that is time master, as far as this module knows (R28) -/
  master : Option Nat := none
  /-- the other modules known to have HEAT_MASTER_ELIG set, with whether each has a locked reference input (R28) -/
  known : List (Nat × Bool) := []
  /-- a boundary window is in its step 5: the page read has not ended, and step 6 is still to come (R14, R302) -/
  pageRead : Bool := false
deriving DecidableEq, Repr

/-- What the cluster scheduler holds of a cluster beside its registers. -/
structure ClusterSt where
  /-- the cluster missed its last tick (R19) -/
  missing : Bool := false
  /-- the cluster missed the tick of the heat in progress: it takes no part in this heat's step 6 (R18, R19) -/
  late : Bool := false
  /-- ticks missed since it last chose (R20) -/
  missedTicks : Nat := 0
  /-- held by the heat watchdog (R22) -/
  held : Bool := false
  /-- the watchdog condition was met at the last tick and the watchdog has yet to act -/
  wdogDue : Bool := false
  /-- the cluster is taken by a maintenance request (R428) -/
  maint : Bool := false
  lost : Bool := false
deriving DecidableEq, Repr

/-! ### Records, journal and what leaves the module (16, 22) -/

/-- An event waiting for step 4 (R328). -/
structure EvRec where
  time : Nat
  heat : Nat
  code : Nat
  chip : Nat
  cluster : Nat
  core : Nat
  data : List Byte
deriving DecidableEq, Repr

/-- A completion waiting for step 4 (R327). -/
structure CompRec where
  time : Nat
  heat : Nat
  status : Nat
  err : Nat
  tag : Nat
  index : Nat
  ring : Nat
  kind : Nat
deriving DecidableEq, Repr

/-- One entry of the change journal (Table 22.4). -/
structure JEntry where
  time : Nat
  heat : Nat
  status : Nat
  kind : Nat
  origin : Nat
  target : Nat
  old : Nat
  new : Nat
  who : Nat
deriving DecidableEq, Repr

/-- Who issued a write toward the host. -/
inductive WriteSrc where
  | record
  | notice
  /-- the write of a peer probe -/
  | probe
  /-- a write of another module or of a refresh -/
  | far
  /-- a cast's drain, which never enters the retention buffer (R350) -/
  | cast
  | msix
  | work (id : Nat)
  | drain (work slot table row step : Nat)
  /-- the copy of a moved row, by moved-row index -/
  | rowCopy (i : Nat)
deriving DecidableEq, Repr

/-- A write toward host memory: bus address, bytes, and whether it carries Relaxed Ordering (R311). -/
structure HostWrite where
  addr : Nat
  bytes : List Byte
  relaxed : Bool
  src : WriteSrc
deriving DecidableEq, Repr

/-- What the module has sent or answered, oldest first: what another agent could see of it. -/
inductive Out where
  | host (w : HostWrite)
  | hostRead (addr len : Nat)
  | regValue (off : Nat) (v : Word)
  | bar2Data (bytes : List Byte) (poisoned : Bool)
  | message (id : Nat) (header : List Byte) (payload : List Byte)
  | packet (dst kind : Nat) (body : List Byte)
  | coll (dst : Nat) (msg : CollMsg)
  | contribution (dst : Nat) (row : FarRow)
  | ack (dst status : Nat) (row : FarRow)
  | move (dst : Nat) (copy : MoveCopy)
  /-- a time message of R29 by a port: module time, heat number, base, configuration in force, armed change, and the
  modules known to be eligible as time master (R28) -/
  | timeMessage (port time heat base baseHeat : Nat) (cfg : Word) (change : Option (Nat × Word)) (known : List (Nat × Bool))
  | flitAck (port seq : Nat)
  /-- a replay is asked for from a flit -/
  | replay (port seq : Nat)
  | broker (dst : Nat) (msg : BrokerMsg)
  /-- a port sends again from a flit -/
  | resend (port seq : Nat)
  /-- a packet of another module leaves by a port -/
  | sent (port : Nat) (pkt : Packet)
  /-- a packet is handed to the unit it is for -/
  | handed (pkt : Packet)
  | linkState (port : Nat) (n : LinkNotice)
  /-- the identity a training port sends in stage 4: module number, port number and capabilities (R259, R260) -/
  | identity (port module : Nat) (caps : Word)
  /-- a channel message was discarded whole; its sender is told -/
  | discarded (chip : Nat) (header : List Byte)
  | reply (who : Nat) (status : Nat) (body : List Byte)
  | pldmEvent (who sensor reading : Nat)
deriving DecidableEq, Repr

/-! ### Work in flight -/

/-- Who issued a piece of work: a core's work word, or a descriptor of a submission ring. -/
inductive Issuer where
  | core (n : Nat)
  | ring (r : Nat) (index : Nat)
deriving DecidableEq, Repr

/-- A stretch of memory: cells `addr` to `addr + len - 1` of the module's byte memory. -/
structure Span where
  addr : Nat
  len : Nat
deriving DecidableEq, Repr

/-- The units of Table 2.6, and the hub's ladles. -/
inductive UnitKind where
  | array | vector | picker | send | ladle | crucible | optimiser
deriving DecidableEq, Repr

/-- A work word, or a descriptor, that has been issued and has not completed. -/
structure Work where
  id : Nat
  who : Issuer
  unit : UnitKind
  /-- position in its block -/
  pos : Nat
  heat : Nat
  word : Nat
  step : Nat
  mb : Nat
  dst : List Span
  /-- the first failing status met so far, by rank of the unit's own chapter -/
  status : Nat := 0
  /-- requests of a ladle that have been sent and not answered: when each times out, and the port it left by: 0 for tiers 0 and
  1, 1 for a read of the host port, y + 2 for module y (R228, R229, R403) -/
  due : List (Nat × Nat) := []
  /-- requests of a ladle that wait for a tracker entry: where each goes (0 tiers 0 and 1, 1 tier 2, 2 another module, 3 tier 2
  of another module), which fixes the timeout it takes when it is issued, and the port it is to leave by (R228,
  R233) -/
  waits : List (Nat × Nat) := []
  /-- a flush read to be issued once the retained writes of the work have been replayed: the peer window, and how it will
  be answered where it is (R313) -/
  flush : Option (Nat × Option Nat) := none
  /-- every request is answered but writes of the work are retained for the host (R350) -/
  retained : Bool := false
  /-- rows of a drain have been written toward the host and the port has not acknowledged them (R254) -/
  posted : Bool := false
  /-- the work reads or writes tier 2 -/
  tier2 : Bool := false
deriving DecidableEq, Repr

/-- Requests of a piece of work that have no answer. -/
def Work.open_ (w : Work) : Nat := w.due.length + w.waits.length

/-- A descriptor on its way (R304, R325): accepted, then fetched; `body` is none until the fetch returns. -/
structure RingWork where
  ring : Nat
  index : Nat
  body : Option (BitVec 512) := none
  started : Bool := false
  /-- accepted while the hub's ladles were disabled (R406) -/
  refused : Bool := false
  /-- not started when the enable of its ring was cleared: it ends with CANCELLED at the next boundary (R308) -/
  stopping : Bool := false
deriving DecidableEq, Repr

/-! ### Cores, patterns and channels (02) -/

/-- An exact value: NaN, an infinity, or (-1)^neg * m * 2^e. -/
inductive Val where
  | nan
  | inf (neg : Bool)
  | fin (neg : Bool) (m : Nat) (e : Int)
deriving DecidableEq, Repr

/-- The column map that the passes of an entry run on: the slagged columns, and whether the array is failed (R83, R85). -/
structure ColMap where
  slagged : List Nat := []
  failed : Bool := false
deriving DecidableEq, Repr

/-- The alternative a core chose at the last boundary it took part in, and how far its work block has been issued. -/
structure Choice where
  entry : Nat
  alt : Nat
  inMask : Nat
  outMask : Nat
  workPtr : Nat
  workLen : Nat
  step : Nat
  mb : Nat
  heat : Nat
  /-- channel and slot of every message taken -/
  taken : List (Nat × Nat)
  /-- the alternative advances CORE_STEP and CORE_MB once its block has been issued (Table 2.5) -/
  stepInc : Bool := false
  mbInc : Bool := false
  /-- the column map its passes run on (R85) -/
  cols : ColMap := {}
  /-- next word of the block to issue -/
  next : Nat := 0
  /-- the rest of the block is not issued (R49) -/
  stopped : Bool := false
  /-- out-channels already used by a send -/
  sent : Nat := 0
  /-- the slots of the messages taken have been freed (R56) -/
  freed : Bool := false
deriving DecidableEq, Repr

/-- A data message held in an in-channel slot; `late` says that it arrived after the last tick (R43). -/
structure HeldMsg where
  seq : Nat
  step : Nat
  mb : Nat
  late : Bool := false
deriving DecidableEq, Repr

/-- Values of a rule slot in force (R157, Table 8.8). -/
structure RuleVals where
  rule : Nat := 0
  eta : Nat := 0
  beta1 : Nat := 0
  beta2 : Nat := 0
  eps : Nat := 0
  lambda : Nat := 0
  limit : Nat := 0x7F800000
  glimit : Nat := 0x7F800000
  step0 : Nat := 0
deriving DecidableEq, Repr

/-- A work word on its way from the scalar control unit to its unit: the word, its place in the block, the 64-byte block it
names as it stood at the issue, heat and module time of the issue (R33, R181, R216), the directory entries it names (R187)
and the rule its slot held (R157), both as they stood then, and for an array pass the operands its feeders read, rows of A
and columns of B (R72, R79). -/
structure IssuedWord where
  word : Nat
  pos : Nat
  block : Nat
  heat : Nat := 0
  time : Nat := 0
  /-- directory indices named, with their entries -/
  dir : List (Nat × Option Nat) := []
  rule : RuleVals := {}
  a : List (List Val) := []
  b : List (List Val) := []
deriving DecidableEq, Repr

/-- An in-channel: its bind heat, the sequence number to be taken next, and the messages delivered and not taken. -/
structure InChan where
  bindHeat : Nat := 0
  nextSeq : Nat := 0
  held : List HeldMsg := []
  /-- sequence numbers used by messages that were discarded whole (R265) -/
  gone : List Nat := []
deriving DecidableEq, Repr

/-- What a core holds beside its registers and its memory. -/
structure CoreSt where
  inCh : Tab InChan := []
  /-- next sequence number on every out-channel -/
  outSeq : Tab Nat := []
  /-- credits that arrived on every out-channel since the last tick, and do not count yet (R43) -/
  lateCredit : Tab Nat := []
  choice : Option Choice := none
  /-- the work word the scalar control unit has issued and no unit has taken yet -/
  issued : Option IssuedWord := none
  /-- load error of the last check of the inactive bank; none: unchecked since written or since it took that role -/
  lastCheck : Option Nat := none
  /-- heat of the armed switch (R62) -/
  switchAt : Nat := 0
  /-- a stop fell due for a malformed word or header (R477) -/
  stopMalformed : Bool := false
  /-- the descriptor (ring and index) of a PATTERN_LOAD that has not completed for the core -/
  loading : Option (Nat × Nat) := none
deriving DecidableEq, Repr

/-- A channel message sent and not yet acknowledged (R13). -/
structure SentMsg where
  id : Nat
  core : Nat
  chan : Nat
  heat : Nat
  dstChip : Nat
  dstCluster : Nat
  dstCore : Nat
  work : Option Nat
  /-- it counts toward the finishing of its cluster's heat (R13, R283) -/
  counts : Bool := true
deriving DecidableEq, Repr

/-! ### Firmware store, settings, keys and bring-up (21, 22, 23, 24) -/

/-- A settings copy (R438): its format and its items 0 to 3. -/
structure Settings where
  fmt : Nat
  profile : Nat := 0
  dims : Nat := 0
  wiring : Nat := 0
  pair : Nat := 0
deriving DecidableEq, Repr

/-- The non-volatile store and the OTP fuses (R431, R436, R446): they outlive every reset. -/
structure NvSt where
  active : List Byte := []
  staged : List Byte := []
  stagedOk : Bool := false
  stageResult : Nat := 0
  stagedVer : Nat := 0
  stagedInfo : Nat := 0
  confirmedVer : Nat := 0
  bootCount : Nat := 0
  otpSvn : Nat := 0
  revoked : Nat := 0
  debugEver : Bool := false
  current : Settings := { fmt := 1 }
  heldCopy : Option Settings := none
  ownerKey : Option (List Byte) := none
  /-- journal entries kept in the store, oldest first, and the sequence number of the next entry stored -/
  journal : List JEntry := []
  jnlNext : Nat := 0
deriving DecidableEq, Repr

/-- Bring-up, supplies and status outputs. -/
structure BootSt where
  /-- the module's rails are on -/
  powered : Bool := true
  /-- MOD_RST# is held asserted -/
  resetPin : Bool := false
  /-- V_in lies at 40 V or more -/
  vinOk : Bool := true
  /-- THERM_TRIP#, held by a latch powered from the input (R465) -/
  thermTrip : Bool := false
  /-- the start in progress follows a warm reset (R421) -/
  warm : Bool := false
  /-- a warm reset into recovery mode was requested (R437) -/
  toRecovery : Bool := false
  recovery : Bool := false
  /-- module time at which the running stage began -/
  stageStart : Nat := 0
  /-- the MOD_ID straps read at stage 1 (R463) -/
  modId : Nat := 0
  /-- SMB_ADDR straps (R466) -/
  smbAddr : Nat := 0
  /-- dies whose tier 0 is out of service, as stage 5 of the last power-on start found them (R416) -/
  t0Out : List Bool := []
  /-- rows replaced so far in the fuses of every die's stacks -/
  spares : List Nat := []
  /-- calibration of the clusters' activity meters (R367, R414, R429) -/
  meters : Tab Nat := []
deriving DecidableEq, Repr

/-- Attestation, challenge and management state (23). -/
structure SecSt where
  challenge : Option (List Byte) := none
  /-- module time at which the open challenge was issued -/
  challengeAt : Nat := 0
  /-- requesters and nonces of attestation reports waiting (R448) -/
  attests : List (Nat × List Byte) := []
  /-- the debug port opens in the next start -/
  debugNext : Bool := false
  /-- event receiver registered by a platform request (R454) -/
  receiver : Option Nat := none
  /-- level of Table 23.5 at which each sensor was last seen: 0 normal, 1 warning, 2 critical, 3 fatal (R454) -/
  levels : Tab Nat := []
  /-- a management update runs; whether its image has been handed over (R455) -/
  update : Bool := false
deriving DecidableEq, Repr

/-- A staging in progress (R433): its source, length, start and who asked. -/
structure Staging where
  src : Nat
  len : Nat
  started : Nat
  mgmt : Bool
  image : Option (List Byte) := none
deriving DecidableEq, Repr

/-- A maintenance request (R426). -/
structure Maint where
  kind : Nat
  die : Nat
  cluster : Nat
  running : Bool := false
  /-- outcome waiting for the boundary after the work ended: failing columns -/
  ended : Option (List Nat) := none
deriving DecidableEq, Repr

/-! ### The host port (15, 18) -/

/-- What the PCI Express function holds for the host in its configuration space (Table 15.1); the host sets it by
configuration requests, which the opcode table does not list (log entry 126). -/
structure PcieSt where
  /-- class code: processing accelerator -/
  classCode : BitVec 24 := 0x120000
  /-- Maximum payload, bytes: 128, 256 or 512, as the host sets -/
  maxPayload : Nat := 128
  /-- Maximum read request, bytes: at most 4,096, as the host sets -/
  maxRead : Nat := 512
  /-- MSI-X Enable and Function Mask of the MSI-X capability (R307) -/
  msixOn : Bool := true
  msixMask : Bool := false
  /-- status of Advanced Error Reporting: the uncorrectable and the correctable errors recorded -/
  aerUncorrectable : Word := 0
  aerCorrectable : Word := 0
deriving DecidableEq, Repr

/-- The host side: rings, host map and retention buffer. -/
structure HubSt where
  /-- host map in force: granule to table word (R310) -/
  hostMap : Tab Nat := []
  /-- a load of the host map is outstanding -/
  mapLoad : Bool := false
  /-- module time by which its read has to return (R310) -/
  mapDue : Nat := 0
  /-- lost counts of the event rings (R331) -/
  erLost : Tab Nat := []
  /-- rings found overrun and reported: key 0 to 63 submission, 64 to 127 completion, 128 to 135 event (R333) -/
  overrun : Tab Bool := []
  /-- counts of the last doorbell page taken, by ring key as in `overrun` (R302, R333) -/
  counts : Tab Nat := []
  /-- completion rings that belong to the ended session (R352) -/
  cqEnded : Tab Bool := []
  /-- writes retained, in port order (R350) -/
  retained : List HostWrite := []
  /-- the retention time has passed (R358) -/
  retainOver : Bool := false
  /-- module time of the detach and the retention time taken at it -/
  detachAt : Nat := 0
  retainMs : Nat := 2000
  /-- session number of an open whose epoch read is outstanding (R357) -/
  opening : Option Nat := none
  /-- module time by which that read has to return -/
  openDue : Nat := 0
  /-- peer probes outstanding, by window: the bytes that the probe wrote (R314) -/
  probing : Tab (Option Nat) := []
  /-- module times by which the probes' reads have to return, by window -/
  probeDue : Tab Nat := []
  /-- the function's configuration space -/
  pcie : PcieSt := {}
  /-- no running core found a ready alternative at the last boundary (R353) -/
  dry : Bool := false
  /-- descriptors on their way -/
  rings : List RingWork := []
deriving DecidableEq, Repr

/-! ### Values, the array and the numerical guard (03, 04, 05) -/

/-- The tag of an accumulator bank (R73). -/
structure BankTag where
  heat : Nat
  m : Nat
  nw : Nat
  isInt : Bool
deriving DecidableEq, Repr

/-- A pass whose bank is still to be drained (R74), with the drain fields its block had when it was read. -/
structure DrainWork where
  work : Nat
  core : Nat
  bank : Nat
  m : Nat
  nw : Nat
  t : Bool
  space : Nat
  dcore : Nat
  base : Nat
  pitch : Nat
deriving DecidableEq, Repr

/-- A captured output tile (R117): decoded operand rows and columns, the sums, and the physical columns. -/
structure Capture where
  heat : Nat
  /-- 0 16-bit, 1 8-bit float, 2 4-bit float, 3 integer (Table 16.10) -/
  cls : Nat
  phys : List Nat
  a : List (List Val)
  b : List (List Val)
  sums : List (List Word)
deriving DecidableEq, Repr

/-- What the array of a cluster holds beside its registers and its banks. -/
structure ArraySt where
  tag0 : Option BankTag := none
  tag1 : Option BankTag := none
  drains : List DrainWork := []
  captures : List Capture := []
  /-- slagged columns with their source (Table 3.6) -/
  slag : List (Nat × Nat) := []
  failed : Bool := false
  /-- the array failed and its cluster has not reached its next step 6 (R86) -/
  failStop : Bool := false
  /-- slaggings waiting for step 2: column and source -/
  slagPend : List (Nat × Nat) := []
  /-- disagreeing tiles since the last SHADOW_DISAGREE event (R120) -/
  disagree : Nat := 0
deriving DecidableEq, Repr

/-- A guard record (R111). -/
structure GuardRec where
  step : Nat
  b : Nat := 0
  f : Nat := 0
  n : Nat := 0
deriving DecidableEq, Repr

/-- The step a watch slot has open, and whether it has been silent so far (R122). -/
structure WatchSt where
  step : Nat
  quiet : Bool
deriving DecidableEq, Repr

/-- A verdict formed for a step (R112, R113); `ended` is the status of the step close. -/
structure Verdict where
  step : Nat
  skip : Bool
  cause : Nat
  ended : Nat
deriving DecidableEq, Repr

/-- What the numerical guard holds beside its registers. -/
structure NumSt where
  /-- the eight guard records, by step modulo 8 -/
  recs : Tab (Option GuardRec) := []
  /-- steps marked forced-skip whose step close has not run -/
  forced : List Nat := []
  watch : Tab (Option WatchSt) := []
  /-- slots with NUM_WS_ALARM set -/
  alarms : Nat := 0
  /-- loss-scale exponents of the steps that have one, newest first (R115) -/
  les : List (Nat × Nat) := []
  clean : Nat := 0
  /-- the first step bound since the start (R115) -/
  first : Option Nat := none
  /-- the latest step bound to work that has read an exponent (R116) -/
  leRead : Option Nat := none
  verdicts : List Verdict := []
deriving DecidableEq, Repr

/-- A function disabled under R406: draining until no tracker entry remains, and the work ended CANCELLED. -/
structure DisSt where
  on : Bool := false
  draining : Bool := false
  done : Bool := false
  /-- its work has been ended in step 1 of a boundary (R407) -/
  closed : Bool := false
  cancelled : Nat := 0
deriving DecidableEq, Repr

/-! ### Memory tiers, tables, sparse updates (08 to 11) -/

/-- A pending operation on a directory, hot-map or moved-row entry: what was armed, with the word and the origin of the
write that armed it (R185, R214, R216). -/
structure MapOp where
  op : Nat
  heat : Nat
  shadow : Nat
  word : Word
  org : Origin
  /-- the arm bit stands: a later arm that is refused clears it and leaves the operation pending (R185, R220) -/
  armed : Bool := true
deriving DecidableEq, Repr

/-- A row request of a lookup (R181): the place in its list, the part read (0 the table, 1 part A, 2 part B), the
directory index and row, the address it goes to, whether that is a drupelet copy (hot-map index and slot), and what came
back. -/
structure RowReq where
  pos : Nat
  part : Nat
  table : Nat
  row : Nat
  addr : Nat
  drup : Option (Nat × Nat) := none
  /-- module time at which it times out, once it has been issued: until then it waits for a tracker entry and a credit
  (R181, R183, R233, R234) -/
  due : Option Nat := none
  /-- how the request ended, once it has -/
  status : Option Nat := none
  vals : List Val := []
  /-- counted in MEM_HOT_LATE_READ -/
  late : Bool := false
deriving DecidableEq, Repr

/-- A lookup in progress (R179 to R184): the entries snapshotted are those of its table and, for a composed one, of its
parts; `heat` is the heat of its issue. -/
structure Lookup where
  work : Nat
  core : Nat
  picker : Nat
  block : Nat
  heat : Nat
  table : Nat
  entry : Nat
  partA : Option Nat
  entryA : Nat
  partB : Option Nat
  entryB : Nat
  idx : List Nat
  wgt : List Nat
  reqs : List RowReq
  padding : Nat
  /-- positions out of range -/
  oor : List Nat
  /-- bags whose result has been formed -/
  pooled : List (Nat × List Val) := []
  denied : Bool := false
deriving DecidableEq, Repr

/-- A row of a contribution at its sender: what travels, whether its home is on another die, its outcome once it has
one, and whether it has taken effect here. -/
structure ContribRow where
  far : FarRow
  track : Bool
  /-- the table whose norm it feeds when it is sent (R292) -/
  norm : Option Nat := none
  /-- module time at which it times out, once it has been issued (R198, R199, R233, R234) -/
  due : Option Nat := none
  outcome : Option Nat := none
  landed : Bool := false
deriving DecidableEq, Repr

/-- A contribution in progress (R196, R199). -/
structure Contribution where
  work : Nat
  core : Nat
  picker : Nat
  block : Nat
  rows : List ContribRow
  oor : Nat
deriving DecidableEq, Repr

/-- A promoted row's standing (R209 to R211): its entry, the heat it took force at, the latest heats in which a write
landed at its home, what the home read in step 3 of a boundary and has not written to the drupelets yet (heat, status,
bytes), the heat of its last refresh, and the copies (slot * 2 + copy) that are valid. -/
structure HotEntry where
  entry : Nat
  since : Nat
  wrote : List Nat := []
  read : Option (Nat × Nat × List Byte) := none
  done : Option Nat := none
  valid : List Nat := []
deriving DecidableEq, Repr

/-- A moved-row entry (R215 to R218): its 128 bits, the entry it replaces, the directory entry, the old home and the
address of R174 as they stood at the fence, whether the row is still MOVING, whether its copy has left the old home, how
the write of its copy into tier 2 stands, the heat of its fence, whether the move was abandoned and the entry is to revert, and whether it goes once the move has
completed. -/
structure MovedRow where
  entry : Nat
  prev : Option Nat := none
  td : Nat := 0
  old : Nat := 0
  base : Nat := 0
  moving : Bool
  copied : Bool := false
  /-- the write of its copy into tier 2: 1 retained, 2 replayed since, 3 discarded since (R254) -/
  put : Nat := 0
  fence : Nat
  failed : Bool := false
  doomed : Bool := false
deriving DecidableEq, Repr

/-- A request that waits for the end of a row's move (R218): a row of a lookup or of a contribution of this module, a
contribution row of another module, or a read or write packet. -/
inductive MoveHeld where
  | look (work k : Nat)
  | own (work k : Nat)
  | far (src : Nat) (row : FarRow)
  | read (pkt : Packet)
  | write (pkt : Packet)
deriving DecidableEq, Repr

/-- A ledger slot's standing: the last drained step (R164), and the row-state array its latest drain named. -/
structure LedgerSt where
  drained : Option Nat := none
  stateBase : Option Nat := none
deriving DecidableEq, Repr

/-- An apply in progress (R155, R157): its work, block and the live rule as read at issue; for a drain, the entries it
has already met (row and step) and the steps it has counted as suppressed. -/
structure OptWork where
  work : Nat
  core : Nat
  block : Nat
  rule : RuleVals
  met : List (Nat × Nat) := []
  skipped : List Nat := []
  /-- the step whose loss-scale exponent it waited for when it was last tried (R115) -/
  waitsLe : Option Nat := none
  /-- a step close that did not end with OK has freed entries of it: the drain completes with its status (R296) -/
  status : Nat := 0
  /-- heat of its issue (R216) -/
  heat : Nat := 0
deriving DecidableEq, Repr

/-- The kinds of requests that reach a channel of tier 0 or tier 1 (Table 11.3). -/
inductive ReqKind where
  | pickerRow | refresh | homeLookup
  | heatLadle | staging | collective | allGather | denseApply | reservoir
  | add | readClear | hold | claim
  | castCopy | drainWork | tierMove | rowMove | scrub
deriving DecidableEq, Repr

/-- A request that may wait at a channel, by its work and its place in it. -/
inductive ReqId where
  | row (work k : Nat)
  | contrib (work k : Nat)
deriving DecidableEq, Repr

/-- A request in a channel's queue (R232, R234): its kind, the source whose credit it holds (a die, 4 the hub, 5 the
fabric ports), and the lines it touches. -/
structure ChanReq where
  id : ReqId
  kind : ReqKind
  src : Nat
  first : Nat
  count : Nat
deriving DecidableEq, Repr

/-- A channel (R232, R234): its queue in arrival order, the consecutive grants to higher classes that each class has
waited through, and the pooled credits of every source. -/
structure ChanSt where
  queue : List ChanReq := []
  passed : Tab Nat := []
  pooled : Tab Nat := []
  /-- module time since which a credit of a source has been idle: when last all of its credits were in use -/
  idle : Tab Nat := []
deriving DecidableEq, Repr

/-- What the memory side of the module holds beside its registers. -/
structure MemSt where
  /-- directory entries that are valid, as numbers of 512 bits (R173) -/
  dir : Tab (Option Nat) := []
  dirOps : Tab (Option MapOp) := []
  /-- heat of the last operation that superseded a snapshot some lookup held; none where MEM_TD_DRAIN is clear -/
  dirDrain : Tab (Option Nat) := []
  homeMap : Tab Nat := []
  lookups : List Lookup := []
  contribs : List Contribution := []
  hold : List HeldRow := []
  /-- the sketch: (die * 4 + row) * 4096 + column (R207) -/
  sketch : Tab Nat := []
  /-- heat of the last decay -/
  decayed : Option Nat := none
  /-- proposals posted by every die in the heat -/
  proposals : Tab Nat := []
  hot : Tab (Option HotEntry) := []
  hotOps : Tab (Option MapOp) := []
  hotDrain : Tab (Option Nat) := []
  moved : Tab (Option MovedRow) := []
  movedOps : Tab (Option MapOp) := []
  /-- requests held while their row is MOVING, in arrival order, by moved-row index (R218) -/
  moveQueue : List (Nat × MoveHeld) := []
  /-- rows whose move back to the address of R174 has completed: table, row, the home they left and the one they have
  (R216, R217) -/
  forwards : List (Nat × Nat × Nat × Nat) := []
  ledgers : Tab LedgerSt := []
  applies : List OptWork := []
  rules : Tab RuleVals := []
  /-- rule slots armed, with the word and origin that armed them (R169) -/
  ruleArms : List (Nat × Word × Origin) := []
  /-- NORM_SUPPRESSED reports already posted: kind, index and step (R160) -/
  suppressed : List (Nat × Nat × Nat) := []
  /-- outstanding requests of every die's tracker -/
  trk : Tab Nat := []
  /-- requests still open of work that has ended: work, die, and when each times out, with the port it left by
  (R229, R407) -/
  orphans : List (Nat × Nat × List (Nat × Nat)) := []
  /-- channels: 64 of tier 0 of every die, then the 32 of tier 1 -/
  chans : Tab ChanSt := []
deriving DecidableEq, Repr

/-! ### Collectives (14) -/

/-- The notify message a START takes (R283): core, out-channel, sequence number, step and micro-batch bound. -/
structure Notify where
  core : Nat
  chan : Nat
  seq : Nat
  step : Nat
  mb : Nat
deriving DecidableEq, Repr

/-- An accepted START that waits for a place (R281). -/
structure StartReq where
  bucket : Nat
  step : Nat
  notify : Option Notify
  /-- global address of the status record -/
  stat : Option Nat
deriving DecidableEq, Repr

/-- A running instance (R281 to R289): its entry and dimension map as snapshotted, the exchange it waits in, what it
holds by rank, packets not yet used, and how it ended. -/
structure Inst where
  bucket : Nat
  step : Nat
  entry : Nat
  ldim : Nat
  notify : Option Notify
  stat : Option Nat
  startAt : Nat
  /-- module time at which it times out: COL_TMO_MS as it stood at the start (R17, R296) -/
  due : Nat := 0
  /-- chunks by rank: first element and count; ALLTOALL: the counts this module sends -/
  chunks : List (Nat × Nat) := []
  round : Nat := 0
  held : List (Nat × List Byte) := []
  inbox : List CollMsg := []
  /-- START times of the partners heard from -/
  peers : List (Nat × Nat) := []
  /-- ALLTOALL: counts received by rank, with refusals -/
  counts : List (Nat × Nat × Bool) := []
  acc : LongAcc := {}
  nonfinite : Bool := false
  written : Nat := 0
  /-- result writes have been made -/
  wrote : Bool := false
  /-- ALLTOALL: this member refuses its incoming chunks (R289) -/
  refuses : Bool := false
  /-- step close: the sums of the step have been taken and its exchange has begun -/
  begun : Bool := false
  sums : Option CloseSums := none
  /-- step close: the table of each accumulator slot, as the close took them (R292, R293) -/
  names : List (Nat × Nat) := []
  status : Option Nat := none
  partner : Nat := 0
deriving DecidableEq, Repr

/-- What the instances of a step leave for its step close (R293, R295). -/
structure StepAcc where
  step : Nat
  chunk : LongAcc := {}
  nonfinite : Nat := 0
  locals : Tab LongAcc := []
  globals : Tab LongAcc := []
deriving DecidableEq, Repr

/-- How a step close ended (R293): status, the global sum, and the sums of the tables. -/
structure CloseRes where
  step : Nat
  status : Nat
  gnorm2 : Nat
  tables : List (Nat × Nat)
deriving DecidableEq, Repr

/-- How an instance of a bucket ended: bucket, step, status, sum of squares. -/
structure BucketRes where
  bucket : Nat
  step : Nat
  status : Nat
  norm2 : Nat
deriving DecidableEq, Repr

/-- What the collective engine holds beside its registers. -/
structure ColSt where
  /-- installed buckets, as numbers of 512 bits -/
  buckets : Tab (Option Nat) := []
  /-- operations waiting for the boundary, by bucket (the heat of a MapOp is not used) -/
  ops : Tab (Option MapOp) := []
  starts : List StartReq := []
  insts : List Inst := []
  early : List CollMsg := []
  steps : List StepAcc := []
  /-- table norm accumulators: slot * 8 + step modulo 8 -/
  tn : Tab LongAcc := []
  results : List BucketRes := []
  closes : List CloseRes := []
  /-- steps whose step close has taken its record and accumulators -/
  taken : List Nat := []
  /-- layer groups whose next update is the first after a write of COL_GNS_CFG -/
  gnsFresh : Bool := true
deriving DecidableEq, Repr

/-! ### The ingest stream (17) -/

/-- What the hub holds of a producer's lane (R342, R343): its latched overrun, its condition, and what the last
evaluation read: time, free bytes and LH_CONSUME. -/
structure LaneSt where
  overran : Bool := false
  short : Bool := false
  at_ : Nat := 0
  /-- free bytes f_p of R342: negative where more than the data region is in use -/
  free : Int := 0
  /-- the free bytes as registers and records show them: a free value where they are negative (log entry 95) -/
  shown : Nat := 0
  consume : Nat := 0
deriving DecidableEq, Repr

/-- The lanes of the producers, and the module condition of Table 17.3. -/
structure IngSt where
  lanes : Tab LaneSt := []
  full : Bool := false
deriving DecidableEq, Repr

/-! ### The fabric (13) -/

/-- What the hub holds of a fabric port beside its registers (R259, R266). -/
structure PortSt where
  /-- the port has trained since the start -/
  tried : Bool := false
  /-- running training stage; 0 none -/
  stage : Nat := 0
  stageAt : Nat := 0
  downAt : Nat := 0
  rtt : Nat := 0
  /-- replays since the last acknowledgement -/
  replays : Nat := 0
  txSeq : Nat := 0
  rxSeq : Nat := 0
  /-- flits sent and not acknowledged, oldest first; the last flit of a packet carries it -/
  unacked : List (Nat × Option Packet) := []
  /-- FAB_RETRY_US as each of them took it when it was sent, in the same order (R17) -/
  limits : List Nat := []
  /-- module time at which the oldest of them is replayed unless an acknowledgement comes (R266) -/
  ackDue : Nat := 0
  /-- the last flit acknowledged -/
  lastAck : Nat := 65535
  /-- packets waiting for room in the retry buffer, in the order in which their lanes are served (R267) -/
  waiting : List Packet := []
deriving DecidableEq, Repr

/-- The flow of packets from one module (R268): the next FP_SEQ to deliver, packets held behind a gap in order, each with
the time at which the gap before it, if there is one, closes by itself, the image of the channel message in progress
(R265), and the packets skipped since its last one. -/
structure FlowSt where
  next : Nat := 0
  held : List (Nat × Packet) := []
  image : Option (List Byte) := none
  skipped : Nat := 0
deriving DecidableEq, Repr

/-- The fabric. -/
structure FabSt where
  ports : Tab PortSt := []
  /-- FAB_CTRL as every port took it at its latest training (R276) -/
  ctrl : Tab (Option Word) := []
  flows : Tab FlowSt := []
  /-- ports UP of every module, as the route table in force takes them -/
  topo : Tab Nat := []
  /-- latest notice number of every module -/
  seen : Tab Nat := []
  /-- ports UP of modules whose added links wait for a boundary (R270) -/
  adds : Tab (Option Nat) := []
  /-- notices sent so far; the number tells one notice from another and goes on over a start (R269) -/
  noticeNo : Nat := 0
  /-- armed logical dimension map: heat and map (R274) -/
  ldim : Option (Nat × Nat) := none
deriving DecidableEq, Repr

/-! ### Power (19) -/

/-- What the power controller and the broker hold beside their registers. -/
structure PwrSt where
  /-- phase of every cluster in the heat in progress, plus one; 0 where it did not take part in step 6 (R367) -/
  phase : Tab Nat := []
  /-- step each die's clock runs at: the step in force, or one above it until its voltage is reached (R366) -/
  clock : Tab Nat := []
  /-- learned values are to be reset at the next boundary -/
  clear : Bool := false
  /-- dies whose release was requested (R371) -/
  release : Tab Bool := []
  /-- the hub junction is above its warning level -/
  hubHot : Bool := false
  /-- the mean of the last heat exceeded the cap: one step more at this step 2 (R363) -/
  aboveCap : Bool := false
  /-- tokens on their way that are credited at the next step 2 -/
  credit : Nat := 0
  /-- heat of an armed token reset -/
  resetAt : Option Nat := none
  /-- a partition or a lost member of the job: tokens freeze at the next boundary (R377) -/
  cut : Bool := false
  /-- heats of the period in which some cluster missed, lags of instances ended in it in microseconds, its highest
  predicted power in units of 1/2560 W, and whether it was thermal-limited (R373) -/
  missHeats : Nat := 0
  lag : Nat := 0
  peak : Nat := 0
  limited : Bool := false
  /-- what was sent at the last broker boundary, to which partner, and whether the exchange is still open -/
  sent : Option BrokerMsg := none
  partner : Nat := 0
  waiting : Bool := false
deriving DecidableEq, Repr

/-! ### Casts (20) -/

/-- An object of a cast: its index, address, size in 64-byte units and tier, its bytes as copied, and its status. -/
structure CastObj where
  index : Nat
  addr : Nat
  size : Nat
  tier : Nat
  bytes : List Byte := []
  /-- rows of the ordered hold, for the hold object -/
  rows : List HeldRow := []
  status : Nat := 0
deriving DecidableEq, Repr

/-- A cast from its arm to its end. -/
structure CastRun where
  number : Nat
  heat : Nat
  set : Nat
  step : Nat
  mb : Nat
  paired : Bool := false
  /-- stated stop, microseconds, and the heat of the earliest resume boundary -/
  stop : Nat := 0
  resume : Nat := 0
  /-- module time of tick H, and what the record takes at it -/
  tick : Nat := 0
  producers : Nat := 0
  positions : List Nat := []
  objs : List CastObj := []
  late : Bool := false
  /-- the exponent of the restart step, the clean-step count and the seed that the record takes with the copy -/
  le : Nat := 0
  clean : Nat := 0
  seed : Nat := 0
  /-- a session opened with HOST_EPOCH_CHANGED since draining began (R392) -/
  epochLost : Bool := false
  /-- how the buddy part ended, while the host part waits for a session (R392) -/
  buddy : Option Nat := none
deriving DecidableEq, Repr

/-- A restore in progress (R394, R395): cast number, module, source and replica codes, range, and the stated step,
micro-batch, producers and positions. -/
structure RestoreRun where
  number : Nat
  module : Nat
  src : Nat
  repl : Nat
  first : Nat
  count : Nat
  step : Nat
  mb : Nat
  mask : Nat
  pos : List Nat
  /-- CAST_RS_T2: where module x's host region is mapped (Table 20.4) -/
  t2 : Nat := 0
deriving DecidableEq, Repr

/-- What the cast machinery holds beside its registers. -/
structure CastSt where
  run : Option CastRun := none
  /-- clusters take no part in step 6 (R387): module time of tick H and heat of the earliest resume boundary -/
  stopped : Option (Nat × Nat) := none
  /-- highest number armed -/
  top : Nat := 0
  restoring : Option RestoreRun := none
  /-- record sent to the partner plane and not yet compared, with the time by which the
  partner's is to arrive (R400) -/
  compare : List (List Byte × Nat) := []
  /-- a record of the partner plane that arrived before this module's own was sent -/
  partner : Option (List Byte) := none
deriving DecidableEq, Repr

/-- The module without its byte memories and without the queue. -/
structure Mod where
  /-- registers of BAR0, by offset; an unlisted one holds its reset value -/
  regs : Tab Word := []
  /-- _HI halves latched by a read of their _LO register (R36), by offset of the _HI register -/
  latch : Tab (Option Word) := []
  /-- 64-bit values taken by the write of a _HI register (R316), by offset of the _LO register -/
  taken : Tab Nat := []
  /-- set-up writes held for the boundary (R16): offset, mask of the bits held, value -/
  heldWrites : List (Nat × Word × Word) := []
  /-- position in the stream of free values (values the spec leaves open) -/
  free : Nat := 0
  /-- everything sent or answered, oldest first -/
  out : List Out := []
  /-- events waiting for step 4 -/
  events : List EvRec := []
  /-- completions waiting for step 4 -/
  comps : List CompRec := []
  /-- journal entries made and not yet in the store, oldest first (R442) -/
  jnlPend : List JEntry := []
  heat : HeatSt := {}
  clusters : Tab ClusterSt := []
  cores : Tab CoreSt := []
  dieLost : Tab Bool := []
  msgs : List SentMsg := []
  works : List Work := []
  /-- the next number for a piece of work, a message or a request -/
  nextId : Nat := 1
  nv : NvSt := {}
  boot : BootSt := {}
  sec : SecSt := {}
  staging : Option Staging := none
  maint : Option Maint := none
  hub : HubSt := {}
  /-- accumulator banks (R73): cell ((cluster * 2 + bank) * 256 + row) * 512 + column -/
  banks : Tab Word := []
  arrays : Tab ArraySt := []
  num : NumSt := {}
  /-- disabled functions, by selection (R406) -/
  disabled : Tab DisSt := []
  /-- released (1) and poisoned (2) lines of tiers 0 and 1, by cell number divided by 64 (R224, R230) -/
  badLines : Tab Nat := []
  tables : MemSt := {}
  col : ColSt := {}
  ing : IngSt := {}
  fab : FabSt := {}
  pwr : PwrSt := {}
  cast : CastSt := {}
deriving DecidableEq, Repr

/-- The memory of the module: bytes by local cell number (see `cellOf`), in canonical form; an unlisted cell reads 0,
as bring-up initialises tiers 0 and 1 and every SRAM to zero (R416, R417). -/
abbrev Memory := Tab Byte

/-- The machine: the commands waiting, first in first out, the byte memories, and the rest of the module. -/
structure State where
  pending : List Instr := []
  mem : Memory := []
  mod : Mod := {}
deriving DecidableEq, Repr

/-- No command ends in a fault: what fails in this hardware ends with a status code, an event or a journal entry,
and the module goes on (R227, R334). -/
inductive Fault
deriving DecidableEq, Repr

/-- Why a command has no next state. -/
inductive Refusal where
  /-- raised by `exec` alone, for a command whose meaning is not modelled; safe: it says nothing of the hardware -/
  | notModelled (mnemonic : String)
deriving DecidableEq, Repr

/-- The module right after a power-on reset: every rail is up, stage 1 of the bring-up begins, module time is 0 (R412),
every register holds its reset value (ID_BOOT_STAGE 1) and the queue is empty. -/
def State.reset : State := {}

end Sys2Proof.Machine
end

