-- ==== Sys2Proof/Machine/Ops.lean ====
section
/-!
DEFINITION. The named operations over registers, records and memory that every meaning is written in: reading and
writing a register or a field, counting, stamps, posting events and completions, the change journal, writes toward the
host, and cells of memory.
-/

namespace Sys2Proof.Machine

open Sys2Proof

/-! ### Status codes (Table 16.11) -/

def stOk : Nat := 0x00
def stCancelled : Nat := 0x01
def stBusyRefused : Nat := 0x02
def stTierTimeout : Nat := 0x03
def stTierError : Nat := 0x04
def stNonfiniteSkipped : Nat := 0x05
def stNormLimit : Nat := 0x06
def stVersionStale : Nat := 0x07
def stRouteLost : Nat := 0x08
def stUnitLost : Nat := 0x09
def stReplayed : Nat := 0x0A
def stPositionMismatch : Nat := 0x0B
def stAccessDenied : Nat := 0x0C
def stDigestMismatch : Nat := 0x0D
def stHostEpochChanged : Nat := 0x0E
def stMalformed : Nat := 0x0F

/-! ### The states of a fabric port (R259). -/

def portDisabled : Nat := 0
def portDown : Nat := 1
def portTraining : Nat := 2
def portUp : Nat := 3
def portFault : Nat := 4

/-! ### Small helpers -/

/-- Bits `hi` down to `lo` of `old` replaced by the low bits of `v`. -/
def insBits (old : Nat) (hi lo v : Nat) : Nat :=
  old / 2 ^ (hi + 1) * 2 ^ (hi + 1) + v % 2 ^ (hi + 1 - lo) * 2 ^ lo + old % 2 ^ lo

/-- `k` bytes of a number, least significant first (R9). -/
def leBytes : Nat → Nat → List Byte
  | 0, _ => []
  | k + 1, n => BitVec.ofNat 8 n :: leBytes k (n / 256)

/-- The number held in little-endian bytes (R9). -/
def leNat : List Byte → Nat
  | [] => 0
  | b :: bs => b.toNat + 256 * leNat bs

/-- A list of bytes brought to a length: cut, or filled with zeros. -/
def padBytes (k : Nat) (bs : List Byte) : List Byte := bs.take k ++ List.replicate (k - bs.length) 0

/-- A two's complement number of `w` bits. -/
def twos (w : Nat) (i : Int) : Nat := (i % (2 ^ w : Int)).toNat

/-- Bits `hi` down to `lo` of a word. -/
def wordBits (v : Word) (hi lo : Nat) : Nat := bitsOf v.toNat hi lo

/-- Whether a number is a power of two. -/
def isPow2 (n : Nat) : Bool := n != 0 && 2 ^ n.log2 == n

/-- Tick time of heat `n` under a base (R24). -/
def tickAt (b : HeatBase) (n : Nat) : Nat := b.b + (n + 2 ^ 48 - b.n) % 2 ^ 48 * b.p * 1000

/-- The floor of a number's binary logarithm; 0 for 0. -/
def log2n (n : Nat) : Nat := n.log2

namespace Mod

/-! ### Registers (R6 to R8) -/

/-- What the register at an offset holds. -/
def rd (m : Mod) (a : Nat) : Word := tabGet regReset m.regs a

/-- Put a value into the register at an offset. -/
def wr (m : Mod) (a : Nat) (v : Word) : Mod := { m with regs := tabPut regReset m.regs a v }

/-- What a register holds, as a number. -/
def rdN (m : Mod) (a : Nat) : Nat := (m.rd a).toNat

/-- Put a number into a register. -/
def wrN (m : Mod) (a v : Nat) : Mod := m.wr a (BitVec.ofNat 32 v)

/-- A field of a register. -/
def fget (m : Mod) (f : Field) : Nat := bitsOf (m.rdN f.reg) f.hi f.lo

/-- Put a number into a field of a register. -/
def fset (m : Mod) (f : Field) (v : Nat) : Mod := m.wrN f.reg (insBits (m.rdN f.reg) f.hi f.lo v)

/-- A one-bit field. -/
def flag (m : Mod) (f : Field) : Bool := m.fget f == 1

/-- Put a truth value into a one-bit field. -/
def fput (m : Mod) (f : Field) (b : Bool) : Mod := m.fset f (if b then 1 else 0)

/-- Apply a change only where a condition holds. -/
def when (m : Mod) (c : Bool) (f : Mod → Mod) : Mod := if c then f m else m

/-- Add to a counter that saturates at its maximum (R36). -/
def addSat (m : Mod) (a k : Nat) : Mod := m.wrN a (min (m.rdN a + k) 0xFFFFFFFF)

/-- Count one. -/
def inc (m : Mod) (a : Nat) : Mod := m.addSat a 1

/-- Count one in a field that saturates. -/
def finc (m : Mod) (f : Field) : Mod := m.fset f (min (m.fget f + 1) (2 ^ (f.hi + 1 - f.lo) - 1))

/-- Add to a counter held modulo 2^32. -/
def addMod (m : Mod) (a k : Nat) : Mod := m.wrN a (m.rdN a + k)

/-- A 64-bit value held in a _LO register and the _HI register after it. -/
def rd64 (m : Mod) (lo : Nat) : Nat := m.rdN lo + 2 ^ 32 * m.rdN (lo + 4)

/-- Put a 64-bit value into a _LO register and the _HI register after it. -/
def wr64 (m : Mod) (lo v : Nat) : Mod := (m.wrN lo (v % 2 ^ 32)).wrN (lo + 4) (v / 2 ^ 32)

/-- Add to a 64-bit counter that saturates. -/
def addSat64 (m : Mod) (lo k : Nat) : Mod := m.wr64 lo (min (m.rd64 lo + k) (2 ^ 64 - 1))

/-- The 64-bit value taken by the last write of the _HI register of a pair (R316). -/
def base64 (m : Mod) (lo : Nat) : Nat := tabGet (fun _ => 0) m.taken lo

/-- Take a 64-bit value. -/
def setBase64 (m : Mod) (lo v : Nat) : Mod := { m with taken := tabPut (fun _ => 0) m.taken lo v }

/-! ### State of the module in words -/

/-- Stage 8 has ended (ID_READY). -/
def ready (m : Mod) : Bool := m.flag Fld.ID_READY

/-- SETUP_LOCK is set (R423). -/
def locked (m : Mod) : Bool := m.flag Fld.ID_SETUP_LOCK

/-- The rate-and-capacity profile is in force (R4, MEM_RC_PROFILE). -/
def capacityProfile (m : Mod) : Bool := m.flag Fld.MEM_RC_PROFILE

/-- This module's number (R463). -/
def self (m : Mod) : Nat := bitsOf (m.rdN Reg.FAB_SELF) 12 0

/-- The chip number of a die of this module (R239). -/
def chip (m : Mod) (die : Nat) : Nat := 4 * m.self + die

/-- Module time, ns. -/
def now (m : Mod) : Nat := m.heat.time.toNat

/-- The heat number. -/
def heatNo (m : Mod) : Nat := m.heat.count.toNat

/-- The module is detached from its host (R348). -/
def detached (m : Mod) : Bool := m.flag Fld.HIF_DETACHED

/-- FAB_P_STATE of a port. -/
def portState (m : Mod) (p : Nat) : Nat := m.fget (Fld.FAB_P_STATE p)

/-- Module time has reached a moment. -/
def passTo (m : Mod) (t : Nat) : Mod := { m with heat := { m.heat with time := BitVec.ofNat 64 (max m.now t) } }

/-- A request-level timer that is due at `t` runs out: the command is that moment, so module time is then at or past it
(R35; DEDUCED, log entry 113). One due after the next tick cannot have run out before that tick. -/
def expire (m : Mod) (t : Nat) (f : Mod → Mod) : Mod :=
  if !m.flag Fld.HEAT_RUNNING || decide (t ≤ tickAt m.heat.base (m.heatNo + 1)) then f (m.passTo t) else m

/-- A unit-level timeout may act: at a tick, and at any time on a module without ticks (R35; DEDUCED, log entry 113). -/
def atTick (m : Mod) : Bool := !m.flag Fld.HEAT_RUNNING || decide (m.now = m.heat.tickTime)

/-- A free value, and the stream moved on by one (log entry 4). -/
def takeFree (m : Mod) : Nat × Mod := ((Config.freeWord m.free).toNat, { m with free := m.free + 1 })

/-! ### Units -/

def clusterSt (m : Mod) (g : Nat) : ClusterSt := tabGet (fun _ => {}) m.clusters g
def setCluster (m : Mod) (g : Nat) (c : ClusterSt) : Mod := { m with clusters := tabPut (fun _ => {}) m.clusters g c }
def modCluster (m : Mod) (g : Nat) (f : ClusterSt → ClusterSt) : Mod := m.setCluster g (f (m.clusterSt g))
def coreSt (m : Mod) (n : Nat) : CoreSt := tabGet (fun _ => {}) m.cores n
def setCore (m : Mod) (n : Nat) (c : CoreSt) : Mod := { m with cores := tabPut (fun _ => {}) m.cores n c }
def modCore (m : Mod) (n : Nat) (f : CoreSt → CoreSt) : Mod := m.setCore n (f (m.coreSt n))
def dieIsLost (m : Mod) (d : Nat) : Bool := tabGet (fun _ => false) m.dieLost d

/-- CORE_STATE of Table 2.17. -/
def coreState (m : Mod) (n : Nat) : Nat := m.fget (Fld.CORE_STATE n)

/-- A die is halted (R370). -/
def dieHalted (m : Mod) (d : Nat) : Bool := m.flag (Fld.PWR_D_HALTED d)

/-! ### Events, completions and the journal (16, 22) -/

/-- Post an event, to be written to its rings in step 4 (R328, R306); before ready no event is posted (R413). -/
def post (m : Mod) (code chip cluster core : Nat) (data : List Byte) : Mod :=
  if m.ready then
    { m with events := m.events ++ [⟨m.now, m.heatNo, code, chip, cluster, core, padBytes 14 data⟩] }
  else m

/-- A module-level event: the chip of die 0 and cluster 15. -/
def postModule (m : Mod) (code : Nat) (data : List Byte) : Mod := m.post code (m.chip 0) 15 0 data

/-- A die-level event. -/
def postDie (m : Mod) (code die : Nat) (data : List Byte) : Mod := m.post code (m.chip die) 15 0 data

/-- A cluster-level event. -/
def postCluster (m : Mod) (code g : Nat) (data : List Byte) : Mod := m.post code (m.chip (g / 12)) (g % 12) 0 data

/-- A core-level event. -/
def postCore (m : Mod) (code n : Nat) (data : List Byte) : Mod :=
  m.post code (m.chip (n / 96)) (n / 8 % 12) (n % 8) data

/-- Enter an entry in the change journal (R441); before the module first takes part in a heat JE_HEAT is all ones. -/
def journal (m : Mod) (status kind origin target old new who : Nat) : Mod :=
  { m with jnlPend := m.jnlPend ++
      [⟨m.now, if m.heat.everRan then m.heatNo else 2 ^ 48 - 1, status, kind, origin, target, old, new, who⟩] }

/-- JE_ORIGIN's low half and JE_WHO of a register write's origin: the session number or the endpoint. -/
def originCode (m : Mod) : Origin → Nat × Nat
  | .host => (1, m.rdN Reg.HIF_SESSION)
  | .mgmt e => (2, e)

/-- Journal a register write, applied (status OK) or dropped. -/
def journalWrite (m : Mod) (status off : Nat) (old new : Word) (o : Origin) : Mod :=
  m.journal status 0 (m.originCode o).1 off old.toNat new.toNat (m.originCode o).2

/-- Journal an action of the firmware or the ROM (Table 22.5); origin 4 firmware, 5 ROM. -/
def journalAction (m : Mod) (status origin action old new : Nat) : Mod := m.journal status 2 origin action old new 0

/-- Something leaves the module. -/
def emit (m : Mod) (o : Out) : Mod := { m with out := m.out ++ [o] }

/-! ### Work -/

/-- A fresh number for a piece of work, a message or a request. -/
def fresh (m : Mod) : Nat × Mod := (m.nextId, { m with nextId := m.nextId + 1 })

def findWork (m : Mod) (id : Nat) : Option Work := m.works.find? (·.id == id)

/-- A piece of work is no longer outstanding. -/
def dropWork (m : Mod) (id : Nat) : Mod := { m with works := m.works.filter (·.id != id) }

/-- Update a piece of work. -/
def modWork (m : Mod) (id : Nat) (f : Work → Work) : Mod :=
  { m with works := m.works.map (fun w => if w.id == id then f w else w) }

/-- The descriptor of a submission ring completes: its record waits for the next step 4 (R327). -/
def complete (m : Mod) (ring index status err : Nat) (tag kind : Nat) : Mod :=
  { m with
    comps := m.comps ++ [⟨m.now, m.heatNo, status, err, tag, index, ring, kind⟩]
    hub := { m.hub with rings := m.hub.rings.filter (fun w => !(w.ring == ring && w.index == index)) } }

end Mod

/-! ### State -/

namespace State

/-- A change of everything but the queue and the memories. -/
def onMod (s : State) (f : Mod → Mod) : State := { s with mod := f s.mod }

end State

/-- The outcome of a command that changes the module outside its memories. -/
def nextMod (s : State) (f : Mod → Mod) : Host.Outcome State Fault Refusal := .next (s.onMod f)

/-- The outcome of a command that changes the memories and the rest of the module. -/
def nextMem (s : State) (f : Memory → Mod → Memory × Mod) : Host.Outcome State Fault Refusal :=
  .next { s with mem := (f s.mem s.mod).1, mod := (f s.mem s.mod).2 }

end Sys2Proof.Machine
end

