-- ==== Sys2Proof/Machine/Float.lean ====
section
/-!
DEFINITION. The number formats (04_number_formats.md): exact values, decoding every element format, and rounding an
exact value into a target (R88 to R93, R97 to R101). Values are exact: a finite one is a sign and a natural number
times a power of two, so no arithmetic below loses anything before its one rounding.
-/

namespace Sys2Proof.Machine

open Sys2Proof

/-- A float format: fraction bits, exponent bits, bias, and whether it has infinities (Table 4.1, Table 4.2). -/
structure FloatFmt where
  frac : Nat
  exp : Nat
  bias : Nat
  infs : Bool
deriving DecidableEq, Repr

def fmtF32 : FloatFmt := ⟨23, 8, 127, true⟩
def fmtBf16 : FloatFmt := ⟨7, 8, 127, true⟩
def fmtF16 : FloatFmt := ⟨10, 5, 15, true⟩
def fmtE5M2 : FloatFmt := ⟨2, 5, 15, true⟩
def fmtE4M3 : FloatFmt := ⟨3, 4, 7, false⟩
def fmtE2M1 : FloatFmt := ⟨1, 2, 1, false⟩

/-- The float format of a format code, where it is one. -/
def floatFmt (code : Nat) : Option FloatFmt :=
  match code with
  | 1 => some fmtF32
  | 2 => some fmtBf16
  | 3 => some fmtF16
  | 4 => some fmtE5M2
  | 5 => some fmtE4M3
  | 6 => some fmtE2M1
  | _ => none

/-- Bits of an element of a format code: CB formats are counted by their narrow elements. -/
def elemBits (code : Nat) : Nat :=
  match code with
  | 1 => 32
  | 2 => 16
  | 3 => 16
  | 4 => 8
  | 5 => 8
  | 6 => 4
  | 7 => 8
  | 8 => 4
  | 9 => 8
  | 10 => 4
  | _ => 8

def isCb (code : Nat) : Bool := code == 9 || code == 10
def isInt (code : Nat) : Bool := code == 7 || code == 8

/-- Bytes of `n` elements of a format code laid end to end; a CB row is a whole number of blocks (R94). -/
def rowBytes (code n : Nat) : Nat :=
  if code = 9 then (n + 31) / 32 * 48
  else if code = 10 then (n + 31) / 32 * 24
  else (n * elemBits code + 7) / 8

/-! ### Decoding -/

/-- Bits of an element of a float format. -/
def fmtBits (f : FloatFmt) : Nat := 1 + f.exp + f.frac

/-- The value of a code of a float format (R89, Table 4.2). -/
def decodeFloat (f : FloatFmt) (c : Nat) : Val :=
  let neg := bitOf c (f.exp + f.frac)
  let x := bitsOf c (f.exp + f.frac - 1) f.frac
  let fr := c % 2 ^ f.frac
  let top := 2 ^ f.exp - 1
  if f.infs ∧ x = top then (if fr = 0 then .inf neg else .nan)
  else if f = fmtE4M3 ∧ x = top ∧ fr = 7 then .nan
  else if x = 0 then .fin neg fr (1 - (f.bias : Int) - f.frac)
  else .fin neg (fr + 2 ^ f.frac) ((x : Int) - f.bias - f.frac)

/-- A two's complement number of `w` bits. -/
def signedOf (w n : Nat) : Int := if n % 2 ^ w < 2 ^ (w - 1) then (n % 2 ^ w : Int) else (n % 2 ^ w : Int) - 2 ^ w

def valInt (i : Int) : Val := .fin (decide (i < 0)) i.natAbs 0

/-- The value of an element of a scalar format; `z` is the zero point of an integer (R91). -/
def decodeElem (code : Nat) (z : Int) (c : Nat) : Val :=
  match floatFmt code with
  | some f => decodeFloat f c
  | none => if code = 7 then valInt (signedOf 8 c - z) else valInt (signedOf 4 c - z)

/-! ### Exact arithmetic -/

/-- Drop trailing zero bits of a significand, at most `k` of them. -/
def normBits : Nat → Nat → Int → Nat × Int
  | 0, m, e => (m, e)
  | k + 1, m, e => if m % 2 = 0 ∧ m ≠ 0 then normBits k (m / 2) (e + 1) else (m, e)

def Val.isNan : Val → Bool
  | .nan => true
  | _ => false

def Val.isFinite : Val → Bool
  | .fin _ _ _ => true
  | _ => false

def Val.isZero : Val → Bool
  | .fin _ m _ => m == 0
  | _ => false

def Val.negative : Val → Bool
  | .nan => false
  | .inf s => s
  | .fin s _ _ => s

def Val.neg : Val → Val
  | .nan => .nan
  | .inf s => .inf (!s)
  | .fin s m e => .fin (!s) m e

def Val.abs : Val → Val
  | .nan => .nan
  | .inf _ => .inf false
  | .fin _ m e => .fin false m e

/-- The signed integer a finite value is of 2^e, for e at or below its own exponent. -/
def scaledTo (s : Bool) (m : Nat) (e e0 : Int) : Int :=
  let k := (m : Int) * 2 ^ (e - e0).toNat
  if s then - k else k

/-- Exact sum; a zero sum of unlike signs is positive, as nearest-even gives it. -/
def Val.add : Val → Val → Val
  | .nan, _ => .nan
  | _, .nan => .nan
  | .inf s, .inf t => if s = t then .inf s else .nan
  | .inf s, .fin _ _ _ => .inf s
  | .fin _ _ _, .inf t => .inf t
  | .fin s m e, .fin t k d =>
    let e0 := min e d
    let x := scaledTo s m e e0 + scaledTo t k d e0
    if x = 0 then .fin (s && t) 0 0 else .fin (decide (x < 0)) x.natAbs e0

def Val.mul : Val → Val → Val
  | .nan, _ => .nan
  | _, .nan => .nan
  | .inf s, .inf t => .inf (s != t)
  | .inf s, .fin t k _ => if k = 0 then .nan else .inf (s != t)
  | .fin s m _, .inf t => if m = 0 then .nan else .inf (s != t)
  | .fin s m e, .fin t k d => .fin (s != t) (m * k) (e + d)

/-- Order of two values that are not NaN: zeros are equal whatever their sign. -/
def Val.lt : Val → Val → Bool
  | .nan, _ => false
  | _, .nan => false
  | .inf s, .inf t => s && !t
  | .inf s, .fin _ _ _ => s
  | .fin _ _ _, .inf t => !t
  | .fin s m e, .fin t k d =>
    let e0 := min e d
    decide (scaledTo s m e e0 < scaledTo t k d e0)

def Val.eq (a b : Val) : Bool := !a.isNan && !b.isNan && !a.lt b && !b.lt a
def Val.le (a b : Val) : Bool := a.lt b || a.eq b

/-! ### Rounding (R99, R100) -/

/-- How a conversion rounds: nearest-even, toward zero, or stochastic under a draw. -/
inductive Rounding where
  | nearest
  | zero
  | stochastic (r : Nat)
deriving DecidableEq, Repr

/-- Round m * 2^(-s) to an integer, the fraction choosing between it and the next (R99, R100). -/
def roundShift (mode : Rounding) (m s : Nat) : Nat :=
  let lo := m / 2 ^ s
  let rem := m % 2 ^ s
  if rem = 0 then lo
  else
    match mode with
    | .nearest => if 2 * rem < 2 ^ s then lo else if 2 ^ s < 2 * rem then lo + 1 else if lo % 2 = 0 then lo else lo + 1
    | .zero => lo
    | .stochastic r => if 2 ^ 32 ≤ rem * 2 ^ 32 / 2 ^ s + r then lo + 1 else lo

/-- Round m * 2^e to a multiple k of 2^q. -/
def roundAt (mode : Rounding) (m : Nat) (e q : Int) : Nat :=
  if q ≤ e then m * 2 ^ (e - q).toNat else roundShift mode m (q - e).toNat

/-- Exponent of the leading bit of m * 2^e. -/
def topExp (m : Nat) (e : Int) : Int := (m.log2 : Int) + e

/-- Largest exponent of a finite value of a format. -/
def fmtEmax (f : FloatFmt) : Int :=
  if f.infs then (2 ^ f.exp - 2 : Int) - f.bias else (2 ^ f.exp - 1 : Int) - f.bias

/-- The code of the largest finite value, without its sign (Table 4.2). -/
def fmtMaxCode (f : FloatFmt) : Nat :=
  if f.infs then (2 ^ f.exp - 2) * 2 ^ f.frac + (2 ^ f.frac - 1)
  else if f = fmtE4M3 then 0x7E else 7

/-- The largest finite value. -/
def fmtMax (f : FloatFmt) : Val := decodeFloat f (fmtMaxCode f)

def signBit (f : FloatFmt) (neg : Bool) : Nat := if neg then 2 ^ (f.exp + f.frac) else 0

/-- The NaN written (Table 4.2): E2M1 has none, and a NaN becomes 0. -/
def nanCode (f : FloatFmt) : Nat :=
  if f.infs then (2 ^ f.exp - 1) * 2 ^ f.frac + 2 ^ (f.frac - 1)
  else if f = fmtE4M3 then 0x7F else 0

/-- The code of k * 2^q, k at most 2^(frac + 1), for the quantum q its rounding used. -/
def packCode (f : FloatFmt) (k : Nat) (q : Int) : Nat :=
  if k < 2 ^ f.frac then k
  else (q + f.frac + f.bias).toNat * 2 ^ f.frac + (k - 2 ^ f.frac)

/-- What a conversion did beside its code: nothing, an infinity or NaN written from a finite source, a saturation, a
clamp, or a NaN become a number (Table 4.8); the units count these (R99). -/
inductive ConvNote where
  | none
  | saturated
  | nanToNumber
deriving DecidableEq, Repr

/-- Convert an exact value to a float format (R99, Table 4.8). -/
def encodeFloat (f : FloatFmt) (mode : Rounding) (v : Val) : Nat × ConvNote :=
  match v with
  | .nan => (nanCode f, if f = fmtE2M1 then .nanToNumber else .none)
  | .inf s => if f.infs then (signBit f s + (2 ^ f.exp - 1) * 2 ^ f.frac, .none)
      else (signBit f s + fmtMaxCode f, .saturated)
  | .fin s m e =>
    if m = 0 then (signBit f s, .none)
    else
      let beyond := (fmtMax f).lt (.fin false m e)
      if !f.infs && beyond then (signBit f s + fmtMaxCode f, .saturated)
      else if fmtEmax f < topExp m e then
        match mode with
        | .zero => (signBit f s + fmtMaxCode f, .none)
        | _ => (signBit f s + (2 ^ f.exp - 1) * 2 ^ f.frac, .none)
      else
        let q := max (topExp m e) (1 - (f.bias : Int)) - f.frac
        (signBit f s + packCode f (roundAt mode m e q) q, .none)

/-- Round a value to an integer. -/
def roundInt (mode : Rounding) (s : Bool) (m : Nat) (e : Int) : Int :=
  let k := roundAt mode m e 0
  if s then - (k : Int) else k

/-- Convert to INT8 or INT4 with a zero point: n + z, clamped (R101, Table 4.8). -/
def encodeInt (w : Nat) (z : Int) (mode : Rounding) (v : Val) : Nat × ConvNote :=
  let lo : Int := - 2 ^ (w - 1)
  let hi : Int := 2 ^ (w - 1) - 1
  match v with
  | .nan => (twos w z, .nanToNumber)
  | .inf s => (twos w (if s then lo else hi), .saturated)
  | .fin s m e =>
    let q := roundInt mode s m e + z
    if q < lo then (twos w lo, .saturated) else if hi < q then (twos w hi, .saturated) else (twos w q, .none)

/-- Convert to a scalar format code. -/
def encodeElem (code : Nat) (z : Int) (mode : Rounding) (v : Val) : Nat × ConvNote :=
  match floatFmt code with
  | some f => encodeFloat f mode v
  | none => if code = 7 then encodeInt 8 z mode v else encodeInt 4 z mode v

/-! ### binary32 -/

def f32Of (c : Nat) : Val := decodeFloat fmtF32 c
def f32Enc (v : Val) : Nat := (encodeFloat fmtF32 .nearest v).1

/-- A value rounded to binary32, nearest-even. -/
def f32Round (v : Val) : Val := f32Of (f32Enc v)

def f32Add (a b : Val) : Val := f32Round (a.add b)
def f32Sub (a b : Val) : Val := f32Round (a.add b.neg)
def f32Mul (a b : Val) : Val := f32Round (a.mul b)
def f32Fma (a b c : Val) : Val := f32Round ((a.mul b).add c)

/-- Quotient rounded once: the exact ratio is carried to 80 bits below its leading bit with a sticky bit, which decides
nearest-even at 24 bits as the exact ratio would. -/
def ratioVal (neg : Bool) (n d : Nat) (e : Int) : Val :=
  if n = 0 then .fin neg 0 0
  else
    let s := 200 + d.log2
    let q := n * 2 ^ s / d
    let r := n * 2 ^ s % d
    .fin neg (2 * q + (if r = 0 then 0 else 1)) (e - s - 1)

def f32Div : Val → Val → Val
  | .nan, _ => .nan
  | _, .nan => .nan
  | .inf _, .inf _ => .nan
  | .inf s, .fin t _ _ => .inf (s != t)
  | .fin s _ _, .inf t => .fin (s != t) 0 0
  | .fin s m e, .fin t k d =>
    if k = 0 then (if m = 0 then .nan else .inf (s != t))
    else f32Round (ratioVal (s != t) m k (e - d))

/-- Square root rounded once, by an integer root with a sticky bit. -/
def sqrtVal (m : Nat) (e : Int) : Val :=
  let odd := e % 2 ≠ 0
  let m' := if odd then 2 * m else m
  let e' := if odd then e - 1 else e
  let big := m' * 4 ^ 120
  let r := Nat.sqrt big
  .fin false (2 * r + (if r * r = big then 0 else 1)) (e' / 2 - 120 - 1)

def f32Sqrt : Val → Val
  | .nan => .nan
  | .inf s => if s then .nan else .inf false
  | .fin s m e => if m = 0 then .fin s 0 0 else if s then .nan else f32Round (sqrtVal m e)

def valOne : Val := .fin false 1 0
def valZero : Val := .fin false 0 0

/-! ### Conversion specifiers (Table 4.6) -/

def cvPurpose (c : Nat) : Nat := bitsOf c 31 16
def cvZp (c : Nat) : Int := signedOf 8 (bitsOf c 15 8)
def cvFit (c : Nat) : Bool := bitOf c 7
def cvRound (c : Nat) : Nat := bitsOf c 5 4
def cvFmt (c : Nat) : Nat := bitsOf c 3 0

/-- A specifier passes every check of Table 4.6. -/
def cvOk (c : Nat) : Bool :=
  decide (1 ≤ cvFmt c ∧ cvFmt c ≤ 10) && cvRound c != 3 && !bitOf c 6 && (cvRound c == 2 || cvPurpose c == 0) &&
    (isInt (cvFmt c) || bitsOf c 15 8 == 0) && (cvFmt c != 8 || decide (-8 ≤ cvZp c ∧ cvZp c ≤ 7)) &&
    (isCb (cvFmt c) || !cvFit c)

/-- The rounding of a specifier for an element whose draw is `r`. -/
def cvMode (c r : Nat) : Rounding :=
  match cvRound c with
  | 1 => .zero
  | 2 => .stochastic r
  | _ => .nearest

end Sys2Proof.Machine
end

