-- ==== Sys2Proof/Machine/Cb.lean ====
section
/-!
DEFINITION. The block formats CB8 and CB4 (R94 to R96, R102, R103, R105): decoding a block and the FIT and HELD
encodings.
-/

namespace Sys2Proof.Machine

open Sys2Proof

/-- Bytes of a block. -/
def cbBytes (code : Nat) : Nat := if code = 9 then 48 else 24
/-- Side-list slots of a block (max_esc of R95). -/
def cbMaxEsc (code : Nat) : Nat := if code = 9 then 7 else 3
/-- Bytes of the elements of a block. -/
def cbElemBytes (code : Nat) : Nat := if code = 9 then 32 else 16
/-- The element format of a block. -/
def cbElemFmt (code : Nat) : FloatFmt := if code = 9 then fmtE4M3 else fmtE2M1
/-- The escape code. -/
def cbEscape (code : Nat) : Nat := if code = 9 then 0x80 else 8

def byteAt (bs : List Byte) (i : Nat) : Nat := (bs.getD i 0).toNat

/-- Scale exponent X of a stored block. -/
def cbX (code : Nat) (b : List Byte) : Nat := byteAt b (cbElemBytes code)
/-- Header byte of a stored block. -/
def cbHeader (code : Nat) (b : List Byte) : Nat := byteAt b (cbElemBytes code + 1)
def cbOvf (code : Nat) (b : List Byte) : Bool := bitOf (cbHeader code b) 7
def cbEsc (code : Nat) (b : List Byte) : Nat := cbHeader code b % 8

/-- A block is malformed (R95). -/
def cbMalformed (code : Nat) (b : List Byte) : Bool :=
  cbX code b == 0 || cbX code b == 255 || bitsOf (cbHeader code b) 6 3 != 0 || decide (cbMaxEsc code < cbEsc code b)

/-- The code of element `i`. -/
def cbCode (code : Nat) (b : List Byte) (i : Nat) : Nat :=
  if code = 9 then byteAt b i else bitsOf (byteAt b (i / 2)) (if i % 2 = 0 then 3 else 7) (if i % 2 = 0 then 0 else 4)

/-- Side-list slot `s`. -/
def cbSide (code : Nat) (b : List Byte) (s : Nat) : Val :=
  decodeFloat fmtBf16 (byteAt b (cbElemBytes code + 2 + 2 * s) + 256 * byteAt b (cbElemBytes code + 3 + 2 * s))

/-- A value times 2^k. -/
def valScale (v : Val) (k : Int) : Val :=
  match v with
  | .fin s m e => .fin s m (e + k)
  | v => v

/-- The 32 exact values of a block (R95). -/
def cbDecode (code : Nat) (b : List Byte) : List Val :=
  if cbMalformed code b then List.replicate 32 .nan
  else
    ((List.range 32).foldl (fun (p : List Val × Nat) i =>
      let c := cbCode code b i
      if c = cbEscape code then
        (p.1 ++ [if p.2 < cbEsc code b then cbSide code b p.2 else .nan], p.2 + 1)
      else (p.1 ++ [valScale (decodeFloat (cbElemFmt code) c) ((cbX code b : Int) - 127)], p.2)) ([], 0)).1

/-- Finite element indices ordered by magnitude, largest first, ties by lower index. -/
def byMagnitude (vs : List Val) : List Nat :=
  let idx := (List.range vs.length).filter (fun i => (vs.getD i .nan).isFinite)
  idx.foldl (fun acc i =>
    let rec ins : List Nat → List Nat
      | [] => [i]
      | j :: js => if ((vs.getD j .nan).abs).lt ((vs.getD i .nan).abs) then i :: j :: js else j :: ins js
    ins acc) []

/-- fmax of R102 as a value. -/
def cbFmax (code : Nat) : Val := fmtMax (cbElemFmt code)

/-- Non-finite elements that ask for an escape, in element order. -/
def nonFinite (code : Nat) (vs : List Val) : List Nat :=
  (List.range vs.length).filter (fun i =>
    match vs.getD i valZero with
    | .inf _ => true
    | .nan => code == 10
    | _ => false)

/-- The largest j of the gap rule of R102 within a budget, over ordered magnitudes. -/
def gapCount (mags : List Val) : Nat → Nat
  | 0 => 0
  | j + 1 =>
    let a := mags.getD j valZero
    let b := mags.getD (j + 1) valZero
    if !a.isZero && (valScale b 3).le a then j + 1 else gapCount mags j

/-- The smallest x from `x` on with u * 2^(127 - x) at most fmax, within `k` trials. Where no byte up to 254 does, the scale is
a free value of the operands (R102; DESIGN CHOICE, log entry 154). -/
def smallestX (code : Nat) (u : Val) : Nat → Nat → Nat
  | 0, _ => match u with
    | .fin _ n e => (Config.fitScale code n e).toNat
    | _ => (Config.fitScale code 0 0).toNat
  | k + 1, x => if (valScale u (127 - (x : Int))).le (cbFmax code) then x else smallestX code u k (x + 1)

/-- What an encoding chose: escaped elements, scale, and whether the block overflowed. -/
structure CbChoice where
  esc : List Nat
  x : Nat
deriving DecidableEq, Repr

/-- FIT encoding's choice (R102). -/
def cbFit (code : Nat) (vs : List Val) : CbChoice :=
  let nf := (nonFinite code vs).take (cbMaxEsc code)
  let ord := byMagnitude vs
  let mags := ord.map (fun i => (vs.getD i valZero).abs)
  let j := gapCount mags (cbMaxEsc code - nf.length)
  let esc := nf ++ ord.take j
  let u := mags.getD j valZero
  ⟨esc, if u.isZero then 127 else smallestX code u 254 1⟩

/-- HELD encoding's choice under a stored scale (R103). -/
def cbHeld (code x : Nat) (vs : List Val) : CbChoice :=
  let nf := (nonFinite code vs).take (cbMaxEsc code)
  let big := (byMagnitude vs).filter (fun i => (cbFmax code).lt (valScale (vs.getD i valZero).abs (127 - (x : Int))))
  ⟨nf ++ big.take (cbMaxEsc code - nf.length), x⟩

/-- An element left out of the side list that does not fit under the scale: an infinity or a finite one beyond fmax,
or a NaN of CB4 (R102, R103). -/
def cbUnfit (code x : Nat) (v : Val) : Bool :=
  match v with
  | .inf _ => true
  | .nan => code == 10
  | v => (cbFmax code).lt (valScale v.abs (127 - (x : Int)))

/-- The narrow code of an element under a scale; a negative zero is written positive. -/
def cbElemCode (code x : Nat) (mode : Rounding) (v : Val) : Nat :=
  let c := (encodeFloat (cbElemFmt code) mode (valScale v (127 - (x : Int)))).1
  if c = cbEscape code then 0 else c

/-- The bytes of a block from a choice: `modes` gives every element's rounding (R105). The flags say that the block
overflowed, and how many elements were saturated or turned from NaN into a number. -/
def cbBuild (code : Nat) (ch : CbChoice) (vs : List Val) (modes : List Rounding) : List Byte × Bool × Nat :=
  let mode := fun i => modes.getD i .nearest
  let rest := (List.range 32).filter (fun i => !(ch.esc.contains i))
  let unfit := rest.filter (fun i => cbUnfit code ch.x (vs.getD i valZero))
  let codes := (List.range 32).map (fun i =>
    if ch.esc.contains i then cbEscape code else cbElemCode code ch.x (mode i) (vs.getD i valZero))
  let side := ((List.range 32).filter (fun i => ch.esc.contains i)).map (fun i =>
    (encodeFloat fmtBf16 (mode i) (vs.getD i valZero)).1)
  let elems := if code = 9 then codes.map (BitVec.ofNat 8)
    else (List.range 16).map (fun k => BitVec.ofNat 8 (codes.getD (2 * k) 0 + 16 * codes.getD (2 * k + 1) 0))
  let hdr := (if unfit.isEmpty then 0 else 128) + side.length
  let sideBytes := padBytes (2 * cbMaxEsc code) (side.flatMap (leBytes 2))
  (elems ++ [BitVec.ofNat 8 ch.x, BitVec.ofNat 8 hdr] ++ sideBytes, !unfit.isEmpty, unfit.length)

end Sys2Proof.Machine
end

