-- ==== Sys2Proof/Machine/Convert.lean ====
section
/-!
DEFINITION. Converting a run of values into stored bytes under a conversion specifier (R97 to R105, R108, R109), with
what the guard counts of it (R107, R111, R122).
-/

namespace Sys2Proof.Machine

open Sys2Proof

/-- What the writes of a run did (R107, R111, R122). -/
structure Tally where
  sat : Nat := 0
  clamp : Nat := 0
  nan2num : Nat := 0
  nonfinite : Nat := 0
  ovf : Nat := 0
  limit : Nat := 0
  repair : Nat := 0
  blocks : Nat := 0
  flagged : Nat := 0
  /-- elements whose source was not finite -/
  bad : Nat := 0
  elems : Nat := 0
  /-- elements that were not silent -/
  loud : Nat := 0
  /-- cells of the blocks held at the scale limit -/
  limitAt : List Nat := []
deriving DecidableEq, Repr

def Tally.add (a b : Tally) : Tally :=
  { sat := a.sat + b.sat, clamp := a.clamp + b.clamp, nan2num := a.nan2num + b.nan2num
    nonfinite := a.nonfinite + b.nonfinite, ovf := a.ovf + b.ovf, limit := a.limit + b.limit
    repair := a.repair + b.repair, blocks := a.blocks + b.blocks, flagged := a.flagged + b.flagged
    bad := a.bad + b.bad, elems := a.elems + b.elems, loud := a.loud + b.loud, limitAt := a.limitAt ++ b.limitAt }

/-- A written value is silent below a bound of 2^q (R122). -/
def silentBelow (q : Int) : Val → Bool
  | .fin _ m e => m == 0 || (Val.fin false m e).lt (.fin false 1 q)
  | _ => false

/-- Exponent of the smallest normal of a float format. -/
def fmtMinNormal (f : FloatFmt) : Int := 1 - (f.bias : Int)

/-- A written element of a scalar format is silent. -/
def silentElem (code : Nat) (v : Val) : Bool :=
  match floatFmt code with
  | some f => silentBelow (fmtMinNormal f) v
  | none => v.isZero

/-- The tally of one scalar element, from its source, its code and the note of its conversion: a value written at the end
of a saturating or an integer target's range counts as a saturation (rows 2 and 3 of Table 4.8), and on an integer target
as a clamp as well (R101, R107). -/
def elemTally (code : Nat) (z : Int) (src : Val) (r : Nat × ConvNote) : Tally :=
  let w := decodeElem code z r.1
  { sat := if r.2 = .saturated then 1 else 0
    clamp := if r.2 = .saturated ∧ isInt code then 1 else 0
    nan2num := if r.2 = .nanToNumber then 1 else 0
    nonfinite := if w.isFinite then 0 else 1
    bad := if src.isFinite then 0 else 1
    elems := 1
    loud := if silentElem code w then 0 else 1 }

/-- Codes laid end to end; a last half byte keeps its other nibble. -/
def packElems (code : Nat) (codes : List Nat) (old : List Byte) : List Byte :=
  if elemBits code = 4 then
    (List.range ((codes.length + 1) / 2)).map (fun k =>
      BitVec.ofNat 8 (codes.getD (2 * k) 0 + 16 * (if 2 * k + 1 < codes.length then codes.getD (2 * k + 1) 0
        else byteAt old k / 16)))
  else codes.flatMap (leBytes (elemBits code / 8))

/-- The tally of one block from the source values, the escapes chosen and the bytes written. -/
def blockTally (code n : Nat) (vs : List Val) (ch : CbChoice) (bytes : List Byte) : Tally :=
  let ws := cbDecode code bytes
  let idx := List.range n
  let unfit := idx.filter (fun i => !(ch.esc.contains i) && cbUnfit code ch.x (vs.getD i valZero))
  let silent := fun i =>
    let v := ws.getD i valZero
    if ch.esc.contains i then silentBelow (fmtMinNormal fmtBf16) v
    else silentBelow (fmtMinNormal (cbElemFmt code) + (ch.x : Int) - 127) v
  { sat := (unfit.filter (fun i => !(vs.getD i valZero).isNan)).length
    nan2num := (unfit.filter (fun i => (vs.getD i valZero).isNan)).length
    nonfinite := (idx.filter (fun i => !(ws.getD i valZero).isFinite)).length
    blocks := 1
    flagged := if cbOvf code bytes then 1 else 0
    bad := (idx.filter (fun i => !(vs.getD i valZero).isFinite)).length
    elems := n
    loud := (idx.filter (fun i => !silent i)).length }

/-- Write one block of `n` elements at a cell over its old bytes (R102, R103, R108, R109). -/
def cbWrite (code : Nat) (fit : Bool) (n : Nat) (vals : List Val) (modes : List Rounding) (old : List Byte) (cell : Nat) :
    List Byte × Tally :=
  let vs := vals ++ List.replicate (32 - vals.length) valZero
  let broken := cbMalformed code old
  let x0 := cbX code old
  let atLimit := !fit && !broken && cbOvf code old && decide (254 ≤ x0)
  let x := if cbOvf code old && decide (x0 < 254) then x0 + 1 else x0
  let ch := if fit || broken then cbFit code vs else cbHeld code x vs
  let r := cbBuild code ch vs modes
  let t := blockTally code n vs ch r.1
  (r.1, { t with
    ovf := if !fit && r.2.1 then 1 else 0
    limit := if atLimit then 1 else 0
    repair := if !fit && broken then 1 else 0
    limitAt := if atLimit then [cell] else [] })

/-- The blocks of a run, one after another. -/
def cbRun (code : Nat) (fit : Bool) : Nat → List Val → List Rounding → List Byte → Nat → List Byte × Tally
  | 0, _, _, _, _ => ([], {})
  | k + 1, vals, modes, old, cell =>
    let n := min 32 vals.length
    let r := cbWrite code fit n (vals.take 32) (modes.take 32) (old.take (cbBytes code)) cell
    let rest := cbRun code fit k (vals.drop 32) (modes.drop 32) (old.drop (cbBytes code)) (cell + cbBytes code)
    (r.1 ++ rest.1, r.2.add rest.2)

/-- The tally of `n` elements copied as whole blocks: no conversion is made, so the conversion counters stand, and what
the guard and the watch count of a write is taken (R106, R111, R122). -/
def copyTally (code : Nat) : Nat → Nat → List Byte → Tally
  | 0, _, _ => {}
  | k + 1, n, bytes =>
    let b := bytes.take (cbBytes code)
    let x := cbX code b
    let ws := cbDecode code b
    let count := min n 32
    let idx := List.range count
    let silent := fun i => silentBelow (if cbCode code b i = cbEscape code then fmtMinNormal fmtBf16
      else fmtMinNormal (cbElemFmt code) + (x : Int) - 127) (ws.getD i valZero)
    let t : Tally :=
      { blocks := 1, flagged := if cbOvf code b then 1 else 0
        bad := (idx.filter (fun i => !(ws.getD i valZero).isFinite)).length
        elems := count, loud := (idx.filter (fun i => !silent i)).length }
    t.add (copyTally code k (n - 32) (bytes.drop (cbBytes code)))

/-- Convert a run of values that starts at an element (or block) boundary, over the bytes that stand there. -/
def convRun (spec : Nat) (vals : List Val) (modes : List Rounding) (old : List Byte) (cell : Nat) : List Byte × Tally :=
  let code := cvFmt spec
  if isCb code then cbRun code (cvFit spec) ((vals.length + 31) / 32) vals modes old cell
  else
    let rs := (List.range vals.length).map (fun i =>
      encodeElem code (cvZp spec) (modes.getD i .nearest) (vals.getD i valZero))
    (packElems code (rs.map (·.1)) old,
      ((List.range vals.length).foldl (fun t i =>
        t.add (elemTally code (cvZp spec) (vals.getD i valZero) (rs.getD i (0, .none)))) {}))

/-- Decode `n` elements of a run of stored bytes (R89, R91, R95). -/
def decodeRun (code : Nat) (z : Int) (bytes : List Byte) (n : Nat) : List Val :=
  if isCb code then
    ((List.range ((n + 31) / 32)).flatMap (fun k => cbDecode code ((bytes.drop (k * cbBytes code)).take (cbBytes code)))).take n
  else if elemBits code = 4 then
    (List.range n).map (fun i => decodeElem code z (bitsOf (byteAt bytes (i / 2)) (if i % 2 = 0 then 3 else 7)
      (if i % 2 = 0 then 0 else 4)))
  else
    let w := elemBits code / 8
    (List.range n).map (fun i => decodeElem code z (leNat ((bytes.drop (w * i)).take w)))

end Sys2Proof.Machine
end

