-- ==== Sys2Proof/Machine/Hash.lean ====
section
/-!
DEFINITION. The fixed functions over bytes that the spec names: SHAKE256 (R432, R444), CRC-32 of IEEE 802.3 (Table 2.3)
and CRC-16 with polynomial 0x1021 (Table 2.9).
-/

namespace Sys2Proof.Machine

open Sys2Proof

/-! ### SHAKE256: the sponge over Keccak-f[1600] with a rate of 136 bytes and the domain bits 1111

The permutation's constants are not tables here: they come from the shift register and the walk that define them. -/

/-- Lane (x, y) of the state stands at place x + 5 y; a place that a list does not hold is zero. -/
def lane (a : List (BitVec 64)) (i : Nat) : BitVec 64 := a.getD i 0

/-- One step of the 8-bit shift register x^8 + x^6 + x^5 + x^4 + 1 that gives the round constants. -/
def roundStep (r : Nat) : Nat := if 128 ≤ r then (2 * r) ^^^ 0x171 else 2 * r

/-- The constant of a round: seven outputs of the register, at bits 0, 1, 3, 7, 15, 31 and 63; and the register after it. -/
def roundConstant (r : Nat) : Nat × Nat :=
  (List.range 7).foldl (fun (p : Nat × Nat) j => (p.1 + p.2 % 2 * 2 ^ (2 ^ j - 1), roundStep p.2)) (0, r)

/-- The walk over the lanes from (1, 0), each step to (y, 2x + 3y): where step `t` starts, and the triangular number by
which it rotates. -/
def laneWalk : List (Nat × Nat × Nat) :=
  ((List.range 24).foldl (fun (p : List (Nat × Nat × Nat) × Nat × Nat) t =>
    (p.1 ++ [(p.2.1, p.2.2, (t + 1) * (t + 2) / 2)], p.2.2, (2 * p.2.1 + 3 * p.2.2) % 5)) ([], 1, 0)).1

/-- Mixing of the columns: every lane takes the parities of the column before it and, rotated by one, of that after it. -/
def mixColumns (a : List (BitVec 64)) : List (BitVec 64) :=
  let parity := fun (x : Nat) => (List.range 5).foldl (fun p y => p ^^^ lane a (x % 5 + 5 * y)) 0
  (List.range 5).flatMap (fun y => (List.range 5).map (fun x =>
    lane a (x + 5 * y) ^^^ parity (x + 4) ^^^ (parity (x + 1)).rotateLeft 1))

/-- Each lane of the walk is rotated and moves to where the walk goes next; lane (0, 0) stays. -/
def moveLanes (a : List (BitVec 64)) : List (BitVec 64) :=
  laneWalk.foldl (fun b (x, y, k) => b.set (y + 5 * ((2 * x + 3 * y) % 5)) ((lane a (x + 5 * y)).rotateLeft k)) a

/-- The one non-linear step, row by row. -/
def mixRows (a : List (BitVec 64)) : List (BitVec 64) :=
  (List.range 5).flatMap (fun y =>
    let row := (a.drop (5 * y)).take 5
    (List.range 5).map (fun x => lane row x ^^^ (lane row ((x + 2) % 5) &&& ~~~ lane row ((x + 1) % 5))))

/-- One round, with the register of the round constants. -/
def spongeRound (p : List (BitVec 64) × Nat) : List (BitVec 64) × Nat :=
  let k := roundConstant p.2
  let a := mixRows (moveLanes (mixColumns p.1))
  (a.set 0 (lane a 0 ^^^ BitVec.ofNat 64 k.1), k.2)

def keccakF (a : List (BitVec 64)) : List (BitVec 64) := ((List.range 24).foldl (fun p _ => spongeRound p) (a, 1)).1

/-- The 17 lanes of a block of 136 bytes. -/
def blockLanes (b : List Byte) : List (BitVec 64) :=
  (List.range 17).map (fun i => BitVec.ofNat 64 (leNat ((b.drop (8 * i)).take 8)))

def absorbBlock (a : List (BitVec 64)) (b : List Byte) : List (BitVec 64) :=
  keccakF ((List.range 25).map (fun i => if i < 17 then lane a i ^^^ lane (blockLanes b) i else lane a i))

/-- Absorb `n` blocks of a padded message. -/
def absorb : Nat → List (BitVec 64) → List Byte → List (BitVec 64)
  | 0, a, _ => a
  | n + 1, a, bs => absorb n (absorbBlock a (bs.take 136)) (bs.drop 136)

/-- The message followed by 0x1F, zeros and a final bit 7, up to a whole block. -/
def shakePad (msg : List Byte) : List Byte :=
  let r := 136 - msg.length % 136
  if r = 1 then msg ++ [0x9F] else msg ++ [0x1F] ++ List.replicate (r - 2) 0 ++ [0x80]

/-- The 256-bit SHAKE256 digest (R432). -/
def shake256 (msg : List Byte) : List Byte :=
  let p := shakePad msg
  let a := absorb (p.length / 136) (List.replicate 25 0) p
  (List.range 4).flatMap (fun i => leBytes 8 (lane a i).toNat)

/-! ### Cyclic redundancy checks -/

/-- One bit of the reflected CRC-32. -/
def crc32Bit (c : Nat) : Nat := if c % 2 = 1 then (c / 2) ^^^ 0xEDB88320 else c / 2

def crc32Byte (c : Nat) (b : Byte) : Nat :=
  (List.range 8).foldl (fun c _ => crc32Bit c) (c ^^^ b.toNat)

/-- CRC-32, IEEE 802.3 polynomial (PH_IMAGE_CRC). -/
def crc32 (bs : List Byte) : Nat := (bs.foldl crc32Byte 0xFFFFFFFF) ^^^ 0xFFFFFFFF

/-- One bit of the CRC-16. -/
def crc16Bit (c : Nat) : Nat :=
  if c / 0x8000 % 2 = 1 then ((c * 2) % 0x10000) ^^^ 0x1021 else c * 2 % 0x10000

def crc16Byte (c : Nat) (b : Byte) : Nat :=
  (List.range 8).foldl (fun c _ => crc16Bit c) (c ^^^ (b.toNat * 256))

/-- CRC-16, polynomial 0x1021, initial value 0xFFFF, not reflected (MH_CRC). -/
def crc16 (bs : List Byte) : Nat := bs.foldl crc16Byte 0xFFFF

end Sys2Proof.Machine
end

