-- ==== Sys2Proof/Machine/RegWrite.lean ====
section
/-!
DEFINITION. What a write of a register does whatever register it is (R6 to R8, R413, R441), with the block's own check
and effect as arguments; and the read views that every block shares.
-/

namespace Sys2Proof.Machine

open Sys2Proof

/-- Bits of a register that some write can change or act on. -/
def writableBits (d : RegDef) : Nat := d.rw ||| d.w1c ||| d.wo ||| d.rws ||| d.rwl

/-- Bits an accepted write of which is entered in the journal (R441: the types RW, RWS, RWL and WO). -/
def recordedBits (d : RegDef) : Nat := d.rw ||| d.wo ||| d.rws ||| d.rwl

/-- Bits of a register that no field covers. -/
def reservedBits (d : RegDef) : Nat := 0xFFFFFFFF - (writableBits d ||| d.ro)

/-- The register value a plain write leaves: RW, RWS, RWL and WO bits as written, W1C bits cleared where written 1,
RO bits as they were (R8). -/
def mergeWrite (d : RegDef) (old v : Word) : Word :=
  let w := BitVec.ofNat 32 (recordedBits d)
  let c := BitVec.ofNat 32 d.w1c
  (old &&& ~~~ w &&& ~~~ (c &&& v)) ||| (v &&& w)

namespace Mod

/-- The plain effect of an accepted write. -/
def regStore (m : Mod) (off : Nat) (v : Word) : Mod :=
  match regAt off with
  | some d => m.wr off (mergeWrite d (m.rd off) v)
  | none => m

/-- Put a register back to its reset value. -/
def regClear (m : Mod) (off : Nat) : Mod := m.wr off (regReset off)

/-- Hold bits of an accepted write for the next boundary (R16); the register keeps its value until then. -/
def holdWrite (m : Mod) (off : Nat) (mask v : Word) : Mod :=
  { m with heldWrites := m.heldWrites ++ [(off, mask, v)] }

/-- What the register at an offset holds with its held writes taken in: the value a read and a journal entry show
(DEDUCED, log entry 32). -/
def pendingRd (m : Mod) (off : Nat) : Word :=
  m.heldWrites.foldl (fun x w => if w.1 = off then (x &&& ~~~ w.2.1) ||| (w.2.2 &&& w.2.1) else x) (m.rd off)

/-- One held write takes effect; that of HIF_DB_BASE_HI takes the whole 64-bit base (R316). -/
def applyHeldOne (m : Mod) (w : Nat × Word × Word) : Mod :=
  let m1 := m.wr w.1 ((m.rd w.1 &&& ~~~ w.2.1) ||| (w.2.2 &&& w.2.1))
  if w.1 = Reg.HIF_DB_BASE_HI then m1.setBase64 Reg.HIF_DB_BASE_LO (m1.rd64 Reg.HIF_DB_BASE_LO) else m1

/-- The held writes take effect, in the order of their acceptance (step 2 of R14, R16); `after` says what a register's
block does with it, given the value the register had. -/
def applyHeld (after : Mod → Nat → Word → Mod) (m : Mod) : Mod :=
  m.heldWrites.foldl (fun m w => after (m.applyHeldOne w) w.1 (m.rd w.1)) { m with heldWrites := [] }

/-- The status with which a write is dropped before its block's own checks, or OK: reserved bits (R7), then a changed
RWL field after SETUP_LOCK (R8), against the value a held write has given it (log entry 32). -/
def commonCheck (m : Mod) (d : RegDef) (off : Nat) (v : Word) : Nat :=
  if v &&& BitVec.ofNat 32 (reservedBits d) ≠ 0 then stMalformed
  else if m.locked && decide ((v ^^^ m.pendingRd off) &&& BitVec.ofNat 32 d.rwl ≠ 0) then stAccessDenied
  else stOk

/-- A 32-bit aligned write to BAR0: dropped without an entry before ready outside the ID_ block (R413), outside every
register and where no field is writable (R7, R8); otherwise checked, journalled with its status and `old`, the value a
read gave (R441: an accepted one where it writes a field of type RW, RWS, RWL or WO), and, when accepted, carried out
by the block. -/
def regWrite (check : Mod → Nat → Word → Nat) (effect : Mod → Nat → Word → Mod) (m : Mod) (off : Nat) (old v : Word)
    (o : Origin) : Mod :=
  if !m.boot.powered || (!m.ready && decide (0x10000 ≤ off)) then m
  else
    match regAt off with
    | none => m
    | some d =>
      if writableBits d = 0 then m
      else
        let st := if m.commonCheck d off v = stOk then check m off v else m.commonCheck d off v
        let m' := if st = stOk ∧ recordedBits d = 0 then m else m.journalWrite st off old v o
        if st = stOk then effect m' off v else m'

end Mod

/-- A block with no check of its own. -/
def noCheck : Mod → Nat → Word → Nat := fun _ _ _ => stOk

/-- Whether a register offset lies in an indexed register's row, and at which index. -/
def rowIndex (base stride count off : Nat) : Option Nat :=
  if base ≤ off ∧ (off - base) % stride = 0 ∧ (off - base) / stride < count then some ((off - base) / stride) else none

end Sys2Proof.Machine
end

