-- ==== Sys2Proof/Machine/Address.lean ====
section
/-!
DEFINITION. The global address space (12_address_space.md): the place a global address names, and reading and writing
the bytes of the module's own memories.
-/

namespace Sys2Proof.Machine

open Sys2Proof

/-- Where a global address lies (R239 to R243). `cell` is the number of its byte cell: the address without its module
field, and with die field 0 in tier 1 (R241). -/
inductive Place where
  | tier0 (die cell : Nat)
  | tier1 (cell : Nat)
  | sram (die cluster cell : Nat)
  | tier2 (off : Nat)
  | tier3 (home : Nat)
  | unmapped
deriving DecidableEq, Repr

/-- Module field of a global address. -/
def addrModule (a : Nat) : Nat := bitsOf a 63 51
/-- Die field of a global address. -/
def addrDie (a : Nat) : Nat := bitsOf a 50 49
/-- Offset field of a global address. -/
def addrOffset (a : Nat) : Nat := bitsOf a 48 0
/-- A global address as units report and compare it: its die field is 0 where the tier ignores it (R241). -/
def canon (a : Nat) : Nat :=
  if 0x10000000000 ≤ addrOffset a ∧ addrOffset a < 0x80000000000 ∨ 0x100000000000 ≤ addrOffset a then
    a / 2 ^ 51 * 2 ^ 51 + addrOffset a
  else a

/-- Chip number of a global address. -/
def addrChip (a : Nat) : Nat := bitsOf a 63 49

def tier1Base : Nat := 0x10000000000
def sramBase : Nat := 0x80000000000
def tier2Base : Nat := 0x100000000000

/-- An offset lies in the host window. -/
def isTier2Offset (o : Nat) : Bool := decide (tier2Base ≤ o ∧ o < tier2Base + 0x100000000000)

/-- An offset within a cluster's window holds a region of Table 12.3. -/
def sramMapped (w : Nat) : Bool :=
  decide (w < 0x1200000) || decide (0x2000000 ≤ w ∧ w < 0x2800000)

/-- The place of an offset of this module, seen from a die (R241, R242). -/
def placeOffset (m : Mod) (die o : Nat) : Place :=
  if o < 0xC00000000 then
    if o < m.rdN (Reg.MEM_T0_SIZE die) * 2 ^ 30 then .tier0 die (die * 2 ^ 49 + o) else .unmapped
  else if tier1Base ≤ o ∧ o < tier1Base + 0x4000000000 then
    if o - tier1Base < m.rdN Reg.MEM_T1_SIZE * 2 ^ 30 then .tier1 o else .unmapped
  else if sramBase ≤ o ∧ o < sramBase + 0x30000000 then
    if sramMapped ((o - sramBase) % 0x4000000) then
      .sram die ((o - sramBase) / 0x4000000) (die * 2 ^ 49 + o)
    else .unmapped
  else if tier2Base ≤ o ∧ o < tier2Base + 0x100000000000 then
    if o - tier2Base < m.rdN Reg.MEM_T2_SIZE * 2 ^ 30 then .tier2 (o - tier2Base) else .unmapped
  else .unmapped

/-- An offset is one of the map of Table 12.2, whatever the module. -/
def offsetInMap (o : Nat) : Bool :=
  decide (o < 0xC00000000) || decide (tier1Base ≤ o ∧ o < tier1Base + 0x4000000000) ||
    (decide (sramBase ≤ o ∧ o < sramBase + 0x30000000) && sramMapped ((o - sramBase) % 0x4000000)) ||
    decide (tier2Base ≤ o ∧ o < tier2Base + 0x100000000000)

/-- The place a global address names (R240). -/
def placeOf (m : Mod) (a : Nat) : Place :=
  if addrModule a = m.self then placeOffset m (addrDie a) (addrOffset a)
  else if offsetInMap (addrOffset a) then .tier3 (addrModule a) else .unmapped

/-- The cell of a place held by the module's own memories. -/
def placeCell : Place → Option Nat
  | .tier0 _ c => some c
  | .tier1 c => some c
  | .sram _ _ c => some c
  | _ => none

/-- Cell of byte `o` of a core's local memory (Table 12.3). -/
def localCell (n o : Nat) : Nat :=
  n / 96 * 2 ^ 49 + sramBase + n / 8 % 12 * 0x4000000 + 0x2000000 + n % 8 * 0x100000 + o

/-- Cell of byte `o` of a cluster's shared memory. -/
def sharedCell (g o : Nat) : Nat := g / 12 * 2 ^ 49 + sramBase + g % 12 * 0x4000000 + o

/-- Cell of byte `o` of a cluster's transposing buffer. -/
def transCell (g o : Nat) : Nat := g / 12 * 2 ^ 49 + sramBase + g % 12 * 0x4000000 + 0x1000000 + o

/-- The global address of a cell of this module. -/
def globalOf (m : Mod) (cell : Nat) : Nat := m.self * 2 ^ 51 + cell

/-! ### Bytes -/

def noByte : Nat → Byte := fun _ => 0

/-- The byte in a cell. -/
def memByte (mem : Memory) (c : Nat) : Byte := tabGet noByte mem c

/-- `k` bytes from a cell on. -/
def memRead (mem : Memory) (c : Nat) : Nat → List Byte
  | 0 => []
  | k + 1 => memByte mem c :: memRead mem (c + 1) k

/-- Write bytes from a cell on. -/
def memWrite (mem : Memory) (c : Nat) : List Byte → Memory
  | [] => mem
  | b :: bs => memWrite (tabPut noByte mem c b) (c + 1) bs

/-- A little-endian number of `k` bytes from a cell on. -/
def memNat (mem : Memory) (c k : Nat) : Nat := leNat (memRead mem c k)

/-- A cell of a tier of the module (0 or 1), as opposed to SRAM. -/
def isTierCell (c : Nat) : Bool := decide (c % 2 ^ 49 < sramBase)

/-- A stretch of addresses as R49 compares it: cells of this module's memories, and beyond them, in tier 2 and on other modules,
places of their own. -/
def placeSpan (m : Mod) (a len : Nat) : Span :=
  ⟨match placeCell (placeOf m a) with | some c => c | none => 2 ^ 64 + canon a, len⟩

/-- A stretch of a peer window. -/
def peerSpan (w a len : Nat) : Span := ⟨2 ^ 66 + w * 2 ^ 50 + a, len⟩

/-- Whether two stretches overlap. -/
def overlaps (a b : Span) : Bool := decide (a.addr < b.addr + b.len ∧ b.addr < a.addr + a.len)

end Sys2Proof.Machine
end

