-- ==== Sys2Proof/Machine/WorkOps.lean ====
section
/-!
DEFINITION. Issuing and ending work: descriptors and work words are outstanding from their issue until they complete
(R319, R326, R335).
-/

namespace Sys2Proof.Machine

open Sys2Proof

namespace Mod

/-- The descriptor of a submission ring that is on its way. -/
def ringWork (m : Mod) (r i : Nat) : Option RingWork := m.hub.rings.find? (fun w => w.ring == r && w.index == i)

/-- DS_TAG and DS_KIND of a descriptor; zero where its body was never fetched (R326). -/
def ringTag (m : Mod) (r i : Nat) : Nat × Nat :=
  match m.ringWork r i with
  | some w => match w.body with
    | some b => (bitsOf b.toNat 127 64, bitsOf b.toNat 7 0)
    | none => (0, 0)
  | none => (0, 0)

/-- A descriptor completes with a status and an error code: its record waits for step 4. -/
def completeRing (m : Mod) (r i status err : Nat) : Mod :=
  m.complete r i status err (m.ringTag r i).1 (m.ringTag r i).2

/-- A work-word ladle transfer has its outcome counted (R319, R335). -/
def countLadle (m : Mod) (n status : Nat) : Mod :=
  if status = stOk then m.inc (Reg.CORE_LD_OPS n) else m.inc (Reg.CORE_LD_FAIL n)

/-- A piece of work ends with a status: a descriptor gets its record, a ladle word its count, and it is no longer
outstanding. -/
def endWork (m : Mod) (id status : Nat) : Mod :=
  match m.findWork id with
  | none => m
  | some w =>
    let m1 := m.dropWork id
    match w.who with
    | .ring r i => m1.completeRing r i status 0
    | .core n => if w.unit = .ladle then m1.countLadle n status else m1

/-- The status a work keeps when a request of it meets another: HOST_EPOCH_CHANGED for a discarded write (R359), then
the earlier in the ladle's order TIER_ERROR, TIER_TIMEOUT, BUSY_REFUSED, ACCESS_DENIED (R326). -/
def ladleWorse (a b : Nat) : Nat :=
  let rank := fun (s : Nat) =>
    if s = stHostEpochChanged then 0 else if s = stTierError then 1 else if s = stTierTimeout then 2
    else if s = stBusyRefused then 3 else if s = stAccessDenied then 4 else if s = stOk then 9 else 5
  if rank b < rank a then b else a

/-- PICK_BUSY of a picker. -/
def showPicker (m : Mod) (g p : Nat) : Mod :=
  m.fput (Fld.PICK_BUSY g p) (m.tables.lookups.any (fun l => l.core / 8 == g && l.picker == p) ||
    m.tables.contribs.any (fun c => c.core / 8 == g && c.picker == p &&
      ((m.findWork c.work).isSome || c.rows.any (fun r => r.outcome.isNone))))

/-- Work of cores ends without a result (R22, R401, R407): it is no longer outstanding, drains and applies of it go, requests
that were not issued are never issued, a ladle transfer counts as failed, and requests of it that are still open keep
their tracker entries until they are answered or time out. -/
def dropWorks (m : Mod) (p : Work → Bool) : Mod :=
  let gone := m.works.filter p
  let has := fun (id : Nat) => gone.any (fun w => w.id == id)
  let orphans := gone.filterMap (fun w => match w.who with
    | .core n => if w.unit == .ladle && !w.due.isEmpty then some (w.id, n / 96, w.due) else none
    | .ring _ _ => none)
  let m1 := { m with
    works := m.works.filter (fun w => !p w)
    arrays := m.arrays.foldl (fun t e =>
      let a := tabGet (fun _ => {}) m.arrays e.1
      tabPut (fun _ => {}) t e.1 { a with drains := a.drains.filter (fun d => !has d.work) }) []
    tables := { m.tables with
      lookups := m.tables.lookups.filterMap (fun l =>
        let r := { l with reqs := l.reqs.map (fun q => if q.due.isNone then { q with status := some stCancelled } else q) }
        if !has l.work then some l else if r.reqs.all (fun q => q.status.isSome) then none else some r)
      contribs := m.tables.contribs.filterMap (fun c =>
        let r := { c with rows := c.rows.map (fun x => if x.due.isNone then { x with outcome := some stCancelled } else x) }
        if !has c.work then some c else if r.rows.all (fun x => x.outcome.isSome) then none else some r)
      applies := m.tables.applies.filter (fun a => !has a.work), orphans := m.tables.orphans ++ orphans } }
  gone.foldl (fun m w => match w.who with
    | .core n =>
      if w.unit == .ladle then m.countLadle n stCancelled
      else if w.unit == .picker || w.unit == .crucible then (m.showPicker (n / 8) 0).showPicker (n / 8) 1
      else m
    | .ring _ _ => m) m1

/-- A core's pattern is to stop at the next boundary for a malformed word or header, and the rest of its block is not
issued (R49, R477). -/
def stopMalformed (m : Mod) (n : Nat) : Mod :=
  m.modCore n (fun c => { c with
    stopMalformed := true
    issued := none
    choice := c.choice.map (fun ch => { ch with stopped := true }) })

/-- A work word rejected by its unit at issue: the unit's error register takes the code, and R49 applies as for an
unknown unit (R473). ARR_PASS_COUNT and the like count no word that is rejected (DESIGN CHOICE, log entry 154). -/
def rejectWord (m : Mod) (n errReg code : Nat) : Mod := (m.wrN errReg code).stopMalformed n

/-- CORE_STEP and CORE_MB advance after the issue of a block (Table 2.5, R47). -/
def advanceStep (m : Mod) (n : Nat) (step mb : Bool) : Mod :=
  (m.when step (fun m => m.addMod (Reg.CORE_STEP n) 1)).when mb
    (fun m => m.wrN (Reg.CORE_MB n) ((m.rdN (Reg.CORE_MB n) + 1) % 65536))

/-- The work word issued to a unit is taken by it. With the last word of a block the block has been issued, and CORE_STEP and
CORE_MB advance as its alternative says (Table 2.5); a word that is rejected, or not issued, advances nothing. -/
def takeWord (m : Mod) (n : Nat) : Mod :=
  let m1 := m.modCore n (fun c => { c with issued := none })
  match (m.coreSt n).choice with
  | some c => m1.when ((m.coreSt n).issued.isSome && c.next == c.workLen) (fun m => m.advanceStep n c.stepInc c.mbInc)
  | none => m1

/-- A work word of a disabled function is refused with BUSY_REFUSED and does not stop its pattern (R406). -/
def refuseWord (m : Mod) (n : Nat) : Mod := m.takeWord n

/-! ### The array of a cluster -/

def arr (m : Mod) (g : Nat) : ArraySt := tabGet (fun _ => {}) m.arrays g
def setArr (m : Mod) (g : Nat) (a : ArraySt) : Mod := { m with arrays := tabPut (fun _ => {}) m.arrays g a }
def modArr (m : Mod) (g : Nat) (f : ArraySt → ArraySt) : Mod := m.setArr g (f (m.arr g))

/-- The column map of a cluster's array as it stands (R83). -/
def colMap (m : Mod) (g : Nat) : ColMap := ⟨(m.arr g).slag.map (·.1), (m.arr g).failed⟩

/-- What the accumulator banks of a cluster hold is lost: a cast, or the loss of the cluster (R73). -/
def dropBanks (m : Mod) (g : Nat) : Mod :=
  { m.modArr g (fun a => { a with tag0 := none, tag1 := none }) with
    banks := m.banks.filter (fun e => e.1 / (2 * 256 * 512) != g) }

/-! ### Words issued -/

/-- The word waiting for a unit at a core, with its place in the block and the block it names as read at its issue, when
its unit code is `u`; units of a halted die take nothing (R370). -/
def issuedFor (m : Mod) (n u : Nat) : Option (Nat × Nat × Nat) :=
  if m.dieHalted (n / 96) then none else
  match (m.coreSt n).issued with
  | some x => if bitsOf x.word 63 56 = u then some (x.word, x.pos, x.block) else none
  | none => none

/-- The word issued at a core, with what was read at its issue. -/
def issuedWord (m : Mod) (n : Nat) : IssuedWord := (m.coreSt n).issued.getD { word := 0, pos := 0, block := 0 }

/-- The module as the word issued at a core sees it: with the directory entries and the rule, `rule` its slot, that the word
read at its issue (R157, R187). -/
def atIssue (m : Mod) (n rule : Nat) : Mod :=
  let x := m.issuedWord n
  { m with tables := { m.tables with
      dir := x.dir.foldl (fun t e => tabPut (fun _ => none) t e.1 e.2) m.tables.dir
      rules := tabPut (fun _ => {}) m.tables.rules rule x.rule } }

/-- The directory and the rules in force, back after what a word issued earlier has done. -/
def inForce (m m0 : Mod) : Mod := { m with tables := { m.tables with dir := m0.tables.dir, rules := m0.tables.rules } }

/-- Step and micro-batch bound to a core's heat (R47). -/
def boundStep (m : Mod) (n : Nat) : Nat := match (m.coreSt n).choice with | some c => c.step | none => 0
def boundMb (m : Mod) (n : Nat) : Nat := match (m.coreSt n).choice with | some c => c.mb | none => 0
def boundHeat (m : Mod) (n : Nat) : Nat := match (m.coreSt n).choice with | some c => c.heat | none => m.heatNo

/-- Step and micro-batch that a message sent now carries: those bound to the heat in progress; zero where none are bound yet, as
at a switch (R47; DEDUCED, log entry 148). -/
def heatNumbers (m : Mod) (n : Nat) : Nat × Nat :=
  match (m.coreSt n).choice with
  | some c => if c.heat = m.heatNo then (c.step, c.mb) else (0, 0)
  | none => (0, 0)

/-- Put a piece of work of a core into flight; its number is `m.nextId`. -/
def launch (m : Mod) (n : Nat) (u : UnitKind) (pos word : Nat) (dst : List Span) : Mod :=
  let m1 := m.takeWord n
  { m1 with
    works := m1.works ++ [{ id := m.nextId, who := .core n, unit := u, pos := pos, heat := m.boundHeat n, word := word,
                            step := m.boundStep n, mb := m.boundMb n, dst := dst }]
    nextId := m.nextId + 1 }

/-! ### Disabled functions (R406, Table 20.6) -/

/-- Key of a selection: function, die, cluster and picker as far as the function is selected by them. -/
def fnKey (f die cluster picker : Nat) : Nat :=
  let d := if f = 4 ∨ f = 5 then 0 else die
  let c := if f = 1 ∨ f = 2 then cluster else 0
  ((f * 4 + d) * 12 + c) * 2 + (if f = 1 then picker else 0)

def disSt (m : Mod) (k : Nat) : DisSt := tabGet (fun _ => {}) m.disabled k
def setDis (m : Mod) (k : Nat) (d : DisSt) : Mod := { m with disabled := tabPut (fun _ => {}) m.disabled k d }

def pickerOff (m : Mod) (g p : Nat) : Bool := (m.disSt (fnKey 1 (g / 12) (g % 12) p)).on
def arrayOff (m : Mod) (g : Nat) : Bool := (m.disSt (fnKey 2 (g / 12) (g % 12) 0)).on
def dieLadleOff (m : Mod) (die : Nat) : Bool := (m.disSt (fnKey 3 die 0 0)).on
def hubLadlesOff (m : Mod) : Bool := (m.disSt (fnKey 4 0 0 0)).on
def collectivesOff (m : Mod) : Bool := (m.disSt (fnKey 5 0 0 0)).on
def cruciblesOff (m : Mod) (die : Nat) : Bool := (m.disSt (fnKey 6 die 0 0)).on

end Mod
end Sys2Proof.Machine
end

