-- ==== Sys2Proof/Machine/Pattern.lean ====
section
/-!
DEFINITION. Patterns (02_cores_and_patterns.md): the pattern image, its check, work-only memory, and what a unit's
write to a core's memory meets.
-/

namespace Sys2Proof.Machine

open Sys2Proof

/-! ### The image (R40, R41, R54) -/

/-- First cell of a pattern bank of a core (Table 2.1). -/
def bankCell (n bank : Nat) : Nat := localCell n (0xE0000 + 0x10000 * bank)

/-- Slot `i` of the image in a bank, as a number of 512 bits. -/
def imgSlot (mem : Memory) (n bank i : Nat) : Nat := memNat mem (bankCell n bank + 64 * i) 64

def phCrc (h : Nat) : Nat := bitsOf h 159 128
def phId (h : Nat) : Nat := bitsOf h 127 64
def phLast (h : Nat) : Nat := bitsOf h 51 42
def phStart (h : Nat) : Nat := bitsOf h 41 32
def phWidth (h : Nat) : Nat := bitsOf h 25 16
def phRev (h : Nat) : Nat := bitsOf h 7 0

/-- Alternative `a` of an entry (Table 2.5), as a number of 112 bits. -/
def entryAlt (e a : Nat) : Nat := bitsOf e (64 + 112 * a + 111) (64 + 112 * a)

def enExit (e : Nat) : Nat := bitsOf e 63 54
def enLimit (e : Nat) : Nat := bitsOf e 53 38
def enCtrSel (e : Nat) : Nat := bitsOf e 37 35
def enAltCount (e : Nat) : Nat := bitsOf e 17 16 + 1
def enTag (e : Nat) : Nat := bitsOf e 15 8
def enKind (e : Nat) : Nat := bitsOf e 7 0

def alIn (a : Nat) : Nat := bitsOf a 111 96
def alOut (a : Nat) : Nat := bitsOf a 95 80
def alNext (a : Nat) : Nat := bitsOf a 79 70
def alPtr (a : Nat) : Nat := bitsOf a 69 56
def alLen (a : Nat) : Nat := bitsOf a 55 46
def alArray (a : Nat) : Bool := bitOf a 45
def alMbInc (a : Nat) : Bool := bitOf a 44
def alStepInc (a : Nat) : Bool := bitOf a 43

/-- The descriptor of in-channel `i` in a bank (Table 2.8). -/
def inDesc (mem : Memory) (n bank i : Nat) : Nat := memNat mem (bankCell n bank + 64 + 16 * i) 16
/-- The descriptor of out-channel `j` in a bank. -/
def outDesc (mem : Memory) (n bank j : Nat) : Nat := memNat mem (bankCell n bank + 320 + 16 * j) 16

def chBase (d : Nat) : Nat := bitsOf d 81 64
def chSize (d : Nat) : Nat := bitsOf d 49 32
def chSlots (d : Nat) : Nat := bitsOf d 31 28 + 1
def chShared (d : Nat) : Bool := bitOf d 27
def chValid (d : Nat) : Bool := bitOf d 26
def chPeerChan (d : Nat) : Nat := bitsOf d 25 22
def chPeerCore (d : Nat) : Nat := bitsOf d 21 19
def chPeerCluster (d : Nat) : Nat := bitsOf d 18 15
def chPeerChip (d : Nat) : Nat := bitsOf d 14 0

/-- The cells of an in-channel's slots. -/
def slotSpan (n d : Nat) : Span :=
  if chShared d then ⟨sharedCell (n / 8) (64 * chBase d), 64 * chSlots d * chSize d⟩
  else ⟨localCell n (64 * chBase d), 64 * chSlots d * chSize d⟩

/-! ### The check of the inactive bank (R61, Table 2.10) -/

/-- Entry indices of an image. -/
def entryRange (last : Nat) : List Nat := (List.range (last + 1)).drop 9

def hdrReservedOk (h : Nat) : Bool :=
  bitsOf h 511 160 == 0 && bitsOf h 63 52 == 0 && bitsOf h 31 26 == 0 && bitsOf h 15 8 == 0

def descReservedOk (d : Nat) : Bool := bitsOf d 127 82 == 0 && bitsOf d 63 50 == 0

/-- Reserved fields of an entry. A set bit of an alternative slot at or above the alternative count is RESERVED, in a HALT
entry too (DESIGN CHOICE, log entry 116). -/
def entryReservedOk (e : Nat) : Bool :=
  bitsOf e 34 18 == 0 &&
    (List.range 4).all (fun a => if a < enAltCount e then bitsOf (entryAlt e a) 42 0 == 0 else entryAlt e a == 0)

def entryKindOk (e : Nat) : Bool :=
  if enKind e = 1 then decide (enCtrSel e ≤ 4) && (enCtrSel e == 0 || enLimit e != 0)
  else if enKind e = 2 then e / 2 ^ 16 == 0
  else false

def entryIndexOk (last e : Nat) : Bool :=
  if enKind e = 2 then true
  else
    (List.range (enAltCount e)).all (fun a => decide (9 ≤ alNext (entryAlt e a) ∧ alNext (entryAlt e a) ≤ last)) &&
      (enCtrSel e == 0 || decide (9 ≤ enExit e ∧ enExit e ≤ last))

/-- The work block of an alternative. -/
def workSpan (n a : Nat) : Span := ⟨localCell n (64 * alPtr a), 8 * alLen a⟩

/-- A work block lies in local memory below the pattern banks and clear of every in-channel slot range; the pointer of an
empty block counts as one byte of it (DESIGN CHOICE, log entry 147). -/
def entryWorkOk (n : Nat) (slots : List Span) (e : Nat) : Bool :=
  if enKind e = 2 then true
  else
    (List.range (enAltCount e)).all (fun i =>
      let a := entryAlt e i
      decide (64 * alPtr a + 8 * alLen a ≤ 0xE0000) && slots.all (fun s => !overlaps (workSpan n a) s))

def inDescOk (d : Nat) : Bool :=
  if chValid d then
    chSize d != 0 && decide (chPeerCluster d ≤ 11) &&
      decide (64 * (chBase d + chSlots d * chSize d) ≤ if chShared d then 0x1000000 else 0xE0000)
  else d == 0

def outDescOk (d : Nat) : Bool :=
  if chValid d then chSize d != 0 && decide (chPeerCluster d ≤ 11) && chBase d == 0 && !chShared d else d == 0

/-- The load error of the image in a bank, in code order; 0 where every item holds. -/
def imageError (mem : Memory) (n bank width : Nat) : Nat :=
  let h := imgSlot mem n bank 0
  let last := phLast h
  let es := (entryRange last).map (imgSlot mem n bank)
  let ins := (List.range 16).map (inDesc mem n bank)
  let outs := (List.range 16).map (outDesc mem n bank)
  let slots := (ins.filter chValid).map (slotSpan n)
  if phRev h ≠ 1 ∨ crc32 (memRead mem (bankCell n bank + 64) (64 * last)) ≠ phCrc h then 1
  else if !(hdrReservedOk h && ins.all descReservedOk && outs.all descReservedOk && es.all entryReservedOk) then 2
  else if !(es.all entryKindOk) then 3
  else if !(decide (9 ≤ phStart h ∧ phStart h ≤ last) && es.all (entryIndexOk last)) then 4
  else if !(es.all (entryWorkOk n slots)) then 5
  else if !(ins.all inDescOk && outs.all outDescOk) then 6
  else if phWidth h ≠ 0 ∧ phWidth h ≠ width then 7
  else 0

namespace Mod

/-- The active pattern bank of a core. -/
def activeBank (m : Mod) (n : Nat) : Nat := m.fget (Fld.CORE_ACTIVE_BANK n)

/-- The presented width of a cluster's array. -/
def arrWidth (m : Mod) (g : Nat) : Nat := m.fget (Fld.ARR_WIDTH g)

/-- The header of a core's running pattern; zero where it has none. -/
def header (mem : Memory) (m : Mod) (n : Nat) : Nat :=
  if m.coreState n = 0 then 0 else imgSlot mem n (m.activeBank n) 0

def patternId (mem : Memory) (m : Mod) (n : Nat) : Nat := phId (m.header mem n)

/-- Descriptors of the running pattern; zero where the core has none. -/
def inChan (mem : Memory) (m : Mod) (n i : Nat) : Nat :=
  if m.coreState n = 0 then 0 else inDesc mem n (m.activeBank n) i
def outChan (mem : Memory) (m : Mod) (n j : Nat) : Nat :=
  if m.coreState n = 0 then 0 else outDesc mem n (m.activeBank n) j

/-- The check of a core's inactive bank ends (R61). It is the bank inactive at that moment that has been checked
(DESIGN CHOICE, log entry 147). -/
def validateDone (mem : Memory) (m : Mod) (n : Nat) : Mod :=
  if m.flag (Fld.CORE_VALIDATING n) then
    let err := if m.coreState n = 4 then 8 else imageError mem n (1 - m.activeBank n) (m.arrWidth (n / 8))
    let m1 := (m.fput (Fld.CORE_VALIDATING n) false).fput (Fld.CORE_INACTIVE_OK n) (err == 0)
    let m2 := m1.when (err != 0) (fun m => m.fset (Fld.CORE_LOAD_ERR n) err)
    m2.modCore n (fun c => { c with lastCheck := some err })
  else m

/-! ### Work-only memory and the pattern banks (R39, R51, R475) -/

/-- The work blocks of the pattern a core has switched in. -/
def workBlocks (mem : Memory) (m : Mod) (n : Nat) : List Span :=
  if m.coreState n = 1 ∨ m.coreState n = 2 ∨ m.coreState n = 3 then
    let b := m.activeBank n
    (entryRange (phLast (imgSlot mem n b 0))).flatMap (fun i =>
      let e := imgSlot mem n b i
      if enKind e = 1 then (List.range (enAltCount e)).map (fun a => workSpan n (entryAlt e a)) else [])
  else []

/-- Words of the last chosen work block are not yet issued; those cut off by a malformed word never will be, and do not
count for the finishing of a heat (DEDUCED, log entry 116). -/
def wordsLeft (m : Mod) (n : Nat) : Bool :=
  match (m.coreSt n).choice with
  | some c => !c.stopped && decide (c.next < c.workLen)
  | none => false

/-- Words of the last chosen work block have not been issued, whether or not they ever will be (R51). -/
def blockUnissued (m : Mod) (n : Nat) : Bool :=
  match (m.coreSt n).choice with
  | some c => decide (c.next < c.workLen)
  | none => false

/-- A cell's core and offset in its local memory, where it lies in one. -/
def localOf (c : Nat) : Option (Nat × Nat) :=
  let o := c % 2 ^ 49
  if sramBase ≤ o ∧ o < sramBase + 0x30000000 then
    let w := (o - sramBase) % 0x4000000
    if 0x2000000 ≤ w ∧ w < 0x2800000 then
      some ((c / 2 ^ 49 * 12 + (o - sramBase) / 0x4000000) * 8 + (w - 0x2000000) / 0x100000, w % 0x100000)
    else none
  else none

/-- A write to a byte is dropped with ACCESS_DENIED: `host` says it is host-directed. -/
def byteDenied (m : Mod) (host : Bool) (blocks : List Span) (n o c : Nat) : Bool :=
  if 0xE0000 ≤ o then
    if (o - 0xE0000) / 0x10000 = m.activeBank n then true else !host
  else
    blocks.any (fun b => overlaps b ⟨c, 1⟩) &&
      (!host || m.coreState n == 1 || m.blockUnissued n)

/-- A write has landed in a core's inactive bank: its last check no longer stands (R61). -/
def bankTouched (m : Mod) (n : Nat) : Mod :=
  (m.fput (Fld.CORE_INACTIVE_OK n) false).modCore n (fun c => { c with lastCheck := none })

/-- Write bytes to the module's memory as a unit, or as a host-directed transfer: bytes of an active bank, of an
inactive bank (for a unit) and of work-only memory are dropped, and the other bytes land (DEDUCED, log entry 116). The
flag says that some byte was dropped. -/
def store (mem : Memory) (m : Mod) (host : Bool) (c : Nat) (bytes : List Byte) : Memory × Mod × Bool :=
  match localOf c with
  | none => (memWrite mem c bytes, m, false)
  | some (n, _) =>
    let blocks := workBlocks mem m n
    let step := fun (p : (Memory × Mod × Bool) × Nat) (b : Byte) =>
      let o := (localOf p.2).map (·.2) |>.getD 0
      if byteDenied m host blocks n o p.2 then ((p.1.1, p.1.2.1, true), p.2 + 1)
      else ((tabPut noByte p.1.1 p.2 b, if 0xE0000 ≤ o then p.1.2.1.bankTouched n else p.1.2.1, p.1.2.2), p.2 + 1)
    (bytes.foldl step ((mem, m, false), c)).1

/-! ### Relocation (R50) -/

/-- Where a source cell of a core's work word is read: an address within an in-channel's slot range is taken modulo
the slot size into the slot of the message taken. In the slots of a channel from which no message was taken it stays as
it is (DEDUCED, log entry 116). -/
def relocate (mem : Memory) (m : Mod) (n c : Nat) : Nat :=
  match (m.coreSt n).choice with
  | none => c
  | some ch =>
    match ch.taken.find? (fun t =>
        let d := m.inChan mem n t.1
        chValid d && overlaps (slotSpan n d) ⟨c, 1⟩) with
    | none => c
    | some (i, slot) =>
      let d := m.inChan mem n i
      let s := slotSpan n d
      s.addr + slot * (64 * chSize d) + (c - s.addr) % (64 * chSize d)

end Mod
end Sys2Proof.Machine
end

