-- ==== Sys2Proof/Machine/Random.lean ====
section
/-!
DEFINITION. The generator of every random bit (R135, R136): Philox4x32-10 under the job seed, and the draw of an
element.
-/

namespace Sys2Proof.Machine

open Sys2Proof

/-- One round: words c0 to c3 and keys k0, k1. -/
def philoxRound (c : Nat × Nat × Nat × Nat) (k0 k1 : Nat) : Nat × Nat × Nat × Nat :=
  let p0 := 0xD2511F53 * c.1
  let p1 := 0xCD9E8D57 * c.2.2.1
  (Nat.xor (Nat.xor (p1 / 2 ^ 32) c.2.1) k0, p1 % 2 ^ 32, Nat.xor (Nat.xor (p0 / 2 ^ 32) c.2.2.2) k1, p0 % 2 ^ 32)

/-- `k` rounds. -/
def philoxRounds : Nat → Nat × Nat × Nat × Nat → Nat → Nat → Nat × Nat × Nat × Nat
  | 0, c, _, _ => c
  | k + 1, c, k0, k1 => philoxRounds k (philoxRound c k0 k1) ((k0 + 0x9E3779B9) % 2 ^ 32) ((k1 + 0xBB67AE85) % 2 ^ 32)

/-- Word `w` of philox(seed, counter) (R135). -/
def philoxWord (seed ctr w : Nat) : Nat :=
  let r := philoxRounds 10 (bitsOf ctr 31 0, bitsOf ctr 63 32, bitsOf ctr 95 64, bitsOf ctr 127 96)
    (bitsOf seed 31 0) (bitsOf seed 63 32)
  if w = 0 then r.1 else if w = 1 then r.2.1 else if w = 2 then r.2.2.1 else r.2.2.2

/-- The draw of the element with global index `i` (R104, R136, Table 6.7). -/
def drawAt (seed step purpose mb i : Nat) : Nat :=
  let j := i % 2 ^ 64
  philoxWord seed (step % 2 ^ 32 * 2 ^ 96 + purpose % 2 ^ 16 * 2 ^ 80 + mb % 2 ^ 16 * 2 ^ 64 + j / 4) (j % 4)

/-- The job seed in force (R141). -/
def Mod.seed (m : Mod) : Nat := m.base64 Reg.NUM_SEED_LO

end Sys2Proof.Machine
end

