-- ==== Sys2Proof/Machine/Operands.lean ====
section
/-!
DEFINITION. Tensor operands: rows at a pitch in shared or local memory, tiles in the transposing buffer (R76 to R79,
R129), stored as they are or transposed; reading one into exact values and writing one through a conversion.
-/

namespace Sys2Proof.Machine

open Sys2Proof

/-- Bytes a work word can reach in a space: shared memory, the data region of a local memory (R475), the buffer. -/
def spaceBytes (space : Nat) : Nat := if space = 0 then 0x1000000 else if space = 1 then 0xE0000 else 0x200000

/-- First cell of a space as core `n` sees it. -/
def spaceCell (n space : Nat) : Nat :=
  if space = 0 then sharedCell (n / 8) 0 else if space = 1 then localCell n 0 else transCell (n / 8) 0

/-- 64-byte units of a tile of a format (Table 3.1); a 32-bit word is as wide as binary32. -/
def tileUnits (code : Nat) : Nat :=
  match code with
  | 1 => 64
  | 2 => 32
  | 3 => 32
  | 4 => 16
  | 5 => 16
  | 6 => 8
  | 7 => 16
  | 8 => 8
  | 9 => 24
  | 10 => 12
  | _ => 64

/-- A tensor operand: element format and zero point, whether it is stored transposed, whether it is tiled, the cell of
its first row or first tile, and its pitch (rows: 64-byte units; tiles: tile columns). -/
structure Operand where
  fmt : Nat
  zp : Int := 0
  t : Bool
  tiled : Bool
  at_ : Nat
  pitch : Nat
deriving DecidableEq, Repr

/-- Rows and columns as stored. -/
def storedShape (t : Bool) (rows cols : Nat) : Nat × Nat := if t then (cols, rows) else (rows, cols)

/-- Bytes from the first byte of a stored tensor to the end of its last row or tile. -/
def storedBytes (fmt pitch : Nat) (tiled : Bool) (sr sc : Nat) : Nat :=
  if tiled then ((sr - 1) / 32 * pitch + (sc - 1) / 32 + 1) * tileUnits fmt * 64
  else (sr - 1) * pitch * 64 + rowBytes fmt sc

/-- Runs of stored row `k` of `n` columns: the cell each starts at, its first column and its length (R77). -/
def Operand.runs (o : Operand) (k n : Nat) : List (Nat × Nat × Nat) :=
  if o.tiled then
    (List.range ((n + 31) / 32)).map (fun t =>
      (o.at_ + (k / 32 * o.pitch + t) * tileUnits o.fmt * 64 + k % 32 * (tileUnits o.fmt * 2), 32 * t, min 32 (n - 32 * t)))
  else [(o.at_ + k * o.pitch * 64, 0, n)]

/-- The stretch of memory an operand of a logical shape covers. -/
def Operand.span (o : Operand) (rows cols : Nat) : Span :=
  let s := storedShape o.t rows cols
  ⟨o.at_, storedBytes o.fmt o.pitch o.tiled s.1 s.2⟩

/-- Stored row `k`, as exact values. -/
def Operand.readRow (mem : Memory) (o : Operand) (k n : Nat) : List Val :=
  (o.runs k n).flatMap (fun r => decodeRun o.fmt o.zp (memRead mem r.1 (rowBytes o.fmt r.2.2)) r.2.2)

/-- Columns of a grid as rows. -/
def transposeGrid {α : Type} (d : α) (cols : Nat) (g : List (List α)) : List (List α) :=
  (List.range cols).map (fun c => g.map (fun row => row.getD c d))

/-- The operand in its logical shape (R77, R78). -/
def Operand.read (mem : Memory) (o : Operand) (rows cols : Nat) : List (List Val) :=
  let s := storedShape o.t rows cols
  let g := (List.range s.1).map (fun k => o.readRow mem k s.2)
  if o.t then transposeGrid valZero rows g else g

/-- Element (r, c) of a grid. -/
def gridAt (g : List (List Val)) (r c : Nat) : Val := (g.getD r []).getD c valZero

/-- What a conversion of a tensor is written under: the specifier, the index of logical element (0, 0), the index step
per logical row, the bound step and micro-batch, and the seed (R104, R137). -/
structure ConvCtx where
  spec : Nat
  gbase : Nat
  gpitch : Nat
  step : Nat
  mb : Nat
  seed : Nat
deriving DecidableEq, Repr

/-- The rounding of logical element (r, c). -/
def ConvCtx.mode (x : ConvCtx) (r c : Nat) : Rounding :=
  cvMode x.spec (drawAt x.seed x.step (cvPurpose x.spec) x.mb (x.gbase + r * x.gpitch + c))

/-- Where a write of bytes stands: memory, module, whether a byte was dropped, and the tally so far. -/
structure Writing where
  mem : Memory
  m : Mod
  denied : Bool := false
  tally : Tally := {}

/-- Write bytes as a unit (R39, R51). -/
def Writing.put (w : Writing) (cell : Nat) (bytes : List Byte) : Writing :=
  let r := w.m.store w.mem false cell bytes
  { w with mem := r.1, m := r.2.1, denied := w.denied || r.2.2 }

/-- Convert and write one run of values. -/
def Writing.convPut (w : Writing) (spec cell : Nat) (vals : List Val) (modes : List Rounding) : Writing :=
  let r := convRun spec vals modes (memRead w.mem cell (rowBytes (cvFmt spec) vals.length)) cell
  let w1 := w.put cell r.1
  { w1 with tally := w1.tally.add r.2 }

/-- Convert a logical grid into its operand. -/
def Writing.grid (w : Writing) (o : Operand) (x : ConvCtx) (rows cols : Nat) (g : List (List Val)) : Writing :=
  let s := storedShape o.t rows cols
  (List.range s.1).foldl (fun w k =>
    (o.runs k s.2).foldl (fun w r =>
      let rc := fun j => if o.t then (r.2.1 + j, k) else (k, r.2.1 + j)
      w.convPut x.spec r.1 ((List.range r.2.2).map (fun j => gridAt g (rc j).1 (rc j).2))
        ((List.range r.2.2).map (fun j => x.mode (rc j).1 (rc j).2))) w) w

/-- Write a logical grid of 32-bit words. -/
def Writing.words (w : Writing) (o : Operand) (rows cols : Nat) (g : List (List Nat)) : Writing :=
  let s := storedShape o.t rows cols
  (List.range s.1).foldl (fun w k =>
    (o.runs k s.2).foldl (fun w r =>
      w.put r.1 ((List.range r.2.2).flatMap (fun j =>
        leBytes 4 (if o.t then (g.getD (r.2.1 + j) []).getD k 0 else (g.getD k []).getD (r.2.1 + j) 0)))) w) w

end Sys2Proof.Machine
end

