-- ==== Sys2Proof/Machine/Guard.lean ====
section
/-!
DEFINITION. The numerical guard (05_numerical_guard.md): conversion counters, guard records and the step verdict, the
loss scale, the underflow watch, and the writes of the NUM_ block (with R141 of 06_vector_and_random.md).
-/

namespace Sys2Proof.Machine

open Sys2Proof

/-- Step `a` is later than step `b`, in serial order modulo 2^32. -/
def laterStep (a b : Nat) : Bool :=
  let d := (a + (2 ^ 32 - b % 2 ^ 32)) % 2 ^ 32
  decide (0 < d ∧ d < 2 ^ 31)

/-- The engine whose conversions are counted (R107): a unit of a die, or the hub. -/
inductive Engine where
  | die (d : Nat)
  | hub
deriving DecidableEq, Repr

/-- Counter `i` of an engine (Table 5.6). -/
def Engine.ctr (e : Engine) (i : Nat) : Nat :=
  match e with
  | .die d => Reg.NUM_DIE_CTR d i
  | .hub => Reg.NUM_HUB_CTR i

namespace Mod

/-! ### The loss scale (R115, R116) -/

/-- LE of a step that nothing has set: 16, brought within NUM_LS_MIN to NUM_LS_MAX. -/
def leDefault (m : Mod) : Nat := min (max 16 (m.fget Fld.NUM_LS_MIN)) (m.fget Fld.NUM_LS_MAX)

/-- The latest step that has an exponent, with it. -/
def latestLe (m : Mod) : Nat × Nat :=
  match m.num.les with
  | [] => (0, m.leDefault)
  | e :: es => es.foldl (fun a b => if laterStep b.1 a.1 then b else a) e

/-- A step has no verdict two steps before it to wait for: no verdicts are formed, or the step is at or before the one
after the first bound (R115). -/
def leFree (m : Mod) (s : Nat) : Bool :=
  !m.flag Fld.NUM_GUARD_EN || (match m.num.first with | some f => !laterStep s (f + 1) | none => true)

/-- LE of a step: what a verdict, a write or a restore gave it, else 16 as long as no verdict can give it one; none while
the verdict of the step two before it is still to be formed (R115; DEDUCED, log entry 117). -/
def leOf (m : Mod) (s : Nat) : Option Nat :=
  match m.num.les.find? (fun e => e.1 == s % 2 ^ 32) with
  | some e => some e.2
  | none => if m.leFree (s % 2 ^ 32) then some m.leDefault else none

/-- NUM_LS_NOW, its step and NUM_LS_AT_MIN show the latest exponent. -/
def showLe (m : Mod) : Mod :=
  let e := m.latestLe
  ((m.wrN Reg.NUM_LS_NOW e.2).wrN Reg.NUM_LS_NOW_STEP e.1).fput Fld.NUM_LS_AT_MIN (e.2 == m.fget Fld.NUM_LS_MIN)

/-- Give a step its exponent. -/
def putLe (m : Mod) (s le : Nat) : Mod :=
  { m with num := { m.num with les := (s % 2 ^ 32, le) :: m.num.les.filter (fun e => e.1 != s % 2 ^ 32) } }

/-- Give a step its exponent where nothing has given it one. -/
def newLe (m : Mod) (s le : Nat) : Mod :=
  if m.num.les.any (fun e => e.1 == s % 2 ^ 32) then m else m.putLe s le

/-- The first step bound and the next get the exponent 16 where nothing has given them one (R115). -/
def bindStep (m : Mod) (s : Nat) : Mod :=
  if m.num.first.isSome then m
  else
    (({ m with num := { m.num with first := some (s % 2 ^ 32) } }).newLe s m.leDefault |>.newLe (s + 1) m.leDefault).showLe

/-- Work bound to a step has read an exponent (R116). -/
def noteLeRead (m : Mod) (s : Nat) : Mod :=
  match m.num.leRead with
  | some t => if laterStep s t then { m with num := { m.num with leRead := some s } } else m
  | none => { m with num := { m.num with leRead := some s } }

/-- The next exponent, once the verdict of a step stands (R115). -/
def nextLe (m : Mod) (s : Nat) (skip : Bool) : Mod :=
  let cur := (m.leOf (s + 1)).getD m.latestLe.2
  let lo := m.fget Fld.NUM_LS_MIN
  let grow := m.fget Fld.NUM_LS_GROW
  if skip then
    let m1 := ({ m with num := { m.num with clean := 0 } }).newLe (s + 2) (max (cur - 1) lo)
    (m1.when (decide (cur ≤ lo)) (fun m => m.postModule 0x124 (leBytes 4 s ++ leBytes 1 lo))).showLe
  else if grow ≠ 0 ∧ m.num.clean + 1 = grow then
    (({ m with num := { m.num with clean := 0 } }).newLe (s + 2) (min (cur + 1) (m.fget Fld.NUM_LS_MAX))).showLe
  else (({ m with num := { m.num with clean := m.num.clean + 1 } }).newLe (s + 2) cur).showLe

/-- An exponent set for step S is accepted only if no work of S or later has read one (R116). -/
def lsSetOk (m : Mod) (v : Word) : Bool :=
  let s := m.rdN Reg.NUM_LS_SET_STEP
  decide (m.fget Fld.NUM_LS_MIN ≤ wordBits v 7 0 ∧ wordBits v 7 0 ≤ m.fget Fld.NUM_LS_MAX) &&
    (match m.num.leRead with
    | some t => laterStep s t
    | none => true)

/-! ### Guard records (R111) -/

def guardRec (m : Mod) (s : Nat) : Option GuardRec := tabGet (fun _ => none) m.num.recs (s % 8)
def setRec (m : Mod) (s : Nat) (r : Option GuardRec) : Mod :=
  { m with num := { m.num with recs := tabPut (fun _ => none) m.num.recs (s % 8) r } }

/-- A verdict of a step stands. -/
def verdictOf (m : Mod) (s : Nat) : Option Verdict := m.num.verdicts.find? (fun v => v.step == s % 2 ^ 32)

/-- The step close of a step has taken its record and accumulators (R294). -/
def closeTaken (m : Mod) (s : Nat) : Bool := m.col.taken.contains (s % 2 ^ 32)

/-- Add the blocks, flagged blocks and non-finite sources of guarded writes of a step to its record; a write that comes
after the record was handed off or reused counts in none (R111, R294). -/
def addRecord (m : Mod) (s b f n : Nat) : Mod :=
  match m.guardRec s with
  | none =>
    if m.closeTaken s || (m.verdictOf s).isSome then m.inc Reg.COL_LATE_ADD else m.setRec s (some ⟨s, b, f, n⟩)
  | some r =>
    if r.step = s then m.setRec s (some ⟨s, r.b + b, r.f + f, r.n + n⟩)
    else if m.closeTaken s then m.inc Reg.COL_LATE_ADD
    else if laterStep s r.step then
      let m1 := ({ m with num := { m.num with forced := m.num.forced ++ [r.step] } }).inc Reg.NUM_GUARD_OVERRUN
      (m1.postModule 0x122 (leBytes 4 r.step ++ leBytes 4 s)).setRec s (some ⟨s, b, f, n⟩)
    else m.inc Reg.COL_LATE_ADD

/-! ### The underflow watch (R122, R123) -/

def watchSt (m : Mod) (w : Nat) : Option WatchSt := tabGet (fun _ => none) m.num.watch w
def setWatch (m : Mod) (w : Nat) (x : Option WatchSt) : Mod :=
  { m with num := { m.num with watch := tabPut (fun _ => none) m.num.watch w x } }

/-- NUM_WS_ALARM of a slot, and NUM_UF_ANY with it. -/
def putAlarm (m : Mod) (w : Nat) (on : Bool) : Mod :=
  if m.flag (Fld.NUM_WS_ALARM w) = on then m
  else
    let k := if on then m.num.alarms + 1 else m.num.alarms - 1
    (({ m with num := { m.num with alarms := k } }).fput (Fld.NUM_WS_ALARM w) on).fput Fld.NUM_UF_ANY (k != 0)

/-- The silent count of a slot. -/
def silentCount (m : Mod) (w : Nat) : Nat := bitsOf (m.rdN (Reg.NUM_WATCH_STATE w)) 15 0

/-- A slot's step closes. -/
def closeStep (m : Mod) (w : Nat) (quiet : Bool) : Mod :=
  let cnt : Field := ⟨Reg.NUM_WATCH_STATE w, 15, 0⟩
  if quiet then
    let c := m.silentCount w + 1
    if 65535 < c then m
    else
      let m1 := m.fset cnt c
      let lim := bitsOf (m.rdN Reg.NUM_UF_LIMIT) 15 0
      if c % lim = 0 then (m1.putAlarm w true).postModule 0x126 (leBytes 2 w ++ leBytes 4 c) else m1
  else (m.fset cnt 0).putAlarm w false

/-- Writes of a step under a slot. -/
def watchWrite (m : Mod) (w s : Nat) (quiet : Bool) : Mod :=
  match m.watchSt w with
  | none => m.setWatch w (some ⟨s, quiet⟩)
  | some x =>
    if x.step = s then m.setWatch w (some ⟨s, x.quiet && quiet⟩)
    else if laterStep s x.step then (m.closeStep w x.quiet).setWatch w (some ⟨s, quiet⟩)
    else m

/-- A slot's state is cleared (R106). -/
def clearWatch (m : Mod) (w : Nat) : Mod :=
  ((m.putAlarm w false).wr (Reg.NUM_WATCH_STATE w) 0).setWatch w none

/-! ### Accounting for the writes of a unit (R106, R107, R108) -/

/-- The counters of an engine take a tally. -/
def countTally (m : Mod) (e : Engine) (t : Tally) : Mod :=
  ((((((m.addSat (e.ctr 0) t.sat).addSat (e.ctr 1) t.clamp).addSat (e.ctr 2) t.nan2num).addSat (e.ctr 3)
    t.nonfinite).addSat (e.ctr 4) t.ovf).addSat (e.ctr 5) t.limit).addSat (e.ctr 6) t.repair

/-- The die whose chip a BLOCK_SCALE_LIMIT event names; of the hub's engines it is the die that the address written to
names (DESIGN CHOICE, log entry 154). -/
def engineDie (e : Engine) (cell : Nat) : Nat :=
  match e with
  | .die d => d
  | .hub => cell / 2 ^ 49

/-- Account for the converted writes of a unit, under a watch slot and bound to a step. -/
def account (m : Mod) (e : Engine) (slot step : Nat) (t : Tally) : Mod :=
  let s := step % 2 ^ 32
  let m1 := m.countTally e t
  let m2 := t.limitAt.foldl (fun m c => m.postDie 0x121 (engineDie e c)
    (leBytes 4 s ++ leBytes 8 (slot * 2 ^ 54 + c % 2 ^ 49))) m1
  if slot = 0 ∨ !m.flag (Fld.NUM_WS_EN slot) ∨ t.elems = 0 then m2
  else
    let m3 := if m.flag (Fld.NUM_WS_GUARD slot) && m.flag Fld.NUM_GUARD_EN then m2.addRecord s t.blocks t.flagged t.bad
      else m2
    m3.watchWrite slot s (t.loud == 0)

/-! ### The step verdict (R112, R113) -/

/-- Whether the combined record asks for a skip, and the cause. -/
def verdictOn (m : Mod) (b f n : Nat) (forced : Bool) : Bool × Nat :=
  let frac := bitsOf (m.rdN Reg.NUM_SKIP_FRAC) 15 0
  if !m.flag Fld.NUM_GUARD_EN then (false, 0)
  else if forced then (true, 3)
  else if n ≠ 0 then (true, 1)
  else if frac * b < f * 65536 then (true, 2)
  else (false, 0)

/-- A step's verdict is entered: registers, events and the next exponent. -/
def enterVerdict (m : Mod) (v : Verdict) (b f n : Nat) : Mod :=
  let m1 := { m with num := { m.num with
    verdicts := v :: m.num.verdicts.filter (fun x => x.step != v.step)
    forced := m.num.forced.filter (· != v.step) } }
  let m2 := m1.wrN Reg.NUM_VERDICT_STEP v.step
  let m3 := m2.wrN Reg.NUM_VERDICT
    ((if v.skip then v.cause else bitsOf (m2.rdN Reg.NUM_VERDICT) 9 8) * 256 + (if v.skip then 1 else 0))
  let m4 := m3.when v.skip (fun m => (m.inc Reg.NUM_SKIP_COUNT).postModule 0x123
    (leBytes 4 v.step ++ leBytes 1 v.cause ++ leBytes 4 (min f (2 ^ 32 - 1)) ++ leBytes 4 (min b (2 ^ 32 - 1)) ++
      leBytes 1 (min n 255)))
  m4.nextLe v.step v.skip

/-! ### Writes of the NUM_ block (R106, R116, R127, R141) -/

/-- Slot of an offset of NUM_WATCH_CFG. -/
def watchOfOff (off : Nat) : Option Nat := (rowIndex (Reg.NUM_WATCH_CFG 1) 8 1023 off).map (· + 1)

/-- No core of the module is RUNNING or HELD. -/
def noCoreBusy (m : Mod) : Bool := (List.range 384).all (fun n => m.coreState n != 1 && m.coreState n != 2)

/-- The checks of the NUM_ block. -/
def numCheck (m : Mod) (off : Nat) (v : Word) : Nat :=
  let x := v.toNat
  if off = Reg.NUM_CTRL then if bitsOf x 12 8 ≤ 20 then stOk else stMalformed
  else if off = Reg.NUM_LS_CFG then
    if bitsOf x 15 8 ≤ 60 ∧ bitsOf x 7 0 ≤ bitsOf x 15 8 then stOk else stMalformed
  else if off = Reg.NUM_SHADOW_CFG then
    let ok := fun hi lo => decide (8 ≤ bitsOf x hi lo ∧ bitsOf x hi lo ≤ 23)
    if bitsOf x 23 16 ≠ 0 ∧ (ok 14 10 && ok 9 5 && ok 4 0) = true then stOk else stMalformed
  else if off = Reg.NUM_UF_LIMIT then if bitsOf x 15 0 ≠ 0 then stOk else stMalformed
  else if off = Reg.NUM_LS_SET then
    if m.flag Fld.CAST_RS_LOCKED then stAccessDenied else if bitOf x 31 && !m.lsSetOk v then stMalformed else stOk
  else if off = Reg.NUM_SEED_LO then if m.flag Fld.CAST_RS_LOCKED then stAccessDenied else stOk
  else if off = Reg.NUM_SEED_HI then if m.noCoreBusy && !m.flag Fld.CAST_RS_LOCKED then stOk else stAccessDenied
  else stOk

/-- The effect of an accepted write of the NUM_ block. -/
def numEffect (m : Mod) (off : Nat) (v : Word) : Mod :=
  if off = Reg.NUM_CTRL ∨ off = Reg.NUM_SKIP_FRAC ∨ off = Reg.NUM_LS_CFG ∨ off = Reg.NUM_SHADOW_CFG ∨
      off = Reg.NUM_UF_LIMIT ∨ (watchOfOff off).isSome then
    m.holdWrite off 0xFFFFFFFF v
  else if off = Reg.NUM_LS_SET then
    if bitOf v.toNat 31 then
      let s := m.rdN Reg.NUM_LS_SET_STEP
      let le := wordBits v 7 0
      ((m.wrN Reg.NUM_LS_SET le).putLe s le |>.putLe (s + 1) le).showLe
    else m.regStore off v
  else if off = Reg.NUM_SEED_HI then
    (m.regStore off v).setBase64 Reg.NUM_SEED_LO (m.rdN Reg.NUM_SEED_LO + 2 ^ 32 * v.toNat)
  else m.regStore off v

/-- What a held write of the NUM_ block brings about when it takes effect: a changed slot forgets its state. -/
def numApplied (m : Mod) (off : Nat) (old : Word) : Mod :=
  match watchOfOff off with
  | some w => if m.rd off = old then m else m.clearWatch w
  | none => if off = Reg.NUM_LS_CFG then m.showLe else m

end Mod
end Sys2Proof.Machine
end

