-- ==== Sys2Proof/Machine/Host.lean ====
section
/-!
DEFINITION. The host port (15_host_interface.md) and the rings, records and events of 16_descriptors_and_records.md:
writes of the HIF_ block, steps 4 and 5 of the boundary window, the host map and peer probes.
-/

namespace Sys2Proof.Machine

open Sys2Proof

/-- Modulo-2^32 difference of two counts (R333). -/
def diff32 (a b : Nat) : Nat := (a + 2 ^ 32 - b) % 2 ^ 32

/-- The two write requests of a record: bytes 0 to 30, then byte 31 (R327). -/
def recordWrites (addr : Nat) (rec : List Byte) : List HostWrite :=
  [⟨addr, rec.take 31, false, .record⟩, ⟨addr + 31, rec.drop 31, false, .record⟩]

/-- The bytes of a completion record (Table 16.8), its phase bit given. -/
def compBytes (c : CompRec) (phase : Bool) : List Byte :=
  leBytes 8 c.time ++ leBytes 6 c.heat ++ leBytes 1 c.status ++ leBytes 1 c.err ++ leBytes 8 c.tag ++ leBytes 4 c.index
    ++ leBytes 1 c.ring ++ leBytes 1 c.kind ++ [0] ++ [if phase then 0x80 else 0]

/-- The bytes of an event record (Table 16.9), its phase bit given. -/
def eventBytes (e : EvRec) (phase : Bool) : List Byte :=
  leBytes 8 e.time ++ leBytes 6 e.heat ++ padBytes 14 e.data
    ++ leBytes 4 ((if phase then 2 ^ 31 else 0) + e.code % 512 * 2 ^ 22 + e.chip % 2 ^ 15 * 2 ^ 7
        + e.cluster % 16 * 8 + e.core % 8)

/-- The block whose mask bit an event type has (R306, R328). -/
def eventBlock (code : Nat) : Nat := code / 32

/-- Completions come in order of heat, then module time, then CP_INDEX (R332). -/
def compBefore (a b : CompRec) : Bool :=
  decide (a.heat < b.heat) || (a.heat == b.heat && (decide (a.time < b.time) ||
    (a.time == b.time && decide (a.index ≤ b.index))))

/-- Events come in order of heat, then module time, then EV_CODE, then EV_CHIP (R332). -/
def evBefore (a b : EvRec) : Bool :=
  decide (a.heat < b.heat) || (a.heat == b.heat && (decide (a.time < b.time) ||
    (a.time == b.time && (decide (a.code < b.code) || (a.code == b.code && decide (a.chip ≤ b.chip))))))

/-- Put an element into its place in an ordered list, after its equals. -/
def insertBy {α : Type} (le : α → α → Bool) (x : α) : List α → List α
  | [] => [x]
  | y :: ys => if le y x then y :: insertBy le x ys else x :: y :: ys

/-- Order a list, equal elements keeping their order. -/
def orderBy {α : Type} (le : α → α → Bool) (xs : List α) : List α := xs.foldl (fun acc x => insertBy le x acc) []

/-- The cast state of CAST_STATUS (Table 20.8), a code of Table 20.1. -/
def castStateField : Field := ⟨Reg.CAST_STATUS, 31, 28⟩

/-- The status of the last cast. -/
def castLastField : Field := ⟨Reg.CAST_STATUS, 7, 0⟩

/-- The host part of a cast waits. -/
def castHostField : Field := ⟨Reg.CAST_STATUS, 26, 26⟩

namespace Mod

def castState (m : Mod) : Nat := m.fget castStateField

/-! ### Writes toward the host (R350, R358) -/

/-- Bytes held in the retention buffer. -/
def retainedBytes (m : Mod) : Nat := m.hub.retained.foldl (fun n w => n + w.bytes.length) 0

/-- HIF_RETAIN_KIB: KiB retained, rounded up, at most the buffer's 64 MiB; what lies beyond waits at its issuer. -/
def showRetained (m : Mod) : Mod := m.wrN Reg.HIF_RETAIN_KIB (min ((m.retainedBytes + 1023) / 1024) 65536)

/-- Writes toward the host are discarded as they are issued: the retention time has passed (R358). -/
def discarding (m : Mod) : Bool := m.detached && m.hub.retainOver

/-- A record finds the retention buffer of 64 MiB full and waits at its issuer (R350). -/
def recordWaits (m : Mod) : Bool := m.detached && !m.hub.retainOver && decide (65536 * 1024 < m.retainedBytes + 32)

/-- A write issued toward the host port: sent, or retained while detached, or discarded once the retention time has
passed. What finds the buffer full waits at its issuer, behind the writes in the buffer and in the same order (R350): it
stands in the list after them. -/
def toHost (m : Mod) (w : HostWrite) : Mod :=
  if m.detached then
    if m.hub.retainOver then m
    else
      let m1 := { m with hub := { m.hub with retained := m.hub.retained ++ [w] } }
      (m1.when (m.fget Fld.HIF_RETAIN_RESULT == 0) (fun m => m.fset Fld.HIF_RETAIN_RESULT 1)).showRetained
  else m.emit (.host w)

def toHostAll (m : Mod) (ws : List HostWrite) : Mod := ws.foldl (fun m w => m.toHost w) m

/-! ### Rings -/

def sqOn (m : Mod) (r : Nat) : Bool := m.flag (Fld.HIF_SQ_EN r)
def sqSize (m : Mod) (r : Nat) : Nat := 2 ^ m.fget (Fld.HIF_SQ_LOG2 r)
def sqCq (m : Mod) (r : Nat) : Nat := m.fget (Fld.HIF_SQ_CQ r)
def cqSize (m : Mod) (q : Nat) : Nat := 2 ^ m.fget (Fld.HIF_CQ_LOG2 q)
def erSize (m : Mod) (e : Nat) : Nat := 2 ^ m.fget (Fld.HIF_ER_LOG2 e)

/-- Accepted descriptors of a submission ring whose records are not yet posted. -/
def sqDue (m : Mod) (r : Nat) : Nat :=
  (m.hub.rings.filter (·.ring == r)).length + (m.comps.filter (·.ring == r)).length

/-- Accepted descriptors, from every submission ring naming a completion ring, whose records are not yet posted
(w of R331). -/
def cqDue (m : Mod) (q : Nat) : Nat :=
  (List.range 64).foldl (fun n r => if m.sqCq r = q then n + m.sqDue r else n) 0

/-- Free space of a completion ring as step 5 takes it (R331); a ring not enabled has none (log entry 12). -/
def cqFree (m : Mod) (q : Nat) : Nat :=
  if m.flag (Fld.HIF_CQ_EN q) then
    m.cqSize q - diff32 (m.rdN (Reg.HIF_CQ_POSTED q)) (m.rdN (Reg.HIF_CQ_SEEN q)) - m.cqDue q
  else 0

/-- HIF_SQ_ACTIVE clears when every accepted descriptor of the ring has its record posted (R308). -/
def settleSq (m : Mod) (r : Nat) : Mod := m.when (m.sqDue r == 0) (fun m => m.fput (Fld.HIF_SQ_ACTIVE r) false)

/-- A completion ring of the ended session loses its enable once no record is due to it (R352). -/
def settleCq (m : Mod) (q : Nat) : Mod :=
  if tabGet (fun _ => false) m.hub.cqEnded q && m.cqDue q == 0 then
    ({ m with hub := { m.hub with cqEnded := tabPut (fun _ => false) m.hub.cqEnded q false } }).fput (Fld.HIF_CQ_EN q) false
  else m

def settleRings (m : Mod) : Mod :=
  (List.range 64).foldl (fun m k => (m.settleSq k).settleCq k) m

/-! ### Step 4 (R327 to R332) -/

/-- Post one completion record; a record due to a completion ring that is not enabled is void (R352, R357), and one that
the retention buffer has no room for waits (R350). -/
def postComp (m : Mod) (c : CompRec) : Mod :=
  let q := m.sqCq c.ring
  if m.recordWaits then { m with comps := m.comps ++ [c] }
  else if m.flag (Fld.HIF_CQ_EN q) then
    let p := m.rdN (Reg.HIF_CQ_POSTED q)
    let addr := m.base64 (Reg.HIF_CQ_BASE_LO q) + 32 * (p % m.cqSize q)
    let m1 := m.toHostAll (recordWrites addr (compBytes c (p / m.cqSize q % 2 == 0)))
    (m1.addMod (Reg.HIF_CQ_POSTED q) 1).addMod (Reg.HIF_SQ_DONE c.ring) 1
  else m

/-- Write one event into an event ring's next slot. -/
def putEvent (m : Mod) (e : Nat) (ev : EvRec) : Mod :=
  let p := m.rdN (Reg.HIF_ER_POSTED e)
  let addr := m.base64 (Reg.HIF_ER_BASE_LO e) + 32 * (p % m.erSize e)
  (m.toHostAll (recordWrites addr (eventBytes ev (p / m.erSize e % 2 == 0)))).addMod (Reg.HIF_ER_POSTED e) 1

def erFree (m : Mod) (e : Nat) : Nat :=
  m.erSize e - diff32 (m.rdN (Reg.HIF_ER_POSTED e)) (m.rdN (Reg.HIF_ER_SEEN e))

def erTakes (m : Mod) (e : Nat) (ev : EvRec) : Bool :=
  m.flag (Fld.HIF_ER_EN e) && bitOf (m.rdN (Reg.HIF_ER_MASK e)) (eventBlock ev.code)

def erLostCount (m : Mod) (e : Nat) : Nat := tabGet (fun _ => 0) m.hub.erLost e
def setErLost (m : Mod) (e n : Nat) : Mod := { m with hub := { m.hub with erLost := tabPut (fun _ => 0) m.hub.erLost e n } }

/-- EVENTS_LOST, at the step 4 that finds a free slot (R331). -/
def postLost (m : Mod) (e : Nat) : Mod :=
  if m.flag (Fld.HIF_ER_EN e) && m.erLostCount e != 0 && decide (1 ≤ m.erFree e) then
    (m.putEvent e ⟨m.now, m.heatNo, 0x042, m.chip 0, 15, 0,
      padBytes 14 (leBytes 1 e ++ leBytes 4 (min (m.erLostCount e) 0xFFFFFFFF))⟩).setErLost e 0
  else m

/-- One due event on one ring: posted while at least two slots are free, else added to the ring's lost count. -/
def postEventOn (m : Mod) (ev : EvRec) (e : Nat) : Mod :=
  if m.erTakes e ev then
    if 2 ≤ m.erFree e then m.putEvent e ev else m.setErLost e (m.erLostCount e + 1)
  else m

/-- One due event on every ring that takes it; counted where none does (R306). -/
def postEvent (m : Mod) (ev : EvRec) : Mod :=
  if (List.range 8).any (fun e => m.erTakes e ev) then (List.range 8).foldl (fun m e => m.postEventOn ev e) m
  else m.inc Reg.HIF_EV_UNROUTED

/-- One MSI-X message (R307): none while MSI-X is not enabled, and its pending bit while the function or the vector is
masked. -/
def sendMsix (m : Mod) (v : Nat) : Mod :=
  if !m.hub.pcie.msixOn then m
  else if m.hub.pcie.msixMask || bitOf (m.rdN (Reg.MSIX_TABLE_CTL v)) 0 then
    m.wrN (Reg.MSIX_PENDING (v / 32)) (m.rdN (Reg.MSIX_PENDING (v / 32)) ||| 2 ^ (v % 32))
  else
    m.toHost ⟨m.rd64 (Reg.MSIX_TABLE v 0), leBytes 4 (m.rdN (Reg.MSIX_TABLE v 2)), false, .msix⟩

/-- Vectors of the rings with records posted since a snapshot of their counts. -/
def newVectors (before m : Mod) : List Nat :=
  (List.range 64).filter (fun v =>
    (List.range 64).any (fun q => m.flag (Fld.HIF_CQ_MSIX q) && bitsOf (m.rdN (Reg.HIF_CQ_CFG q)) 5 0 == v &&
      m.rdN (Reg.HIF_CQ_POSTED q) != before.rdN (Reg.HIF_CQ_POSTED q)) ||
    (List.range 8).any (fun e => m.flag (Fld.HIF_ER_MSIX e) && bitsOf (m.rdN (Reg.HIF_ER_CFG e)) 5 0 == v &&
      m.rdN (Reg.HIF_ER_POSTED e) != before.rdN (Reg.HIF_ER_POSTED e)))

/-- The enable of a submission ring clears: the accepted descriptors that have not started will not (R308). -/
def stopRing (m : Mod) (r : Nat) : Mod :=
  { m with hub := { m.hub with rings := m.hub.rings.map (fun w =>
      if w.ring == r && !w.started then { w with stopping := true } else w) } }

/-- Accepted descriptors that had not started when their ring was disabled end CANCELLED at the boundary (R308). -/
def endStopping (m : Mod) : Mod :=
  (m.hub.rings.filter (·.stopping)).foldl (fun m w => m.completeRing w.ring w.index stCancelled 0) m

/-- Step 4 of the boundary window: completion records, lost counts, events, MSI-X messages. -/
def postRecords (m : Mod) : Mod :=
  let m1 := (orderBy compBefore m.comps).foldl (fun m c => m.postComp c) { m with comps := [] }
  let m2 := (List.range 8).foldl (fun m e => m.postLost e) m1
  let m3 := (orderBy evBefore m2.events).foldl (fun m e => m.postEvent e) { m2 with events := [] }
  ((newVectors m m3).foldl (fun m v => m.sendMsix v) m3).settleRings

/-! ### Step 5 (R302, R304, R331, R333) -/

/-- The 32-bit count of a doorbell word (Table 15.2). -/
def pageCount (page : List Byte) (at_ : Nat) : Nat := leNat ((page.drop at_).take 4)

def overrunOf (m : Mod) (k : Nat) : Bool := tabGet (fun _ => false) m.hub.overrun k

/-- Note a ring's overrun condition at a boundary: RING_OVERRUN at its first boundary (R333). -/
def noteOverrun (m : Mod) (key ring kind word : Nat) (overran : Bool) : Mod :=
  let m1 := m.when (overran && !m.overrunOf key) (fun m =>
    m.postModule 0x043 (leBytes 1 ring ++ leBytes 1 kind ++ leBytes 4 word))
  { m1 with hub := { m1.hub with overrun := tabPut (fun _ => false) m1.hub.overrun key overran } }

/-- Take the consumer count of a completion or event ring; a count that runs ahead is an overrun. -/
def takeSeen (m : Mod) (key ring kind posted seenReg word : Nat) : Mod :=
  let overran := decide (2 ^ 31 ≤ diff32 (m.rdN posted) word)
  (m.noteOverrun key ring kind word overran).wrN seenReg (if overran then m.rdN posted else word)

def fetchMax (m : Mod) : Nat := m.fget Fld.HIF_FETCH_MAX

/-- Bus address of a ring's descriptor (R304). -/
def descAddr (m : Mod) (r i : Nat) : Nat := m.base64 (Reg.HIF_SQ_BASE_LO r) + 64 * (i % m.sqSize r)

/-- Accept `k` descriptors of a submission ring, in count order, and fetch their bodies (R304). -/
def acceptK (m : Mod) (r : Nat) : Nat → Mod
  | 0 => m
  | k + 1 =>
    let i := m.rdN (Reg.HIF_SQ_ACCEPTED r)
    let m1 := { m with hub := { m.hub with rings := m.hub.rings ++ [({ ring := r, index := i, refused := m.hubLadlesOff } : RingWork)] } }
    (((m1.addMod (Reg.HIF_SQ_ACCEPTED r) 1).fput (Fld.HIF_SQ_ACTIVE r) true).emit
      (.hostRead (m.descAddr r i) 64)).acceptK r k

/-- Step 5 for one submission ring with the announced count the page gave. -/
def acceptRing (m : Mod) (r count : Nat) : Mod :=
  if m.sqOn r then
    let overran := decide (m.sqSize r < diff32 count (m.rdN (Reg.HIF_SQ_DONE r))) ||
      decide (2 ^ 31 ≤ diff32 count (m.rdN (Reg.HIF_SQ_ACCEPTED r)))
    let m1 := m.noteOverrun r r 0 count overran
    if overran then m1
    else
      let due := diff32 count (m.rdN (Reg.HIF_SQ_ACCEPTED r))
      let k := min due (min m.fetchMax (m.cqFree (m.sqCq r)))
      (m1.acceptK r k).wrN (Reg.HIF_SQ_HELD r) (due - k)
  else m

/-- The count of a ring that the last page taken gave since the ring was enabled: key 0 to 63 submission, 64 to 127
completion, 128 to 135 event. -/
def lastCount (m : Mod) (key : Nat) : Nat := tabGet (fun _ => 0) m.hub.counts key

/-- Step 5 with the counts of the last page taken; a page that is unchanged leaves them (R15, R302). -/
def acceptUnchanged (m : Mod) : Mod :=
  let m1 := (List.range 64).foldl (fun m q =>
    if m.flag (Fld.HIF_CQ_EN q) then
      m.takeSeen (64 + q) q 1 (Reg.HIF_CQ_POSTED q) (Reg.HIF_CQ_SEEN q) (m.lastCount (64 + q))
    else m) m
  let m2 := (List.range 8).foldl (fun m e =>
    if m.flag (Fld.HIF_ER_EN e) then
      m.takeSeen (128 + e) e 2 (Reg.HIF_ER_POSTED e) (Reg.HIF_ER_SEEN e) (m.lastCount (128 + e))
    else m) m1
  (List.range 64).foldl (fun m r => m.acceptRing r (m.lastCount r)) m2

/-- Key of a count in the doorbell page at its byte (Table 15.2). -/
def countPlaces : List (Nat × Nat) :=
  (List.range 64).map (fun r => (r, 64 + 8 * r)) ++ (List.range 64).map (fun q => (64 + q, 576 + 8 * q)) ++
    (List.range 8).map (fun e => (128 + e, 1088 + 8 * e))

/-- Step 5 with a page of the session in force. -/
def acceptPage (m : Mod) (page : List Byte) : Mod :=
  ({ m with hub := { m.hub with
      counts := countPlaces.foldl (fun t (k, at_) => tabPut (fun _ => 0) t k (pageCount page at_)) [] } }).acceptUnchanged

/-- Module time by which the doorbell page has to return: 2.0 microseconds after the tick (R15). -/
def pageDue (m : Mod) : Nat := m.heat.tickTime + 2000

/-- The doorbell page read returns in time (R302, R304). -/
def takePage (m : Mod) (page : List Byte) : Mod :=
  let m1 := ({ m with heat := { m.heat with pageRead := false } }).inc Reg.HIF_DB_READS
  if pageCount page 0 = m.rdN Reg.HIF_SESSION then m1.acceptPage page
  else (m1.inc Reg.HIF_DB_STALE).acceptUnchanged

/-- The page read is late or lost: the page is unchanged for the heat (R15). -/
def losePage (m : Mod) : Mod :=
  (({ m with heat := { m.heat with pageRead := false } }).inc Reg.HEAT_DB_LATE).acceptUnchanged

/-! ### Writes of the HIF_ block -/

/-- A descriptor that names a peer window is accepted and has not completed (R313). -/
def windowInUse (m : Mod) (w : Nat) : Bool :=
  m.hub.rings.any (fun x => match x.body with
    | some b => (bitOf b.toNat 232 && bitsOf b.toNat 231 229 == w) || (bitOf b.toNat 228 && bitsOf b.toNat 227 225 == w)
    | none => false)

/-- A row of a lookup that has been issued and not answered and has its home in the host window. -/
def rowAtHost (m : Mod) (q : RowReq) : Bool :=
  q.status.isNone && q.due.isSome && addrModule q.addr == m.self && isTier2Offset (addrOffset q.addr)

/-- A tier 2 request of the module is outstanding (R310): of a work, a row of a lookup, or a write still retained. A retained
write of a ladle's work goes to tier 2 or to a peer window; the work tells which. -/
def tier2Busy (m : Mod) : Bool :=
  m.works.any (·.tier2) || m.tables.lookups.any (fun l => l.reqs.any (fun q => m.rowAtHost q)) ||
    m.hub.retained.any (fun w => match w.src with
      | .drain .. => true
      | .rowCopy _ => true
      | .far => true
      | _ => false)

/-- The aperture base a write of HIF_B2_MAP_HI would take: bits [31:30] from the _LO register. -/
def b2Base (m : Mod) (a : Nat) (v : Word) : Nat :=
  2 ^ 32 * v.toNat + bitsOf (m.rdN (Reg.HIF_B2_MAP_LO a)) 31 30 * 2 ^ 30

/-- An offset lies in tier 0, tier 1 or the SRAM windows (Table 12.2). -/
def inApertureRange (o : Nat) : Bool :=
  decide (o < 0xC00000000) || decide (0x10000000000 ≤ o ∧ o < 0x14000000000) ||
    decide (0x80000000000 ≤ o ∧ o < 0x80030000000)

def b2Ok (m : Mod) (a : Nat) (v : Word) : Bool :=
  let b := m.b2Base a v
  bitsOf b 63 51 == m.self && inApertureRange (bitsOf b 48 0)

/-- HIF_OPEN is accepted (R356): the status of its check. -/
def openCheck (m : Mod) (v : Word) : Nat :=
  if !(m.detached && m.flag Fld.HIF_LINK_UP) then stAccessDenied
  else if v = 0 ∨ v = m.rd Reg.HIF_SESSION ∨ m.base64 Reg.HIF_EPOCH_NEXT_LO = 0 then stMalformed
  else stOk

/-- The checks of the HIF_ block (R244, R308, R310, R313, R316, R354, R356). -/
def hifCheck (m : Mod) (off : Nat) (v : Word) : Nat :=
  if off = Reg.HIF_CTRL then (if wordBits v 31 16 = 0 then stMalformed else stOk)
  else if off = Reg.HIF_T2_CMD then
    if bitOf v.toNat 31 && (m.flag Fld.HIF_DB_EN || m.tier2Busy) then stAccessDenied else stOk
  else if off = Reg.HIF_LOSS_CFG then
    if bitOf v.toNat 31 && !m.flag Fld.HIF_SESSION_OPEN then stAccessDenied
    else if 1 ≤ wordBits v 29 16 ∧ wordBits v 29 16 ≤ 10000 then stOk else stMalformed
  else if off = Reg.HIF_OPEN then m.openCheck v
  else if 0x20800 ≤ off ∧ off < 0x20A00 ∧ (off - 0x20800) % 8 = 4 then
    if m.b2Ok ((off - 0x20800) / 8) v then stOk else stMalformed
  else if 0x21000 ≤ off ∧ off < 0x21800 then
    let r := (off - 0x21000) / 0x20
    let busy := m.sqOn r || m.flag (Fld.HIF_SQ_ACTIVE r)
    if off = Reg.HIF_SQ_CFG r then
      if !(decide (6 ≤ wordBits v 20 16 ∧ wordBits v 20 16 ≤ 16)) then stMalformed
      else if busy && wordBits v 20 16 != m.fget (Fld.HIF_SQ_LOG2 r) then stAccessDenied else stOk
    else if busy then stAccessDenied else stOk
  else if 0x21800 ≤ off ∧ off < 0x22000 then
    let q := (off - 0x21800) / 0x20
    if off = Reg.HIF_CQ_CFG q then
      if !(decide (5 ≤ wordBits v 20 16 ∧ wordBits v 20 16 ≤ 16)) then stMalformed
      else if m.flag (Fld.HIF_CQ_EN q) && wordBits v 20 16 != m.fget (Fld.HIF_CQ_LOG2 q) then stAccessDenied else stOk
    else if m.flag (Fld.HIF_CQ_EN q) then stAccessDenied else stOk
  else if 0x22000 ≤ off ∧ off < 0x22100 then
    let e := (off - 0x22000) / 0x20
    if off = Reg.HIF_ER_CFG e then
      if !(decide (5 ≤ wordBits v 20 16 ∧ wordBits v 20 16 ≤ 16)) then stMalformed
      else if m.flag (Fld.HIF_ER_EN e) && wordBits v 20 16 != m.fget (Fld.HIF_ER_LOG2 e) then stAccessDenied else stOk
    else if off = Reg.HIF_ER_MASK e then stOk
    else if m.flag (Fld.HIF_ER_EN e) then stAccessDenied else stOk
  else if 0x22400 ≤ off ∧ off < 0x22500 then
    let w := (off - 0x22400) / 0x20
    if m.windowInUse w then stAccessDenied
    else if off = Reg.HIF_PW_SIZE w ∧ v = 0 then stMalformed else stOk
  else stOk

/-- The registers of the HIF_ block whose _HI write takes a 64-bit value. -/
def hifTakes (off : Nat) : Bool :=
  off == Reg.HIF_EPOCH_NEXT_ADDR_HI || off == Reg.HIF_EPOCH_NEXT_HI ||
    (decide (0x21000 ≤ off ∧ off < 0x22100) && (off % 0x20 == 4)) ||
    (decide (0x22400 ≤ off ∧ off < 0x22500) && off % 0x20 == 4)

/-- A ring is enabled: its last count is zero, and no overrun condition of it is known (R308, R333). -/
def startCounts (m : Mod) (key : Nat) : Mod :=
  { m with hub := { m.hub with
      counts := tabPut (fun _ => 0) m.hub.counts key 0, overrun := tabPut (fun _ => false) m.hub.overrun key false } }

/-- Setting the enable of a submission ring sets its counts to zero; clearing it stops the ring (R308). -/
def sqCfgEffect (m : Mod) (r : Nat) (v : Word) : Mod :=
  let m1 := m.regStore (Reg.HIF_SQ_CFG r) v
  if bitOf v.toNat 31 && !m.sqOn r then
    (((m1.startCounts r).wr (Reg.HIF_SQ_ACCEPTED r) 0).wr (Reg.HIF_SQ_DONE r) 0).wr (Reg.HIF_SQ_HELD r) 0
  else if !bitOf v.toNat 31 && m.sqOn r then m1.stopRing r
  else m1

/-- The reads that fetch a stretch of host memory, none longer than the Maximum Read Request size (R299). -/
def readHost (m : Mod) (a len : Nat) : Mod :=
  let k := max m.hub.pcie.maxRead 1
  (List.range ((len + k - 1) / k)).foldl (fun m i => m.emit (.hostRead (a + k * i) (min k (len - k * i)))) m

/-- A load of the host map starts; it fails at once when the link is down (R310). -/
def startMapLoad (m : Mod) : Mod :=
  if m.flag Fld.HIF_LINK_UP then
    ({ m with hub := { m.hub with mapLoad := true, mapDue := m.now + 50000 } }).readHost (m.rd64 Reg.HIF_T2_TAB_LO) 131072
  else (m.fput Fld.HIF_T2_ERR true).fput Fld.HIF_T2_LOADED false

/-- A probe of a peer window starts (R314): HIF_PW_EXPECT is written at its base and read back. -/
def startProbe (m : Mod) (w : Nat) : Mod :=
  let b := m.base64 (Reg.HIF_PW_BASE_LO w)
  let x := m.rd64 (Reg.HIF_PW_EXPECT_LO w)
  let m1 := { m with hub := { m.hub with
    probing := tabPut (fun _ => none) m.hub.probing w (some x)
    probeDue := tabPut (fun _ => 0) m.hub.probeDue w (m.now + 50000) } }
  ((m1.fput (Fld.HIF_PW_BUSY w) true).toHost ⟨b, leBytes 8 x, false, .probe⟩).emit (.hostRead b 8)

/-- A write of HIF_PW_CTRL: making the window valid sets its result to UNTESTED; HIF_PW_PROBE runs a probe. -/
def pwCtrlEffect (m : Mod) (w : Nat) (v : Word) : Mod :=
  let was := m.flag (Fld.HIF_PW_VALID w)
  let m1 := m.fput (Fld.HIF_PW_VALID w) (bitOf v.toNat 31)
  let m2 := m1.when (bitOf v.toNat 31 && !was) (fun m => m.fset (Fld.HIF_PW_RESULT w) 0)
  m2.when (bitOf v.toNat 30) (fun m => m.startProbe w)

/-- Every HELD core returns to RUNNING and chooses again at the next step 6 (R354), those that the heat watchdog held
among them (log entry 31). -/
def releaseHeld (m : Mod) : Mod :=
  let m1 := (List.range 384).foldl (fun m n => if m.coreState n = 2 then m.fset (Fld.CORE_STATE n) 1 else m) m
  ((List.range 48).foldl (fun m g =>
    if (m.clusterSt g).held then m.modCluster g (fun c => { c with held := false }) else m) m1).fput
    Fld.HIF_HOST_HELD false

/-- A new session takes force (steps 2 to 5 of R357). -/
def finishOpen (m : Mod) (session : Nat) : Mod :=
  let void := decide (3 ≤ m.fget Fld.HIF_RETAIN_RESULT)
  let m1 := if void then
      (List.range 64).foldl (fun m q => if tabGet (fun _ => false) m.hub.cqEnded q then m.fput (Fld.HIF_CQ_EN q) false else m)
        { m with
          comps := m.comps.filter (fun c => !tabGet (fun _ => false) m.hub.cqEnded (m.sqCq c.ring)) }
    else m
  let m2 := if void then { m1 with hub := { m1.hub with cqEnded := [] } } else m1
  let m3 := (m2.wr64 Reg.HIF_EPOCH_ADDR_LO (m.base64 Reg.HIF_EPOCH_NEXT_ADDR_LO)).wr64 Reg.HIF_EPOCH_LO
    (m.base64 Reg.HIF_EPOCH_NEXT_LO)
  let m4 := (m3.wrN Reg.HIF_SESSION session).fset Fld.HIF_OPEN_STATUS (if void then stHostEpochChanged else stOk)
  let m5 := ((m4.fput Fld.HIF_DETACHED false).fput Fld.HIF_SESSION_OPEN true).settleRings
  let m6 := { m5 with
    hub := { m5.hub with opening := none, retainOver := false }
    cast := { m5.cast with
      run := m5.cast.run.map (fun (r : CastRun) => { r with epochLost := r.epochLost || (void && m5.castState == 4) }) } }
  m6.fput castHostField false

/-- An accepted open (R357): with something retained the epoch word is read first. -/
def startOpen (m : Mod) (session : Nat) : Mod :=
  if m.fget Fld.HIF_RETAIN_RESULT = 1 then
    ({ m with hub := { m.hub with opening := some session, openDue := m.now + 50000 } }).emit
      (.hostRead (m.rd64 Reg.HIF_EPOCH_ADDR_LO) 8)
  else m.finishOpen session

/-- The effect of an accepted write of the HIF_ block. -/
def hifEffect (m : Mod) (off : Nat) (v : Word) : Mod :=
  if off = Reg.HIF_DB_BASE_LO ∨ off = Reg.HIF_DB_BASE_HI then m.holdWrite off 0xFFFFFFFF v
  else if off = Reg.HIF_T2_CMD then m.when (bitOf v.toNat 31) (fun m => m.startMapLoad)
  else if off = Reg.HIF_LOSS_CFG then
    (m.regStore off v).fput Fld.HIF_HELD_RELEASE false |>.when (bitOf v.toNat 31) (fun m => m.releaseHeld)
  else if off = Reg.HIF_OPEN then m.startOpen v.toNat
  else if (rowIndex (Reg.MSIX_TABLE_CTL 0) 16 64 off).isSome then
    let k := (off - Reg.MSIX_TABLE_CTL 0) / 16
    let m1 := m.regStore off v
    let due := bitOf (m.rdN (Reg.MSIX_PENDING (k / 32))) (k % 32)
    m1.when (due && !bitOf (m1.rdN off) 0) (fun m =>
      (m.wr (Reg.MSIX_PENDING (k / 32)) (m.rd (Reg.MSIX_PENDING (k / 32)) &&& ~~~ BitVec.ofNat 32 (2 ^ (k % 32)))).sendMsix k)
  else if 0x20800 ≤ off ∧ off < 0x20A00 ∧ (off - 0x20800) % 8 = 4 then
    let a := (off - 0x20800) / 8
    (m.regStore off v).setBase64 (Reg.HIF_B2_MAP_LO a)
      (m.b2Base a v + (if m.flag (Fld.HIF_B2_VALID a) then 1 else 0))
  else if 0x21000 ≤ off ∧ off < 0x21800 ∧ off % 0x20 = 8 then m.sqCfgEffect ((off - 0x21000) / 0x20) v
  else if 0x21800 ≤ off ∧ off < 0x22000 ∧ off % 0x20 = 8 then
    let q := (off - 0x21800) / 0x20
    (m.regStore off v).when (bitOf v.toNat 31 && !m.flag (Fld.HIF_CQ_EN q)) (fun m =>
      ((m.startCounts (64 + q)).wr (Reg.HIF_CQ_POSTED q) 0).wr (Reg.HIF_CQ_SEEN q) 0)
  else if 0x22000 ≤ off ∧ off < 0x22100 ∧ off % 0x20 = 8 then
    let e := (off - 0x22000) / 0x20
    (m.regStore off v).when (bitOf v.toNat 31 && !m.flag (Fld.HIF_ER_EN e)) (fun m =>
      (((m.startCounts (128 + e)).wr (Reg.HIF_ER_POSTED e) 0).wr (Reg.HIF_ER_SEEN e) 0).setErLost e 0)
  else if 0x22400 ≤ off ∧ off < 0x22500 ∧ off % 0x20 = 0xC then m.pwCtrlEffect ((off - 0x22400) / 0x20) v
  else
    let m1 := m.regStore off v
    m1.when (hifTakes off) (fun m => m.setBase64 (off - 4) (m.rd64 (off - 4)))

/-! ### The host map and peer probes -/

/-- An entry of the host map is well-formed: bits [29:1] are zero (R310). -/
def mapEntryOk (w : Nat) : Bool := bitsOf w 29 1 == 0

/-- The host map read ends (R310): none stands for a read that failed or did not return within 50 microseconds, and one that
returns later has failed. The whole table is copied; the entries at or beyond MEM_T2_SIZE are not looked at (log entry
127). -/
def mapLoadDone (m : Mod) (table : Option (List (BitVec 64))) : Mod :=
  if m.hub.mapLoad then
    let m1 := { m with hub := { m.hub with mapLoad := false } }
    let used := (table.getD []).take (m.rdN Reg.MEM_T2_SIZE)
    if table.isSome && decide (m.now ≤ m.hub.mapDue) && used.all (fun w => mapEntryOk w.toNat) then
      (({ m1 with hub := { m1.hub with
          hostMap := ((table.getD []).take 16384).zipIdx.foldl
            (fun t (wk : BitVec 64 × Nat) => tabPut (fun _ => 0) t wk.2 wk.1.toNat) [] } }).fput
        Fld.HIF_T2_LOADED true).fput Fld.HIF_T2_ERR false
    else (m1.fput Fld.HIF_T2_ERR true).fput Fld.HIF_T2_LOADED false
  else m

/-- What the read of a probe tells (Table 15.4): `late` says that it has not returned within 50 microseconds. -/
def probeCode (sent : Nat) (result : Option (Option (BitVec 64))) (late : Bool) : Nat :=
  if late then 4
  else match result with
    | none => 4
    | some none => 2
    | some (some b) => if b.toNat = sent then 1 else 3

/-- A read of a probe that returns has taken more than 50 microseconds, by its round trip or by module time. -/
def probeLate (m : Mod) (w rtt : Nat) : Bool := decide (50000 < rtt) || decide (tabGet (fun _ => 0) m.hub.probeDue w < m.now)

/-- The probe read returns or times out (R314): none is a timeout; else the bytes read, or an error completion. -/
def probeDone (m : Mod) (w : Nat) (result : Option (Option (BitVec 64))) (rtt : Nat) : Mod :=
  match tabGet (fun _ => none) m.hub.probing w with
  | none => m
  | some x =>
    let late := m.probeLate w rtt
    let m1 := { m with hub := { m.hub with probing := tabPut (fun _ => none) m.hub.probing w none } }
    let m2 := (m1.fput (Fld.HIF_PW_BUSY w) false).fset (Fld.HIF_PW_RESULT w) (probeCode x result late)
    m2.when (result.isSome && !late) (fun m => m.wrN (Reg.HIF_PW_RTT w) (min rtt 65535))

end Mod

def execHostMapLoadDone (table : Option (List (BitVec 64))) (s : State) : Host.Outcome State Fault Refusal :=
  nextMod s (fun m => m.mapLoadDone table)
def execPeerProbeDone (w : Nat) (result : Option (Option (BitVec 64))) (rtt : Nat) (s : State) :
    Host.Outcome State Fault Refusal := nextMod s (fun m => m.probeDone w result rtt)

end Sys2Proof.Machine
end

