-- ==== Sys2Proof/Machine/Rows.lean ====
section
/-!
DEFINITION. Tables and their rows (09_embedding_tables.md and 10_sparse_updates_and_hot_rows.md): the entries of the
directory, the hot map and the moved-row map, hashing, and where a row is found.
-/

namespace Sys2Proof.Machine

open Sys2Proof

/-! ### Directory entries (Table 9.1), as numbers of 512 bits -/

def tdSalt (e : Nat) : Nat := bitsOf e 511 448
def tdCompM (e : Nat) : Nat := bitsOf e 447 408
def tdPartB (e : Nat) : Nat := bitsOf e 407 396
def tdPartA (e : Nat) : Nat := bitsOf e 395 384
def tdRows (e : Nat) : Nat := bitsOf e 383 344 + 1
def tdDim (e : Nat) : Nat := bitsOf e 343 332 + 1
def tdFormat (e : Nat) : Nat := bitsOf e 331 328
def tdSpread (e : Nat) : Nat := bitsOf e 327 324
def tdMap (e : Nat) : Nat := bitsOf e 323 308
def tdVersion (e : Nat) : Nat := bitsOf e 307 292
def tdHotMax (e : Nat) : Nat := bitsOf e 291 288
def tdSketch (e : Nat) : Bool := bitOf e 287
def tdSparse (e : Nat) : Bool := bitOf e 286
def tdMode (e : Nat) : Nat := bitsOf e 285 283
def tdStored (e : Nat) : Bool := decide (tdMode e ≤ 1)

/-- Bytes from one stored row to the next (R174). -/
def tdStride (e : Nat) : Nat := (rowBytes (tdFormat e) (tdDim e) + 63) / 64 * 64

/-- Request slots of a stored row (R181). -/
def tdSlots (e : Nat) : Nat := (tdStride e + 255) / 256

/-- The row hash (R177). -/
def rowHash (x salt : Nat) : Nat :=
  let c := 0xd6e8feb86659fd93
  let step := fun z => (Nat.xor z (z / 2 ^ 32)) * c % 2 ^ 64
  let z := step (step (Nat.xor x salt))
  Nat.xor z (z / 2 ^ 32)

/-- The stored row an index maps to, none out of range (R177). -/
def mapIndex (e x : Nat) : Option Nat :=
  if tdMode e = 1 then some (rowHash x (tdSalt e) % tdRows e)
  else if x < tdRows e then some x else none

/-- Fields of a hot-map entry (Table 10.7). -/
def hmDrup (e s : Nat) : Nat := bitsOf e (575 + 64 * s) (512 + 64 * s)
def hmCount (e : Nat) : Nat := bitsOf e 67 64
def hmTable (e : Nat) : Nat := bitsOf e 63 52
def hmRow (e : Nat) : Nat := bitsOf e 39 0

/-- Fields of a moved-row entry (Table 10.8). -/
def mvNew (e : Nat) : Nat := bitsOf e 127 64
def mvTable (e : Nat) : Nat := bitsOf e 63 52
def mvRow (e : Nat) : Nat := bitsOf e 39 0

/-- A row key of Table 16.10. -/
def rowKey (table row : Nat) : Nat := table % 4096 * 2 ^ 40 + row % 2 ^ 40

/-- A region from a global address on lies in tier 0 or tier 1 by its offsets alone (Table 12.2). -/
def inTier01 (a len : Nat) : Bool :=
  let o := addrOffset a
  decide (o + len ≤ 0xC00000000) || decide (tier1Base ≤ o ∧ o + len ≤ tier1Base + 0x4000000000)

/-- The same, or in tier 2. -/
def inTier012 (a len : Nat) : Bool :=
  inTier01 a len || decide (tier2Base ≤ addrOffset a ∧ addrOffset a + len ≤ tier2Base + 0x100000000000)

namespace Mod

def dirEntry (m : Mod) (i : Nat) : Option Nat := tabGet (fun _ => none) m.tables.dir i
def dirOp (m : Mod) (i : Nat) : Option MapOp := tabGet (fun _ => none) m.tables.dirOps i
def mapEntry (m : Mod) (k : Nat) : Nat := tabGet (fun _ => 0) m.tables.homeMap k
def hotEntry (m : Mod) (i : Nat) : Option HotEntry := tabGet (fun _ => none) m.tables.hot i
def hotOp (m : Mod) (i : Nat) : Option MapOp := tabGet (fun _ => none) m.tables.hotOps i
def movedEntry (m : Mod) (i : Nat) : Option MovedRow := tabGet (fun _ => none) m.tables.moved i
def movedOp (m : Mod) (i : Nat) : Option MapOp := tabGet (fun _ => none) m.tables.movedOps i

def setHot (m : Mod) (i : Nat) (h : Option HotEntry) : Mod :=
  { m with tables := { m.tables with hot := tabPut (fun _ => none) m.tables.hot i h } }
def setMoved (m : Mod) (i : Nat) (r : Option MovedRow) : Mod :=
  { m with tables := { m.tables with moved := tabPut (fun _ => none) m.tables.moved i r } }

/-! ### Where a row is (R174, R211, R215, R216) -/

/-- The address of R174. -/
def rowAddr (m : Mod) (e row : Nat) : Nat :=
  (m.mapEntry (tdMap e + row % 2 ^ tdSpread e) + row / 2 ^ tdSpread e * tdStride e) % 2 ^ 64

/-- The moved-row entry of a row, with its index. -/
def movedFor (m : Mod) (table row : Nat) : Option (Nat × MovedRow) :=
  m.tables.moved.findSome? (fun p => match p.2 with
    | some r => if mvTable r.entry = table ∧ mvRow r.entry = row then some (p.1, r) else none
    | none => none)

/-- The home a row has before a move whose entry replaces `prev`. -/
def homeBefore (m : Mod) (e row : Nat) (prev : Option Nat) (table : Nat) : Nat :=
  match prev with
  | some p => if mvTable p = table ∧ mvRow p = row then mvNew p else m.rowAddr e row
  | none => m.rowAddr e row

/-- The home of a row as a request of a stamp's heat finds it (R215 to R218), and whether that home is not the address
of R174. -/
def rowHome (m : Mod) (e table row stamp : Nat) : Nat × Bool :=
  match m.movedFor table row with
  | none => (m.rowAddr e row, false)
  | some (_, r) =>
    let a := if r.failed || (r.moving && decide (stamp < r.fence)) then r.old else mvNew r.entry
    (a, canon a != canon (m.rowAddr e row))

/-- Where requests for a row that has moved back to the address of R174 are sent on to from the home it left (R217). -/
def forwardFor (m : Mod) (table row a : Nat) : Option Nat :=
  (m.tables.forwards.find? (fun f => f.1 == table && f.2.1 == row && canon f.2.2.1 == canon a)).map (·.2.2.2)

/-- A request waits for the end of its row's move, in arrival order (R218). -/
def holdMove (m : Mod) (i : Nat) (x : MoveHeld) : Mod :=
  if m.tables.moveQueue.contains (i, x) then m
  else { m with tables := { m.tables with moveQueue := m.tables.moveQueue ++ [(i, x)] } }

/-- The hot-map entry of a row, with its index. -/
def hotFor (m : Mod) (table row : Nat) : Option (Nat × HotEntry) :=
  m.tables.hot.findSome? (fun p => match p.2 with
    | some h => if hmTable h.entry = table ∧ hmRow h.entry = row then some (p.1, h) else none
    | none => none)

/-- A write to a promoted row has landed at its home (R210). -/
def noteRowWrite (m : Mod) (table row : Nat) : Mod :=
  match m.hotFor table row with
  | some (i, h) => m.setHot i (some { h with
      wrote := m.heatNo :: h.wrote.filter (fun w => decide (w ≠ m.heatNo ∧ m.heatNo ≤ w + 3)) })
  | none => m

/-- A write has landed in a stretch: a promoted row whose home it meets is due for refresh (R210). -/
def noteWriteAt (m : Mod) (a len : Nat) : Mod :=
  m.tables.hot.foldl (fun m p => match p.2 with
    | none => m
    | some h => match m.dirEntry (hmTable h.entry) with
      | none => m
      | some e =>
        let home := (m.rowHome e (hmTable h.entry) (hmRow h.entry) m.heatNo).1
        if overlaps ⟨canon home, rowBytes (tdFormat e) (tdDim e)⟩ ⟨canon a, len⟩ then
          m.noteRowWrite (hmTable h.entry) (hmRow h.entry)
        else m) m

/-- How near a drupelet is to a requesting die (R211): the die, the module, fabric hops. -/
def drupDistance (m : Mod) (die a : Nat) : Nat :=
  if addrModule a = m.self then
    if decide (addrOffset a < tier1Base) && addrDie a == die then 0 else 1
  else 2 + m.fget (Fld.FAB_RT_HOPS (addrModule a))

/-- The nearest slot of a promoted row whose copy is valid, or any where `all` says that its refresh is still to land; ties
go to the lowest slot. -/
def nearestDrup (m : Mod) (die copy : Nat) (all : Bool) (h : HotEntry) : Option Nat :=
  let good := (List.range (hmCount h.entry)).filter (fun s => all || h.valid.contains (2 * s + copy))
  good.foldl (fun best s => match best with
    | none => some s
    | some b => if m.drupDistance die (hmDrup h.entry s) < m.drupDistance die (hmDrup h.entry b) then some s else some b) none

end Mod
end Sys2Proof.Machine
end

