-- ==== Sys2Proof/Machine/Tiers.lean ====
section
/-!
DEFINITION. The memory tiers (11_memory_tiers.md): what one request to an address meets, released and poisoned lines,
scrubbing, and the thermal states of the stacks.
-/

namespace Sys2Proof.Machine

open Sys2Proof

/-- Channel of a cell of tier 0 or tier 1 (R222): 64 per die, then the 32 of tier 1. -/
def channelOf (cell : Nat) : Nat :=
  let o := cell % 2 ^ 49
  if o < tier1Base then cell / 2 ^ 49 * 64 + (Nat.xor (o / 256) (o / 16384)) % 64
  else 256 + (Nat.xor ((o - tier1Base) / 256) ((o - tier1Base) / 8192)) % 32

/-- Stack of a tier 0 cell (R222), as die * 4 + stack. -/
def stackOf (cell : Nat) : Nat := cell / 2 ^ 49 * 4 + channelOf cell % 64 / 16

/-- Index of a tier cell's counters: 0 to 3 tier 0 of the die, 4 tier 1 (Table 11.6). -/
def tierUnit (cell : Nat) : Nat := if cell % 2 ^ 49 < tier1Base then cell / 2 ^ 49 else 4

/-- The status an answer stands for. -/
def answerStatus : Answer → Nat
  | .data _ => stOk
  | .corrected => stOk
  | .tierError => stTierError
  | .uncorrectable _ => stTierError
  | .tierTimeout => stTierTimeout
  | .busyRefused => stBusyRefused
  | .accessDenied => stAccessDenied
  | .versionStale => stVersionStale
  | .unitLost => stUnitLost
  | .routeLost => stRouteLost

/-- The answer a list of replies holds for an address. -/
def replyFor (rs : Replies) (a : Nat) : Option Answer := (rs.find? (fun r => r.1 == a)).map (·.2)

/-- What a request met: it is answered with a status and bytes, or still waits. -/
inductive Got where
  | done (status : Nat) (bytes : List Byte)
  | waiting
deriving DecidableEq, Repr

namespace Mod

/-- Bus address of an offset in the host window (R310), where its granule's entry is valid. -/
def hostAddr (m : Mod) (off : Nat) : Option Nat :=
  let e := tabGet (fun _ => 0) m.hub.hostMap (off / 2 ^ 30)
  if bitOf e 0 then some (e / 2 ^ 30 * 2 ^ 30 + off % 2 ^ 30) else none

/-- A stretch of the host window cut at the granules of the host map: the bus address and length of each piece (R310). -/
def hostPieces (m : Mod) (off len : Nat) : List (Nat × Nat) :=
  let cut := min len (2 ^ 30 - off % 2 ^ 30)
  ((m.hostAddr off).getD 0, cut) :: if cut = len then [] else [((m.hostAddr (off + cut)).getD 0, len - cut)]

/-- Another module can be reached: it is not declared lost and has a route (R240, R403). -/
def moduleReachable (m : Mod) (x : Nat) : Bool :=
  m.flag (Fld.FAB_RT_VALID x) && !bitOf (m.rdN (Reg.CAST_ML_MAP (x / 32))) (x % 32)

/-- A stretch of tier cells meets a cast reserve (R390). -/
def inReserve (m : Mod) (cell len : Nat) : Bool :=
  let meets := fun (r base lo hi : Nat) =>
    bitsOf r hi 16 != 0 && overlaps ⟨base + bitsOf r lo 0 * 2 ^ 30, bitsOf r hi 16 * 2 ^ 30⟩ ⟨cell, len⟩
  if cell % 2 ^ 49 < tier1Base then meets (m.rdN (Reg.CAST_RES0 (cell / 2 ^ 49))) (cell / 2 ^ 49 * 2 ^ 49) 5 21
  else meets (m.rdN Reg.CAST_RES1) tier1Base 9 25

/-- A stretch of tier cells meets the buddy area: CAST_SLOTS slots (R390, R391). -/
def inBuddyArea (m : Mod) (cell len : Nat) : Bool :=
  let r := m.rdN Reg.CAST_BUDDY
  bitsOf r 25 16 != 0 && decide (tier1Base ≤ cell % 2 ^ 49) &&
    overlaps ⟨tier1Base + bitsOf r 9 0 * 2 ^ 30, m.fget Fld.CAST_SLOTS * bitsOf r 25 16 * 2 ^ 30⟩ ⟨cell, len⟩

/-- Cast reserves and buddy areas are no homes (R390). -/
def castArea (m : Mod) (cell len : Nat) : Bool := m.inReserve cell len || m.inBuddyArea cell len

/-- An SRAM cell belongs to a cluster that is lost, or to the local memory of a core that is (R402). -/
def sramDown (m : Mod) (cell : Nat) : Bool :=
  let o := cell % 2 ^ 49 - sramBase
  let g := cell / 2 ^ 49 * 12 + o / 0x4000000
  let w := o % 0x4000000
  decide (sramBase ≤ cell % 2 ^ 49) && ((m.clusterSt g).lost ||
    (decide (0x2000000 ≤ w) && m.coreState (8 * g + (w - 0x2000000) / 0x100000) == 4))

/-- An address of another module lies in that module's buddy area, which is laid out by the same CAST_BUDDY as this module's
(R390, R391; DEDUCED, log entry 150). -/
def farBuddy (m : Mod) (a : Nat) : Bool :=
  decide (tier1Base ≤ addrOffset a ∧ addrOffset a < tier1Base + 0x4000000000) && m.inBuddyArea (addrOffset a) 1

/-- What a request to an address meets before its memory answers (R226, R227, R229, R236, R240, R242,
R253, R349, R390, R402). -/
def reach (m : Mod) (a : Nat) (read : Bool) : Nat :=
  if addrModule a ≠ m.self then
    if m.moduleReachable (addrModule a) && offsetInMap (addrOffset a) && !m.farBuddy a then stOk else stTierError
  else if isTier2Offset (addrOffset a) then
    if !m.capacityProfile then stBusyRefused
    else if m.rdN Reg.MEM_T2_SIZE * 2 ^ 30 ≤ addrOffset a - tier2Base ∨
        (m.hostAddr (addrOffset a - tier2Base)).isNone ∨
        (read && (m.detached || !m.flag Fld.HIF_LINK_UP)) = true then stTierError
    else stOk
  else
    match placeOffset m (addrDie a) (addrOffset a) with
    | .tier0 d c => if m.dieIsLost d || m.dieHalted d || m.castArea c 1 then stTierError else stOk
    | .tier1 c => if m.castArea c 1 then stTierError else stOk
    | .sram _ _ c => if m.sramDown c then stTierError else stOk
    | _ => stTierError

/-- What a request for a stretch meets before its memory answers: at its first byte, and at its last, which may lie in the
next granule of the host map (R310). -/
def reachAll (m : Mod) (a len : Nat) (read : Bool) : Nat :=
  if m.reach a read = stOk then m.reach (a + (len - 1)) read else m.reach a read

/-- The cell a stretch of the module's own memory starts at: wholly in tier 0 of one die, in tier 1 or, where `sram`
allows it, in one region of a cluster's window (R242, R243), apart from cast reserves and buddy areas (R390). -/
def ownRegion (m : Mod) (a len : Nat) (sram : Bool) : Option Nat :=
  let z := a + (max len 1 - 1)
  if addrModule a ≠ m.self ∨ addrModule z ≠ m.self then none
  else
    match placeOf m a, placeOf m z with
    | .tier0 d c, .tier0 d' _ => if d = d' ∧ m.castArea c (max len 1) = false then some c else none
    | .tier1 c, .tier1 c' => if c' + 1 = c + max len 1 ∧ m.castArea c (max len 1) = false then some c else none
    | .sram d g c, .sram d' g' c' =>
      let part := fun (x : Nat) => decide (0x2000000 ≤ (x % 2 ^ 49 - sramBase) % 0x4000000)
      if sram && d == d' && g == g' && part c == part c' then some c else none
    | _, _ => none

/-! ### Released and poisoned lines (R224, R230) -/

def lineState (m : Mod) (line : Nat) : Nat := tabGet (fun _ => 0) m.badLines line
def setLine (m : Mod) (line s : Nat) : Mod := { m with badLines := tabPut (fun _ => 0) m.badLines line s }

/-- Lines that a stretch touches. -/
def linesOf (cell len : Nat) : List Nat :=
  if len = 0 then [] else (List.range ((cell + len - 1) / 64 - cell / 64 + 1)).map (fun i => cell / 64 + i)

/-- A stretch touches a released or poisoned line. -/
def badIn (m : Mod) (cell len : Nat) : Bool :=
  !m.badLines.isEmpty && (linesOf cell len).any (fun l => m.lineState l != 0)

/-- A line is bad and a write leaves part of it as it was. -/
def partlyBad (m : Mod) (cell len : Nat) : Bool :=
  !m.badLines.isEmpty && (linesOf cell len).any (fun l =>
    m.lineState l != 0 && !(decide (cell ≤ 64 * l ∧ 64 * l + 64 ≤ cell + len)))

/-- An access reached a released or poisoned line. -/
def countHit (m : Mod) (cell : Nat) : Mod := m.inc (Reg.MEM_RELEASED_HIT (tierUnit cell))

/-- The lines a write covers wholly are free again. -/
def clearWhole (m : Mod) (cell len : Nat) : Mod :=
  if m.badLines.isEmpty then m
  else (linesOf cell len).foldl (fun m l =>
    if decide (cell ≤ 64 * l ∧ 64 * l + 64 ≤ cell + len) then m.setLine l 0 else m) m

/-- A line with an error that cannot be corrected is poisoned, counted and reported (R230). -/
def poison (m : Mod) (cell : Nat) : Mod :=
  let u := tierUnit cell
  let m1 := (m.setLine (cell / 64) 2).inc (Reg.MEM_ECC_UE u)
  let data := leBytes 7 (cell % 2 ^ 49 / 64 * 64)
  if u = 4 then m1.postModule 0x081 data else m1.postDie 0x081 u data

/-! ### One request -/

/-- The stacks of the die of a tier 0 cell serve no requests: the die is lost or halted (R236, R402). -/
def stackDown (m : Mod) (cell : Nat) : Bool :=
  decide (cell % 2 ^ 49 < tier1Base) && (m.dieIsLost (cell / 2 ^ 49) || m.dieHalted (cell / 2 ^ 49))

/-- Lines of a request in which a tier met errors it cannot correct; none named is the first line. -/
def poisonLines (m : Mod) (cell len : Nat) (offs : List Nat) : Mod :=
  let cs := (offs.filter (fun o => decide (o < len))).map (fun o => (cell + o) / 64 * 64)
  (if cs.isEmpty then [cell] else cs.eraseDups).foldl (fun m c => m.poison c) m

/-- What an access to a stretch of the module's own memory meets (R224, R227, R230, R236): a stack that serves nothing, a
line that is released or poisoned, an error, or nothing. `bad` says that a line stands in its way. -/
def meet (m : Mod) (cell len : Nat) (bad : Bool) (ans : Option Answer) : Nat × Mod :=
  if (isTierCell cell && m.stackDown cell) || m.sramDown cell then (stTierError, m)
  else if isTierCell cell && bad then (stTierError, m.countHit cell)
  else match ans with
    | none => (stOk, m)
    | some (.uncorrectable offs) => (stTierError, m.when (isTierCell cell) (fun m => m.poisonLines cell len offs))
    | some .corrected => (stOk, m.when (isTierCell cell) (fun m => m.inc (Reg.MEM_ECC_CE (tierUnit cell))))
    | some a => (answerStatus a, m)

/-- A read of the module's own memory. -/
def readLocal (mem : Memory) (m : Mod) (cell len : Nat) (ans : Option Answer) : Got × Mod :=
  let x := m.meet cell len (m.badIn cell len) ans
  (.done x.1 (if x.1 = stOk then memRead mem cell len else []), x.2)

/-- A read request that leaves the module: to the host at its bus address (R310), or line by line to another module. -/
def askOut (m : Mod) (a len : Nat) : Mod :=
  if addrModule a ≠ m.self then
    (List.range ((a + (max len 1 - 1)) / 64 - a / 64 + 1)).foldl (fun m i =>
      m.emit (.packet (addrModule a) 1 (leBytes 8 (64 * (a / 64 + i))))) m
  else if isTier2Offset (addrOffset a) then
    (m.hostPieces (addrOffset a - tier2Base) len).foldl (fun m p => m.emit (.hostRead p.1 p.2)) m
  else m

/-- What a read request of `len` bytes meets, with the answer that came back for it. -/
def readAns (mem : Memory) (m : Mod) (a len : Nat) (ans : Option Answer) : Got × Mod :=
  let st := m.reachAll a len true
  if st ≠ stOk then (.done st [], m)
  else
    match placeCell (placeOf m a) with
    | some c => m.readLocal mem c len ans
    | none =>
      match ans with
      | some (.data bs) => (.done stOk (padBytes len bs), m)
      | some x => (.done (if answerStatus x = stOk then stTierError else answerStatus x) [], m)
      | none => (.waiting, m)

/-- A read request of `len` bytes: it is issued, and met by the answer that came back for it. -/
def readReq (mem : Memory) (m : Mod) (a len : Nat) (ans : Option Answer) : Got × Mod :=
  (m.when (m.reachAll a len true == stOk) (fun m => m.askOut a len)).readAns mem a len ans

/-- A write to the module's own memory, with what its tier met: a line that is bad takes only whole lines; SRAM follows
R39 and R51. -/
def writeLocalAns (mem : Memory) (m : Mod) (host : Bool) (cell : Nat) (bytes : List Byte) (ans : Option Answer) :
    Memory × Mod × Nat :=
  let x := m.meet cell bytes.length (m.partlyBad cell bytes.length) ans
  if x.1 ≠ stOk then (mem, x.2, x.1)
  else if isTierCell cell then
    (memWrite mem cell bytes, (x.2.clearWhole cell bytes.length).noteWriteAt (globalOf m cell) bytes.length, stOk)
  else
    let r := x.2.store mem host cell bytes
    (r.1, r.2.1, if r.2.2 then stAccessDenied else stOk)

/-- A write to the module's own memory whose tier meets no error. -/
def writeLocal (mem : Memory) (m : Mod) (host : Bool) (cell : Nat) (bytes : List Byte) : Memory × Mod × Nat :=
  m.writeLocalAns mem host cell bytes none

/-- A write request: to the module's own memory it lands at once; toward the host it is posted, or retained, or discarded
(R254, R350, R358), and a discarded write never completes (R228); to another module it leaves as a packet and waits for
its acknowledgement. The status is none while no answer has come. -/
def writeReq (mem : Memory) (m : Mod) (host relaxed : Bool) (a : Nat) (bytes : List Byte) (src : WriteSrc)
    (ans : Option Answer) : Memory × Mod × Option Nat :=
  let st := m.reachAll a bytes.length false
  if st ≠ stOk then (mem, m, some st)
  else
    match placeOf m a with
    | .tier2 off =>
      (mem, ((m.hostPieces off bytes.length).foldl (fun (p : Mod × List Byte) x =>
          (p.1.toHost ⟨x.1, p.2.take x.2, relaxed, src⟩, p.2.drop x.2)) (m, bytes)).1.noteWriteAt a bytes.length,
        if m.discarding then none else some stOk)
    | .tier3 home =>
      (mem, m.emit (.packet home 2 (leBytes 8 a ++ bytes)), ans.map answerStatus)
    | p =>
      match placeCell p with
      | some c => let r := m.writeLocalAns mem host c bytes ans; (r.1, r.2.1, some r.2.2)
      | none => (mem, m, some stTierError)

/-- A place that a table's rows may have: no SRAM (R243). -/
def notSram (m : Mod) (a : Nat) : Bool := match placeOf m a with | .sram .. => false | _ => true

/-- A read of a table's row, or of what lies beside it: an SRAM window serves none (R243). -/
def tierRead (mem : Memory) (m : Mod) (a len : Nat) (ans : Option Answer) : Got × Mod :=
  if m.notSram a then m.readReq mem a len ans else (.done stTierError [], m)

/-- What a read of a table's row issued earlier meets. -/
def tierAns (mem : Memory) (m : Mod) (a len : Nat) (ans : Option Answer) : Got × Mod :=
  if m.notSram a then m.readAns mem a len ans else (.done stTierError [], m)

/-- A write of a table's row, or of what lies beside it; toward the host it is a data write (R311). -/
def tierWrite (mem : Memory) (m : Mod) (a : Nat) (bytes : List Byte) (src : WriteSrc) (ans : Option Answer) :
    Memory × Mod × Option Nat :=
  if m.notSram a then m.writeReq mem false (m.flag Fld.HIF_RO_EN) a bytes src ans else (mem, m, some stTierError)

/-! ### Scrubbing (R230) -/

/-- A scrub of a channel corrected some errors and met lines it cannot correct. -/
def scrub (m : Mod) (ch corrected : Nat) (bad : List Nat) : Mod :=
  if m.ready && m.flag Fld.MEM_SCRUB_EN then
    let u := if ch < 256 then ch / 64 else 4
    (bad.filter (fun c => isTierCell c && channelOf c == ch && m.lineState (c / 64) == 0)).foldl (fun m c => m.poison c)
      (m.addSat (Reg.MEM_ECC_CE u) corrected)
  else m

/-! ### Stacks (R235, R237) -/

/-- The thermal state a temperature gives a stack in state `s` (Table 11.4). -/
def stackState (s t : Nat) : Nat :=
  if s = 3 ∨ 105 ≤ t then 3
  else if 95 ≤ t then 2
  else if s = 2 ∧ 92 < t then 2
  else if 85 ≤ t then 1
  else if 1 ≤ s ∧ 82 < t then 1
  else 0

/-- A stack takes a thermal state; a change is reported (R237). -/
def putStack (m : Mod) (k t s : Nat) : Mod :=
  let old := m.fget (Fld.MEM_STK_STATE (k / 4) (k % 4))
  let m1 := (m.fset (Fld.MEM_STK_TEMP (k / 4) (k % 4)) t).fset (Fld.MEM_STK_STATE (k / 4) (k % 4)) s
  m1.when (old != s) (fun m => m.postDie 0x082 (k / 4) (leBytes 1 (k % 4) ++ leBytes 1 t ++ leBytes 1 s))

/-- A stack reports the temperature of its hottest layer. -/
def stackTemp (m : Mod) (k t : Nat) : Mod :=
  if m.ready then m.putStack k (min t 255) (stackState (m.fget (Fld.MEM_STK_STATE (k / 4) (k % 4))) t) else m

end Mod

def execScrub (ch corrected : Nat) (bad : List Nat) (s : State) : Host.Outcome State Fault Refusal :=
  nextMod s (fun m => m.scrub ch corrected bad)
def execStackTempReport (k t : Nat) (s : State) : Host.Outcome State Fault Refusal := nextMod s (fun m => m.stackTemp k t)

end Sys2Proof.Machine
end

