-- ==== Sys2Proof/Machine/Ingest.lean ====
section
/-!
DEFINITION. The ingest stream and its reservoir (17_ingest_and_backpressure.md): lanes, headroom, notices and the
reservoir time.
-/

namespace Sys2Proof.Machine

open Sys2Proof

namespace Mod

/-! ### Lanes (R336 to R338) -/

def laneSt (m : Mod) (p : Nat) : LaneSt := tabGet (fun _ => {}) m.ing.lanes p
def setLane (m : Mod) (p : Nat) (l : LaneSt) : Mod :=
  { m with ing := { m.ing with lanes := tabPut (fun _ => {}) m.ing.lanes p l } }

def laneOn (m : Mod) (p : Nat) : Bool := m.flag (Fld.ING_P_EN p)

/-- Producers enabled. -/
def producers (m : Mod) : List Nat := (List.range 16).filter (fun p => m.laneOn p)

/-- Bytes of a producer's lane. -/
def laneBytes (m : Mod) (p : Nat) : Nat := m.fget (Fld.ING_P_LANE_SIZE p) * 2 ^ 20

/-- Bytes of its data region, C of R338. -/
def laneData (m : Mod) (p : Nat) : Nat := m.laneBytes p - 4096

/-- Stopping distance in bytes. -/
def laneStop (m : Mod) (p : Nat) : Nat := m.rdN (Reg.ING_P_STOP p) * 1024

/-- First cell of a producer's lane. -/
def laneCell (m : Mod) (p : Nat) : Nat :=
  tier1Base + m.fget Fld.ING_RES_BASE * 2 ^ 30 + m.fget (Fld.ING_P_LANE_OFF p) * 2 ^ 20

/-- The lane lies in the reservoir, apart from every other enabled lane, and exceeds the stopping distance by at least
1 MiB (R337). -/
def laneOk (m : Mod) (p : Nat) : Bool :=
  let off := m.fget (Fld.ING_P_LANE_OFF p)
  let size := m.fget (Fld.ING_P_LANE_SIZE p)
  decide (off + size ≤ m.fget Fld.ING_RES_SIZE * 1024) &&
    (m.producers.filter (· != p)).all (fun q =>
      let o := m.fget (Fld.ING_P_LANE_OFF q)
      decide (off + size ≤ o ∨ o + m.fget (Fld.ING_P_LANE_SIZE q) ≤ off)) &&
    decide (m.laneStop p + 2 ^ 20 ≤ m.laneBytes p)

/-! ### Sums (R343, R346) -/

def sumOver (m : Mod) (f : Nat → Nat) : Nat := m.producers.foldl (fun n p => n + f p) 0

/-- Free bytes of all lanes; a lane that is overrun can make it less than none (R342, R343). -/
def freeSum (m : Mod) : Int := m.producers.foldl (fun n p => n + (m.laneSt p).free) 0
def stopSum (m : Mod) : Nat := m.sumOver m.laneStop
def rateSum (m : Mod) : Nat := m.sumOver (fun p => m.rdN (Reg.ING_P_RATE p))

/-- The reservoir time T in microseconds (R346): 1 MB/s is one byte a microsecond. -/
def resTime (m : Mod) : Nat :=
  if m.rateSum = 0 then 0xFFFFFFFF
  else if m.freeSum < m.stopSum then 0
  else min ((m.freeSum - m.stopSum).toNat / m.rateSum) 0xFFFFFFFF

/-- A producer is held (R342, R343). -/
def laneHeld (m : Mod) (p : Nat) : Bool := (m.laneSt p).overran || (m.laneSt p).short || m.ing.full

/-- IN_CAUSE of a producer. -/
def laneCause (m : Mod) (p : Nat) : Nat :=
  (if (m.laneSt p).overran then 4 else 0) + (if m.ing.full then 2 else 0) + (if (m.laneSt p).short then 1 else 0)

/-- Free bytes as an unsigned field shows them; the spec states no value for a negative number (log entry 95). -/
def shownFree (m : Mod) (f : Int) : Nat × Mod := if f < 0 then m.takeFree else (f.toNat, m)

/-- The registers that follow the lanes (Tables 17.7 and 17.9). -/
def showIngest (m : Mod) : Mod :=
  let held := m.producers.foldl (fun n p => if m.flag (Fld.ING_P_HELD p) then n + 2 ^ p else n) 0
  let m1 := m.wrN Reg.ING_STATUS
    (held * 2 ^ 16 + (if m.ing.full then 2 else 0) + (if m.producers.isEmpty then 0 else 1))
  let f := m1.shownFree m.freeSum
  (((f.2.wrN Reg.ING_RES_FREE (f.1 / 1024)).wrN Reg.ING_STOP_SUM (m.stopSum / 1024)).wrN Reg.ING_RATE_SUM
    m.rateSum).wrN Reg.ING_RES_TIME_US m.resTime

/-! ### Notices (R345) -/

/-- Where a producer's notices go: a bus address, or an offset in a valid peer window that holds 32 bytes there. -/
def noticeAddr (m : Mod) (p : Nat) : Option Nat :=
  let a := m.base64 (Reg.ING_P_NOTE_LO p)
  if m.flag (Fld.ING_P_NOTE_PEER p) then
    let w := m.fget (Fld.ING_P_NOTE_WIN p)
    if m.flag (Fld.HIF_PW_VALID w) && decide (a + 32 ≤ m.rdN (Reg.HIF_PW_SIZE w) * 4096) then
      some (m.base64 (Reg.HIF_PW_BASE_LO w) + a)
    else none
  else some a

/-- The bytes of a notice (Table 17.4). -/
def noticeBytes (m : Mod) (p state : Nat) : List Byte :=
  leBytes 8 (m.laneSt p).at_ ++ leBytes 6 m.heatNo ++ leBytes 1 state ++ leBytes 1 (m.laneCause p) ++
    leBytes 8 (m.laneSt p).consume ++ leBytes 8 (m.laneSt p).shown

/-- A notice is written, unless the host link is down or the module detached (R345, R349). -/
def notice (m : Mod) (p state : Nat) : Mod :=
  match m.noticeAddr p with
  | some a =>
    if m.flag Fld.HIF_LINK_UP && !m.detached then
      let m1 := m.emit (.host ⟨a, m.noticeBytes p state, false, .notice⟩)
      if state = 1 then m1.inc Reg.ING_HOLDS else m1
    else m
  | none => m

/-- The state then in force is written to every enabled producer in step 4 of a boundary window. -/
def refreshNotices (m : Mod) : Mod :=
  m.producers.foldl (fun m p => m.notice p (if m.flag (Fld.ING_P_HELD p) then 1 else 0)) m

/-! ### Enable and disable (R337, R338) -/

/-- The first notice of a producer is RUN. -/
def enableLane (m : Mod) (p : Nat) : Mod :=
  let m1 := m.setLane p { at_ := m.now, free := m.laneData p, shown := m.laneData p }
  let m2 := ((m1.fput (Fld.ING_P_HELD p) false).wr64 (Reg.ING_P_CONSUME_POS_LO p) 0).wr64 (Reg.ING_P_COMMIT_POS_LO p) 0
  (((m2.wrN (Reg.ING_P_FREE p) (m.laneData p / 1024)).clearWhole (m.laneCell p) 64).notice p 0).showIngest

/-- The last notice of a producer is DISABLED, written where its notices went. -/
def disableLane (m : Mod) (p : Nat) (v : Word) : Mod :=
  let m1 := (m.setLane p { m.laneSt p with overran := false, short := false }).notice p 2
  ((m1.wr (Reg.ING_P_CTRL p) v).fput (Fld.ING_P_HELD p) false).showIngest

/-- The 64 bytes of a lane's header. -/
def headerOf (mem : Memory) (m : Mod) (p : Nat) : List Byte := memRead mem (m.laneCell p) 64

/-- The memories after a write that enabled a producer: its whole header is zero (R338). -/
def ingestMemory (mem : Memory) (before after : Mod) (off : Nat) : Memory :=
  match rowIndex (Reg.ING_P_CTRL 0) 0x40 16 off with
  | some p =>
    if after.laneOn p && !before.laneOn p then memWrite mem (after.laneCell p) (List.replicate 64 0) else mem
  | none => mem

/-! ### Evaluation (R342, R343) -/

/-- What one reading of a lane's header gives: LH_COMMIT, LH_COMMIT_POS, LH_CONSUME, LH_CONSUME_POS. A header line that
is released or poisoned cannot be read. -/
def readHeader (mem : Memory) (m : Mod) (p : Nat) : Option (Nat × Nat × Nat × Nat) :=
  if m.badIn (m.laneCell p) 64 then none
  else
    let h := headerOf mem m p
    some (leNat (h.take 8), leNat ((h.drop 8).take 8), leNat ((h.drop 16).take 8), leNat ((h.drop 24).take 8))

/-- Used bytes of a lane, as the header gives them. -/
def usedBytes (commit consume : Nat) : Int := (commit : Int) - consume

/-- One lane is read: free bytes, positions, overrun and the lane's condition. -/
def readLane (mem : Memory) (m : Mod) (p : Nat) : Mod :=
  match readHeader mem m p with
  | none => m.countHit (m.laneCell p)
  | some (commit, cpos, consume, spos) =>
    let u := usedBytes commit consume
    let f := (m.laneData p : Int) - u
    let shown := m.shownFree f
    let l := m.laneSt p
    let bad := decide (u < 0 ∨ (m.laneData p : Int) < u)
    let l1 : LaneSt := {
      overran := l.overran || bad
      short := if f < m.laneStop p then true else if 2 * m.laneStop p ≤ f then false else l.short
      at_ := m.now
      free := f
      shown := shown.1
      consume := consume }
    let m1 := ((shown.2.setLane p l1).wr64 (Reg.ING_P_CONSUME_POS_LO p) spos).wr64 (Reg.ING_P_COMMIT_POS_LO p) cpos
    let m2 := m1.wrN (Reg.ING_P_FREE p) (shown.1 / 1024)
    m2.when (bad && !l.overran) (fun m => m.inc Reg.ING_OVERRUN)

/-- The module condition of Table 17.3. -/
def moduleCondition (m : Mod) : Bool :=
  if m.freeSum < m.stopSum then true else if 2 * m.stopSum ≤ m.freeSum then false else m.ing.full

/-- Data of an ingest event. -/
def ingestData (m : Mod) (p : Nat) : List Byte :=
  leBytes 1 p ++ leBytes 1 (m.laneCause p) ++ leBytes 8 (m.laneSt p).shown

/-- A producer whose state changed gets its notice, and the change is posted. -/
def settleLane (overBefore : List Nat) (m : Mod) (p : Nat) : Mod :=
  let m1 := m.when ((m.laneSt p).overran && !overBefore.contains p) (fun m => m.postModule 0x063 (m.ingestData p))
  if m1.laneHeld p != m1.flag (Fld.ING_P_HELD p) then
    let held := m1.laneHeld p
    ((m1.fput (Fld.ING_P_HELD p) held).notice p (if held then 1 else 0)).postModule (if held then 0x061 else 0x062)
      (m1.ingestData p)
  else m1

/-- The evaluation of every microsecond (R342, R343, R346). -/
def evaluateIngest (mem : Memory) (m : Mod) : Mod :=
  if m.ready then
    let overran := m.producers.filter (fun p => (m.laneSt p).overran)
    let m1 := m.producers.foldl (fun m p => m.readLane mem p) m
    let m2 := { m1 with ing := { m1.ing with full := m1.moduleCondition } }
    (m2.producers.foldl (settleLane overran) m2).showIngest
  else m

/-- The reservoir time as evaluated at a step 2 (R346). -/
def resTimeNow (mem : Memory) (m : Mod) : Nat := (m.producers.foldl (fun m p => m.readLane mem p) m).resTime

/-- A stretch holds committed bytes of an enabled lane that are not released (R342). -/
def unreleased (mem : Memory) (m : Mod) (cell len : Nat) : Bool :=
  m.producers.any (fun p =>
    match readHeader mem m p with
    | none => false
    | some (commit, _, consume, _) =>
      let c := m.laneData p
      let base := m.laneCell p + 4096
      let used := min (commit - consume) c
      let from_ := consume % c
      let first : Span := ⟨base + from_, min used (c - from_)⟩
      let rest : Span := ⟨base, used - (c - from_)⟩
      (first.len != 0 && overlaps first ⟨cell, len⟩) || (rest.len != 0 && overlaps rest ⟨cell, len⟩))

/-! ### Writes of the ING_ block -/

/-- The checks of the ING_ block (R336, R337). -/
def ingCheck (m : Mod) (off : Nat) (v : Word) : Nat :=
  if off = Reg.ING_RES_CFG then
    if 4 ≤ wordBits v 5 0 ∧ wordBits v 5 0 ≤ 32 then stOk else stMalformed
  else if 0x30100 ≤ off ∧ off < 0x30500 then
    let p := (off - 0x30100) / 0x40
    if off = Reg.ING_P_CTRL p then
      if bitOf v.toNat 31 && !m.laneOn p then (if m.laneOk p then stOk else stMalformed)
      else if bitOf v.toNat 31 && wordBits v 29 26 != bitsOf (m.rdN off) 29 26 then stAccessDenied
      else stOk
    else if m.laneOn p then stAccessDenied else stOk
  else stOk

/-- The effect of an accepted write of the ING_ block. -/
def ingEffect (m : Mod) (off : Nat) (v : Word) : Mod :=
  if 0x30100 ≤ off ∧ off < 0x30500 then
    let p := (off - 0x30100) / 0x40
    if off = Reg.ING_P_CTRL p then
      if bitOf v.toNat 31 && !m.laneOn p then (m.regStore off v).enableLane p
      else if !bitOf v.toNat 31 && m.laneOn p then m.disableLane p v
      else m.regStore off v
    else if off = Reg.ING_P_NOTE_HI p then
      (m.regStore off v).setBase64 (Reg.ING_P_NOTE_LO p) (m.rdN (Reg.ING_P_NOTE_LO p) / 32 * 32 + 2 ^ 32 * v.toNat)
    else m.regStore off v
  else m.regStore off v

end Mod

def execIngestEvaluation (s : State) : Host.Outcome State Fault Refusal := nextMod s (fun m => m.evaluateIngest s.mem)

end Sys2Proof.Machine
end

