-- ==== Sys2Proof/Machine/Bar2.lean ====
section
/-!
DEFINITION. BAR2 (R244, R245, R253 of 12_address_space.md, R342): apertures, and reads and writes through them.
-/

namespace Sys2Proof.Machine

open Sys2Proof

namespace Mod

/-- Base of an aperture as last taken by a write of HIF_B2_MAP_HI; none where it is not valid. -/
def aperture (m : Mod) (a : Nat) : Option Nat :=
  let e := m.base64 (Reg.HIF_B2_MAP_LO a)
  if bitOf e 0 then some (e / 2 ^ 30 * 2 ^ 30) else none

/-- An access cut at 64-byte lines: the offset and length of each piece. -/
def bar2Cut (off len : Nat) : List (Nat × Nat) :=
  (List.range ((off + len - 1) / 64 - off / 64 + 1)).map (fun i =>
    let lo := max off ((off / 64 + i) * 64)
    (lo, min (off + len) ((off / 64 + i + 1) * 64) - lo))

/-- The global address a BAR2 offset is mapped to, on a module that is ready (R413): none in an aperture that is not
valid or at an unmapped address; BAR2 reaches tier 0, tier 1 and the SRAM windows of this module (R244). -/
def bar2Map (m : Mod) (o : Nat) : Option Nat :=
  if !m.ready || decide (64 ≤ o / 2 ^ 30) then none
  else match m.aperture (o / 2 ^ 30) with
    | some b => if (placeCell (placeOf m (b + o % 2 ^ 30))).isSome then some (b + o % 2 ^ 30) else none
    | none => none

/-- The pieces of an access, each with the global address it is mapped to (R244: each byte is mapped by the aperture it
falls in). -/
def bar2Pieces (m : Mod) (off len : Nat) : List (Option Nat × Nat) :=
  (bar2Cut off len).map (fun p => (m.bar2Map p.1, p.2))

/-- One piece of a read, after the pieces before it: the bytes so far, and whether memory failed. -/
def bar2ReadPiece (mem : Memory) (ans : Option Answer) (p : List Byte × Bool × Mod) (s : Option Nat × Nat) :
    List Byte × Bool × Mod :=
  match s.1 with
  | none => (p.1 ++ List.replicate s.2 0xFF, p.2)
  | some a =>
    match p.2.2.readReq mem a s.2 ans with
    | (.done st bytes, m) => if st = stOk then (p.1 ++ bytes, p.2.1, m) else (p.1 ++ List.replicate s.2 0xFF, true, m)
    | (.waiting, m) => (p.1 ++ List.replicate s.2 0xFF, true, m)

/-- Count an access some piece of which is not mapped (HIF_B2_MISS), and one its memory failed (HIF_B2_FAIL). -/
def bar2Count (m : Mod) (pieces : List (Option Nat × Nat)) (failed : Bool) : Mod :=
  (m.when (pieces.any (·.1.isNone)) (·.inc Reg.HIF_B2_MISS)).when failed (·.inc Reg.HIF_B2_FAIL)

/-- A BAR2 read of `len` bytes; `ans` is an error its memory met, if any. -/
def bar2Read (mem : Memory) (m : Mod) (off len : Nat) (ans : Option Answer) : Mod :=
  if !m.boot.powered || len == 0 then m
  else
    let r := (m.bar2Pieces off len).foldl (bar2ReadPiece mem ans) ([], false, m)
    (r.2.2.bar2Count (m.bar2Pieces off len) r.2.1).emit
      (.bar2Data (if r.2.1 then List.replicate len 0xFF else r.1) r.2.1)

/-- One piece of a write, after the pieces before it; the number is the bytes so far, the flag says that some piece
ended TIER_TIMEOUT or TIER_ERROR. A piece that is not mapped is dropped. -/
def bar2WritePiece (bytes : List Byte) (ans : Option Answer) (p : Memory × Mod × Nat × Bool) (s : Option Nat × Nat) :
    Memory × Mod × Nat × Bool :=
  match s.1 with
  | none => (p.1, p.2.1, p.2.2.1 + s.2, p.2.2.2)
  | some a =>
    let r := p.2.1.writeReq p.1 true false a ((bytes.drop p.2.2.1).take s.2) .far ans
    let st := r.2.2.getD stOk
    (r.1, r.2.1, p.2.2.1 + s.2, p.2.2.2 || st == stTierError || st == stTierTimeout)

/-- A piece lands in bytes of an ingest lane that are committed and not released. -/
def bar2Overruns (mem : Memory) (m : Mod) (s : Option Nat × Nat) : Bool :=
  match s.1 with
  | some a => match placeCell (placeOf m a) with
    | some c => m.unreleased mem c s.2
    | none => false
  | none => false

/-- A BAR2 write; one that would land in committed bytes of an ingest lane is dropped (R342). -/
def bar2Write (mem : Memory) (m : Mod) (off : Nat) (bytes : List Byte) (ans : Option Answer) : Memory × Mod :=
  if !m.boot.powered || bytes.isEmpty then (mem, m)
  else if (m.bar2Pieces off bytes.length).any (m.bar2Overruns mem) then (mem, m.inc Reg.ING_OVERRUN)
  else
    let r := (m.bar2Pieces off bytes.length).foldl (bar2WritePiece bytes ans) (mem, m, 0, false)
    (r.1, r.2.1.bar2Count (m.bar2Pieces off bytes.length) r.2.2.2)

end Mod

def execBar2Read (off len : Nat) (ans : Option Answer) (s : State) : Host.Outcome State Fault Refusal :=
  nextMod s (fun m => m.bar2Read s.mem off len ans)
def execBar2Write (off : Nat) (bytes : List Byte) (ans : Option Answer) (s : State) : Host.Outcome State Fault Refusal :=
  nextMem s (fun mem m => m.bar2Write mem off bytes ans)

end Sys2Proof.Machine
end

