-- ==== Sys2Proof/Machine/Channels.lean ====
section
/-!
DEFINITION. Channels and messages (R53 to R60 of 02_cores_and_patterns.md), core registers, and what a core does at a
boundary: stop, switch and choose (R42 to R47, R62 to R64, R476, R477).
-/

namespace Sys2Proof.Machine

open Sys2Proof

/-! ### Message headers (Table 2.9) -/

def msgData : Nat := 1
def msgGrant : Nat := 2
def msgReturn : Nat := 3
def msgBind : Nat := 4

/-- A header read as a number of 256 bits. -/
def mhSendHeat (h : Nat) : Nat := bitsOf h 239 192
def mhCredits (h : Nat) : Nat := bitsOf h 182 178
def mhLength (h : Nat) : Nat := bitsOf h 177 160
def mhStep (h : Nat) : Nat := bitsOf h 159 128
def mhMb (h : Nat) : Nat := bitsOf h 111 96
def mhSeq (h : Nat) : Nat := bitsOf h 95 64
def mhSrcChip (h : Nat) : Nat := bitsOf h 59 45
def mhSrcCluster (h : Nat) : Nat := bitsOf h 44 41
def mhSrcCore (h : Nat) : Nat := bitsOf h 40 38
def mhSrcChan (h : Nat) : Nat := bitsOf h 37 34
def mhDstChan (h : Nat) : Nat := bitsOf h 11 8
def mhKind (h : Nat) : Nat := bitsOf h 7 0

/-- A header passes its CRC and carries a kind that is valid (R60). -/
def headerOk (hb : List Byte) : Bool :=
  hb.length == 32 && crc16 (hb.take 30) == leNat (hb.drop 30) &&
    decide (1 ≤ mhKind (leNat hb) ∧ mhKind (leNat hb) ≤ 4)

/-- The fields of a message to be sent. -/
structure MsgFields where
  sendHeat : Nat
  credits : Nat := 0
  length : Nat
  step : Nat := 0
  mb : Nat := 0
  seq : Nat := 0
  srcChip : Nat
  srcCluster : Nat
  srcCore : Nat
  srcChan : Nat
  dstChip : Nat
  dstCluster : Nat
  dstCore : Nat
  dstChan : Nat
  kind : Nat
deriving DecidableEq, Repr

/-- The 32 bytes of a header, CRC included. -/
def headerBytes (f : MsgFields) : List Byte :=
  let n := f.sendHeat % 2 ^ 48 * 2 ^ 192 + f.credits % 32 * 2 ^ 178 + f.length % 2 ^ 18 * 2 ^ 160 +
    f.step % 2 ^ 32 * 2 ^ 128 + f.mb % 2 ^ 16 * 2 ^ 96 + f.seq % 2 ^ 32 * 2 ^ 64 + f.srcChip % 2 ^ 15 * 2 ^ 45 +
    f.srcCluster % 16 * 2 ^ 41 + f.srcCore % 8 * 2 ^ 38 + f.srcChan % 16 * 2 ^ 34 + f.dstChip % 2 ^ 15 * 2 ^ 19 +
    f.dstCluster % 16 * 2 ^ 15 + f.dstCore % 8 * 2 ^ 12 + f.dstChan % 16 * 2 ^ 8 + f.kind % 256
  leBytes 30 n ++ leBytes 2 (crc16 (leBytes 30 n))

/-- The status of a failed channel message (R58, R265). -/
def lossStatus : MsgLoss → Nat
  | .route => stRouteLost
  | .unit => stUnitLost
  | .discarded => stTierError

/-- The next sequence number passes those of messages discarded whole (R265). Sequence numbers are 32-bit fields, and count
modulo 2^32 (Table 2.9; log entry 148). -/
def passGone (c : InChan) : InChan :=
  c.gone.foldl (fun c _ =>
    if c.gone.contains c.nextSeq then { c with nextSeq := (c.nextSeq + 1) % 2 ^ 32, gone := c.gone.filter (· != c.nextSeq) } else c) c

namespace Mod

def inSt (m : Mod) (n i : Nat) : InChan := tabGet (fun _ => {}) (m.coreSt n).inCh i
def setIn (m : Mod) (n i : Nat) (c : InChan) : Mod :=
  (m.modCore n (fun k => { k with inCh := tabPut (fun _ => {}) k.inCh i c })).wrN (Reg.CORE_IN_HELD n i) c.held.length
/-- Credits of an out-channel that arrived since the last tick (R43). -/
def lateOf (m : Mod) (n j : Nat) : Nat := tabGet (fun _ => 0) (m.coreSt n).lateCredit j
def setLate (m : Mod) (n j v : Nat) : Mod :=
  m.modCore n (fun k => { k with lateCredit := tabPut (fun _ => 0) k.lateCredit j v })

/-- At a tick everything that arrived before it counts (R43). -/
def arrivalsCount (m : Mod) : Mod :=
  m.cores.foldl (fun m e => m.modCore e.1 (fun c => { c with
    lateCredit := []
    inCh := c.inCh.map (fun x => (x.1, { x.2 with held := x.2.held.map (fun y => { y with late := false }) })) })) m

def outSeqOf (m : Mod) (n j : Nat) : Nat := tabGet (fun _ => 0) (m.coreSt n).outSeq j
def setOutSeq (m : Mod) (n j v : Nat) : Mod :=
  m.modCore n (fun k => { k with outSeq := tabPut (fun _ => 0) k.outSeq j v })
def credits (m : Mod) (n j : Nat) : Nat := m.rdN (Reg.CORE_OUT_CREDIT n j)

/-- Why a message to a core completes without having arrived (R58, R273, R402): its module is declared lost or has no
route, or the unit is lost here. -/
def destGone (m : Mod) (chip cluster core : Nat) : Option MsgLoss :=
  let x := chip / 4
  if x ≠ m.self then
    if bitOf (m.rdN (Reg.CAST_ML_MAP (x / 32))) (x % 32) then some .unit
    else if m.flag (Fld.FAB_RT_VALID x) = false then some .route
    else none
  else if m.dieIsLost (chip % 4) || (m.clusterSt (chip % 4 * 12 + cluster)).lost ||
      m.coreState (chip % 4 * 96 + cluster * 8 + core) == 4 then some .unit
  else none

/-- A message completes at its sender without having been acknowledged, and counts as acknowledged (R58). -/
def channelLost (m : Mod) (id : Nat) (how : MsgLoss) : Mod :=
  match m.msgs.find? (·.id == id) with
  | some x =>
    ({ m with msgs := m.msgs.filter (·.id != id) }).postCore 0x186 x.core
      (leBytes 1 x.chan ++ leBytes 1 (lossStatus how) ++ leBytes 2 x.dstChip ++
        leBytes 1 x.dstCluster ++ leBytes 1 x.dstCore)
  | none => m

/-- Every message whose destination is gone completes. -/
def endGoneMessages (m : Mod) : Mod :=
  m.msgs.foldl (fun m x => match m.destGone x.dstChip x.dstCluster x.dstCore with
    | some how => m.channelLost x.id how
    | none => m) m

/-- A message is reported lost: its destination is gone, or has discarded it whole (R58, R265). What is lost of another module
that can be reached, a core, a cluster or a die, that module alone knows, and its report stands. -/
def messageLost (m : Mod) (id : Nat) (how : MsgLoss) : Mod :=
  match m.msgs.find? (·.id == id) with
  | some x =>
    if how = .discarded ∨ m.destGone x.dstChip x.dstCluster x.dstCore = some how ∨
        (how = .unit ∧ x.dstChip / 4 ≠ m.self) then m.channelLost id how else m
  | none => m

/-- Send a channel message of core `n`'s channel `ch` to the peer its descriptor `d` names; until it is acknowledged
its cluster has not finished the heat (R13). One whose destination is gone completes at once. -/
def sendMessage (m : Mod) (n ch d kind credits length step mb seq : Nat) (payload : List Byte) : Mod :=
  let f : MsgFields := {
    sendHeat := if kind = msgData ∨ kind = msgReturn then m.boundHeat n else m.heatNo
    credits := credits, length := length, step := step, mb := mb, seq := seq
    srcChip := m.chip (n / 96), srcCluster := n / 8 % 12, srcCore := n % 8, srcChan := ch
    dstChip := chPeerChip d, dstCluster := chPeerCluster d, dstCore := chPeerCore d, dstChan := chPeerChan d
    kind := kind }
  let m1 := m.emit (.message m.nextId (headerBytes f) payload)
  let m2 := { m1 with
    msgs := m1.msgs ++ [{ id := m.nextId, core := n, chan := ch, heat := m.heatNo, dstChip := chPeerChip d,
                          dstCluster := chPeerCluster d, dstCore := chPeerCore d, work := none }]
    nextId := m.nextId + 1 }
  match m.destGone (chPeerChip d) (chPeerCluster d) (chPeerCore d) with
  | some how => m2.channelLost m.nextId how
  | none => m2

/-- A core that can take a message: RUNNING or HELD (R57). -/
def takesMessages (m : Mod) (n : Nat) : Bool := m.coreState n == 1 || m.coreState n == 2

/-- A bad header stops the receiving core's pattern at the next boundary, and nothing before it (R60). -/
def badHeader (m : Mod) (n : Nat) : Mod :=
  if m.takesMessages n then m.modCore n (fun c => { c with stopMalformed := true }) else m

/-- The sender a header names is the peer a descriptor names. -/
def peerIs (d h : Nat) : Bool :=
  chPeerChip d == mhSrcChip h && chPeerCluster d == mhSrcCluster h && chPeerCore d == mhSrcCore h &&
    chPeerChan d == mhSrcChan h

/-- CHANNEL_MISMATCH: `what` 0 a grant refused, 1 a bind request refused (Table 16.10). -/
def mismatch (m : Mod) (n h what : Nat) : Mod :=
  m.postCore 0x185 n (leBytes 1 (mhDstChan h) ++ leBytes 2 (mhSrcChip h) ++ leBytes 1 (mhSrcCluster h) ++
    leBytes 1 (mhSrcCore h) ++ leBytes 1 (mhSrcChan h) ++ leBytes 1 what)

/-- A message joins those held, once. Its slot is that of its sequence number, and the next number is taken next, whatever the
order of arrival (R57). -/
def insertMsg (x : HeldMsg) (held : List HeldMsg) : List HeldMsg :=
  if held.any (fun y => y.seq == x.seq) then held else held ++ [x]

/-- A received DATA message (R57): placed in its slot, or discarded and counted. -/
def receiveData (mem : Memory) (m : Mod) (n : Nat) (hb payload : List Byte) : Memory × Mod :=
  let h := leNat hb
  if !headerOk hb || mhKind h != msgData then (mem, m.badHeader n)
  else
    let i := mhDstChan h
    let d := m.inChan mem n i
    let c := m.inSt n i
    if !m.takesMessages n || !chValid d || decide (mhSendHeat h < c.bindHeat) then (mem, m.inc (Reg.CORE_DISCARD n))
    else
      let s := slotSpan n d
      let at_ := s.addr + mhSeq h % chSlots d * (64 * chSize d)
      (memWrite mem at_ (payload.take (64 * mhLength h)),
        m.setIn n i { c with held := insertMsg ⟨mhSeq h, mhStep h, mhMb h, true⟩ c.held })

/-- A received CREDIT_GRANT (R55): it sets the out-channel's credits and sequence number afresh, or is refused. -/
def receiveGrant (mem : Memory) (m : Mod) (n : Nat) (hb : List Byte) : Mod :=
  let h := leNat hb
  if !headerOk hb || mhKind h != msgGrant then m.badHeader n
  else
    let d := m.outChan mem n (mhDstChan h)
    if chValid d && peerIs d h && chSlots d == mhCredits h && chSize d == mhLength h then
      ((m.wrN (Reg.CORE_OUT_CREDIT n (mhDstChan h)) (mhCredits h)).setOutSeq n (mhDstChan h) 0).setLate n (mhDstChan h)
        (mhCredits h)
    else m.mismatch n h 0

/-- A received CREDIT_RETURN (R56); one whose sender is not the peer of a valid out-channel adds nothing, and no return takes the
credits beyond the slot count (DESIGN CHOICE, log entry 147). -/
def receiveReturn (mem : Memory) (m : Mod) (n : Nat) (hb : List Byte) : Mod :=
  let h := leNat hb
  if !headerOk hb || mhKind h != msgReturn then m.badHeader n
  else
    let j := mhDstChan h
    let d := m.outChan mem n j
    if chValid d && peerIs d h then
      let k := min (m.credits n j + mhCredits h) (chSlots d)
      (m.wrN (Reg.CORE_OUT_CREDIT n j) k).setLate n j (m.lateOf n j + (k - m.credits n j))
    else m

/-- A CREDIT_GRANT of an in-channel's full slot count (R55). -/
def sendGrant (m : Mod) (n i d : Nat) : Mod :=
  m.sendMessage n i d msgGrant (chSlots d) (chSize d) (m.heatNumbers n).1 (m.heatNumbers n).2 0 []

/-- A received BIND_REQUEST (R55). -/
def receiveBind (mem : Memory) (m : Mod) (n : Nat) (hb : List Byte) : Mod :=
  let h := leNat hb
  if !headerOk hb || mhKind h != msgBind then m.badHeader n
  else
    let i := mhDstChan h
    let d := m.inChan mem n i
    if chValid d && peerIs d h && chSize d == mhLength h then
      let m1 := m.addSat (Reg.CORE_DISCARD n) (m.inSt n i).held.length
      (m1.setIn n i { bindHeat := mhSendHeat h }).sendGrant n i d
    else m.mismatch n h 1

/-- Every word of the alternative that took messages has completed, none being left to issue. The words of a block that were cut
off, by a malformed word or by the heat watchdog, count for nothing: the slots are freed once those issued have completed
(DESIGN CHOICE, log entry 147). -/
def choiceDone (m : Mod) (n : Nat) : Bool :=
  !m.wordsLeft n && (m.coreSt n).issued.isNone && !m.works.any (fun w => w.who == .core n)

/-- The slots of the messages taken are freed and one credit each goes back to its sender (R56). -/
def freeSlots (mem : Memory) (m : Mod) (n : Nat) : Mod :=
  match (m.coreSt n).choice with
  | some c =>
    if !c.freed && m.choiceDone n then
      (c.taken.foldl (fun m t => m.sendMessage n t.1 (m.inChan mem n t.1) msgReturn 1 0 c.step c.mb 0 []) m).modCore n
        (fun k => { k with choice := k.choice.map (fun ch => { ch with freed := true }) })
    else m
  | none => m

/-! ### Sends (R53, R475) -/

/-- The source cells of a send word: none where its region leaves its memory. -/
def sendSource (n w : Nat) : Option Span :=
  let len := 64 * bitsOf w 32 15
  let off := 64 * bitsOf w 50 33
  if bitOf w 51 then (if off + len ≤ 0x1000000 then some ⟨sharedCell (n / 8) off, len⟩ else none)
  else (if off + len ≤ 0xE0000 then some ⟨localCell n off, len⟩ else none)

/-- A send word is taken by the channel unit: sent, or not issued, as for an unknown unit. A word with a reserved bit set
is not issued either (DESIGN CHOICE, log entry 116). -/
def sendWord (mem : Memory) (m : Mod) (n : Nat) : Mod :=
  match m.issuedFor n 4, (m.coreSt n).choice with
  | some (w, _, _), some c =>
    let j := bitsOf w 55 52
    let d := m.outChan mem n j
    match sendSource n w with
    | none => m.stopMalformed n
    | some src =>
      if !bitOf c.outMask j || bitOf c.sent j || decide (chSize d < bitsOf w 32 15) || bitsOf w 14 0 != 0 then
        m.stopMalformed n
      else
        let from_ := m.relocate mem n src.addr
        let m1 := m.takeWord n
        let m2 := m1.sendMessage n j d msgData 0 (bitsOf w 32 15) c.step c.mb (m.outSeqOf n j)
          (memRead mem from_ src.len)
        (m2.setOutSeq n j ((m.outSeqOf n j + 1) % 2 ^ 32)).modCore n (fun k => { k with
          choice := k.choice.map (fun ch => { ch with sent := ch.sent ||| 2 ^ j }) })
  | _, _ => m

/-! ### Stop, switch and choose (R42 to R47, R62, R63) -/

/-- PATTERN_STOPPED (R477), and the core is STOPPED. -/
def stopPattern (mem : Memory) (m : Mod) (n status err : Nat) : Mod :=
  let m1 := m.postCore 0x182 n (leBytes 8 (m.patternId mem n) ++ leBytes 2 (m.rdN (Reg.CORE_ENTRY n)) ++
    leBytes 1 status ++ leBytes 1 err)
  m1.fset (Fld.CORE_STATE n) 3

/-- A changed in-channel at a switch: held messages are discarded and counted, and a valid one sends its grant. -/
def rebindIn (m : Mod) (n i new : Nat) : Mod :=
  let m1 := m.addSat (Reg.CORE_DISCARD n) (m.inSt n i).held.length
  let m2 := m1.setIn n i { bindHeat := m.heatNo }
  if chValid new then m2.sendGrant n i new else m2

/-- A changed out-channel at a switch: no credits, and a valid one sends its bind request. -/
def rebindOut (m : Mod) (n j new : Nat) : Mod :=
  let m1 := ((m.wrN (Reg.CORE_OUT_CREDIT n j) 0).setOutSeq n j 0).setLate n j 0
  if chValid new then m1.sendMessage n j new msgBind 0 (chSize new) (m1.heatNumbers n).1 (m1.heatNumbers n).2 0 [] else m1

/-- The load error a refused switch takes (step 3 of R62): WIDTH, then that of the last failed check, then UNCHECKED. -/
def switchError (mem : Memory) (m : Mod) (n : Nat) : Nat :=
  let h := imgSlot mem n (1 - m.activeBank n) 0
  if phWidth h ≠ 0 ∧ phWidth h ≠ m.arrWidth (n / 8) then 7
  else match (m.coreSt n).lastCheck with
    | none => 9
    | some 0 => 9
    | some e => e

/-- The armed switch of a core takes place, or is refused (R62). -/
def applySwitch (mem : Memory) (m : Mod) (n : Nat) : Mod :=
  let b := 1 - m.activeBank n
  let h := imgSlot mem n b 0
  let m0 := m.fput (Fld.CORE_SWITCH_ARM n) false
  if m.flag (Fld.CORE_INACTIVE_OK n) && (phWidth h == 0 || phWidth h == m.arrWidth (n / 8)) then
    let olds := fun i => (m.inChan mem n i, m.outChan mem n i)
    let m1 := (List.range 16).foldl (fun m i =>
      let new := inDesc mem n b i
      if (olds i).1 = new then m else m.rebindIn n i new) m0
    let m2 := (List.range 16).foldl (fun m j =>
      let new := outDesc mem n b j
      if (olds j).2 = new then m else m.rebindOut n j new) m1
    let m3 := (List.range 4).foldl (fun m i => m.wr (Reg.CORE_LOOP n i) 0) m2
    let m4 := ((m3.fset (Fld.CORE_ACTIVE_BANK n) b).fput (Fld.CORE_INACTIVE_OK n) false).fset (Fld.CORE_STATE n) 1
    let m5 := m4.wrN (Reg.CORE_ENTRY n) (phStart h)
    (m5.modCore n (fun c => { c with lastCheck := none, choice := none, issued := none })).postCore 0x183 n
      (leBytes 8 (phId h))
  else
    let e := m.switchError mem n
    (m0.fset (Fld.CORE_LOAD_ERR n) e).postCore 0x184 n (leBytes 8 (phId h) ++ leBytes 1 e)

/-- The stop and the switch of a core at a boundary its cluster takes part in (R60, R62, R63). A stop for a malformed word
and a switch due together: the pattern stops and then the switch is applied; CORE_STOP and a malformed stop together: one
PATTERN_STOPPED with status OK; a switch due on a LOST core stays armed (DESIGN CHOICE, log entry 116). CORE_STOP of a core
that is not RUNNING clears with no event, and a switch due with it is dropped (DESIGN CHOICE, log entry 147). -/
def stopOrSwitch (mem : Memory) (m : Mod) (n : Nat) : Mod :=
  let due := m.flag (Fld.CORE_SWITCH_ARM n) && decide ((m.coreSt n).switchAt ≤ m.heatNo)
  if m.coreState n = 4 ∨ m.coreState n = 2 then m
  else if m.flag (Fld.CORE_STOP n) then
    let m1 := (m.fput (Fld.CORE_STOP n) false).when due (fun m => m.fput (Fld.CORE_SWITCH_ARM n) false)
    let m2 := m1.modCore n (fun c => { c with stopMalformed := false })
    if m.coreState n = 1 then m2.stopPattern mem n stOk 0 else m2
  else
    let m1 := if (m.coreSt n).stopMalformed then
        let a := m.modCore n (fun c => { c with stopMalformed := false })
        if m.coreState n = 1 then a.stopPattern mem n stMalformed 0 else a
      else m
    if due then m1.applySwitch mem n else m1

/-- An alternative is ready at a boundary (R43): messages and credits that arrived before the tick count. A channel that
holds only messages behind a missing sequence number is not ready (DEDUCED, log entry 116). -/
def altReady (m : Mod) (n a : Nat) : Bool :=
  (List.range 16).all (fun i =>
    (!bitOf (alIn a) i || (m.inSt n i).held.any (fun x => x.seq == (m.inSt n i).nextSeq && !x.late)) &&
    (!bitOf (alOut a) i || decide (m.lateOf n i + 1 ≤ m.credits n i))) &&
  (!alArray a || bitsOf (m.rdN (Reg.CORE_CL_LEASE (n / 8))) 3 3 == 0)

/-- The next entry, and the loop counter's step (R46). -/
def nextEntry (m : Mod) (n e a : Nat) : Mod × Nat :=
  let k := enCtrSel e
  if k = 0 then (m, alNext a)
  else
    let v := (m.rdN (Reg.CORE_LOOP n (k - 1)) + 1) % 65536
    if v = enLimit e then (m.wr (Reg.CORE_LOOP n (k - 1)) 0, enExit e)
    else (m.wrN (Reg.CORE_LOOP n (k - 1)) v, alNext a)

/-- Take one message from an in-channel: the slot it stands in, its step and micro-batch. -/
def takeMsg (mem : Memory) (m : Mod) (n i : Nat) : Mod × (Nat × Nat) × Nat × Nat :=
  let c := m.inSt n i
  let d := m.inChan mem n i
  let x := (c.held.find? (fun x => x.seq == c.nextSeq)).getD { seq := 0, step := 0, mb := 0 }
  (m.setIn n i (passGone { c with
      nextSeq := (c.nextSeq + 1) % 2 ^ 32, held := c.held.filter (fun x => x.seq != c.nextSeq) }),
    (i, c.nextSeq % chSlots d), x.step, x.mb)

/-- Channels a mask names. -/
def maskBits (mask : Nat) : List Nat := (List.range 16).filter (fun i => bitOf mask i)

/-- The chosen alternative's effects (R44, R46, R47); an empty block is issued with the choice. -/
def takeAlt (mem : Memory) (m : Mod) (n e a alt : Nat) : Mod :=
  let m1 := if alArray a then m.wrN (Reg.CORE_CL_LEASE (n / 8)) (8 + n % 8) else m
  let r := (maskBits (alIn a)).foldl (fun (p : Mod × List (Nat × Nat) × List (Nat × Nat)) i =>
    let t := p.1.takeMsg mem n i
    (t.1, p.2.1 ++ [t.2.1], p.2.2 ++ [t.2.2])) (m1, [], [])
  let bound := match r.2.2 with
    | (s, b) :: _ => (s, b)
    | [] => (m.rdN (Reg.CORE_STEP n), m.rdN (Reg.CORE_MB n))
  let m2 := (maskBits (alOut a)).foldl (fun m j => m.wrN (Reg.CORE_OUT_CREDIT n j) (m.credits n j - 1)) r.1
  let ne := m2.nextEntry n e a
  let m3 := (ne.1.wrN (Reg.CORE_ENTRY n) ne.2).modCore n (fun c => { c with
    issued := none
    choice := some { entry := m.rdN (Reg.CORE_ENTRY n), alt := alt, inMask := alIn a, outMask := alOut a,
                     workPtr := alPtr a, workLen := alLen a, step := bound.1, mb := bound.2, heat := m.heatNo,
                     taken := r.2.1, stepInc := alStepInc a, mbInc := alMbInc a, cols := m.colMap (n / 8) } })
  let m4 := m3.when (alLen a == 0) (fun m => m.advanceStep n (alStepInc a) (alMbInc a))
  ((m4.bindStep bound.1).fset (Fld.CORE_LAST_ALT n) alt).fput (Fld.CORE_IDLE_LAST n) false

/-- A running core's choice at step 6 (R44). -/
def chooseCore (mem : Memory) (m : Mod) (n : Nat) : Mod :=
  if m.coreState n ≠ 1 then m
  else
    let e := imgSlot mem n (m.activeBank n) (m.rdN (Reg.CORE_ENTRY n))
    if enKind e = 2 then
      (m.postCore 0x181 n (leBytes 8 (m.patternId mem n) ++ leBytes 2 (m.rdN (Reg.CORE_ENTRY n)))).fset (Fld.CORE_STATE n) 3
    else
      match (List.range (enAltCount e)).find? (fun i => m.altReady n (entryAlt e i)) with
      | none =>
        ((m.inc (Reg.CORE_IDLE_COUNT n)).fput (Fld.CORE_IDLE_LAST n) true).modCore n (fun c => { c with choice := none })
      | some i => m.takeAlt mem n e (entryAlt e i) i

/-- Out-channels of the last choice that received no send get their credit back at the end of the heat (R53). -/
def returnUnsent (m : Mod) (n : Nat) : Mod :=
  match (m.coreSt n).choice with
  | some c =>
    ((maskBits c.outMask).foldl (fun m j =>
      if bitOf c.sent j then m else m.wrN (Reg.CORE_OUT_CREDIT n j) (m.credits n j + 1)) m).modCore n
        (fun k => { k with choice := k.choice.map (fun ch => { ch with outMask := 0 }) })
  | none => m

/-- Cores `8 g` to `8 g + 7` of a cluster. -/
def coresOf (g : Nat) : List Nat := (List.range 8).map (fun k => 8 * g + k)

/-- A cluster has finished its heat (R13): everything issued has completed, slots are freed and messages
acknowledged. -/
def clusterFinished (m : Mod) (g : Nat) : Bool :=
  (coresOf g).all (fun n => m.choiceDone n && (match (m.coreSt n).choice with
    | some c => c.freed || c.taken.isEmpty
    | none => true)) && !m.msgs.any (fun x => x.counts && x.core / 8 == g)

/-- Step 6 for one cluster that takes part: cores in order, each stopped or switched and then choosing. -/
def chooseCluster (mem : Memory) (m : Mod) (g : Nat) : Mod :=
  let m1 := (coresOf g).foldl (fun m n => m.returnUnsent n) (m.wr (Reg.CORE_CL_LEASE g) 0)
  (coresOf g).foldl (fun m n => (m.stopOrSwitch mem n).chooseCore mem n) m1

/-- Running cores whose pattern no longer matches the presented width stop, and inactive banks of such a width lose
their check (R64). -/
def widthStop (mem : Memory) (m : Mod) (g : Nat) : Mod :=
  (coresOf g).foldl (fun m n =>
    let w := m.arrWidth g
    let act := phWidth (m.header mem n)
    let ina := phWidth (imgSlot mem n (1 - m.activeBank n) 0)
    let m1 := if m.coreState n = 1 ∧ act ≠ 0 ∧ act ≠ w then m.stopPattern mem n stOk 7 else m
    if ina ≠ 0 ∧ ina ≠ w then m1.fput (Fld.CORE_INACTIVE_OK n) false else m1) m

/-! ### Writes of the CORE_ registers (R61 to R65, R397, R476) -/

/-- Core number of an offset in a core's block. -/
def coreOfOff (off : Nat) : Nat :=
  let d := (off - 0x1000000) / 0x400000
  let c := (off - 0x1000000) % 0x400000 / 0x10000
  (d * 12 + c) * 8 + (off % 0x10000 - 0x1000) / 0x100

def coreHeat (m : Mod) (n : Nat) : Nat :=
  m.rdN (Reg.CORE_SWITCH_AT_LO n) + 2 ^ 32 * m.rdN (Reg.CORE_SWITCH_AT_HI n)

/-- The checks of a core's registers: an arm's heat (R62), and CORE_STEP and CORE_MB only while not RUNNING (R65) and
not under a restore lock (R397). -/
def coreCheck (m : Mod) (off : Nat) (v : Word) : Nat :=
  let n := coreOfOff off
  if off = Reg.CORE_CTRL n then
    if bitOf v.toNat 1 && decide (m.coreHeat n < m.heatNo + 2) then stMalformed else stOk
  else if off = Reg.CORE_STEP n ∨ off = Reg.CORE_MB n then
    if m.coreState n = 1 ∨ m.flag Fld.CAST_RS_LOCKED then stAccessDenied else stOk
  else stOk

/-- The effect of an accepted write of a core's registers. -/
def coreEffect (m : Mod) (off : Nat) (v : Word) : Mod :=
  let n := coreOfOff off
  if off = Reg.CORE_CTRL n then
    let m1 := (m.fput (Fld.CORE_STOP n) (bitOf v.toNat 2)).fput (Fld.CORE_SWITCH_ARM n) (bitOf v.toNat 1)
    let m2 := m1.when (bitOf v.toNat 1) (fun m => m.modCore n (fun c => { c with switchAt := m.coreHeat n }))
    m2.when (bitOf v.toNat 0) (fun m => m.fput (Fld.CORE_VALIDATING n) true)
  else m.regStore off v

end Mod

def execSend (n : Nat) (s : State) : Host.Outcome State Fault Refusal := nextMod s (fun m => m.sendWord s.mem n)
def execData (n : Nat) (header payload : List Byte) (s : State) : Host.Outcome State Fault Refusal :=
  nextMem s (fun mem m => m.receiveData mem n header payload)
def execCreditGrant (n : Nat) (header : List Byte) (s : State) : Host.Outcome State Fault Refusal :=
  nextMod s (fun m => m.receiveGrant s.mem n header)
def execCreditReturn (n : Nat) (header : List Byte) (s : State) : Host.Outcome State Fault Refusal :=
  nextMod s (fun m => m.receiveReturn s.mem n header)
def execBindRequest (n : Nat) (header : List Byte) (s : State) : Host.Outcome State Fault Refusal :=
  nextMod s (fun m => m.receiveBind s.mem n header)
def execSlotFree (n : Nat) (s : State) : Host.Outcome State Fault Refusal := nextMod s (fun m => m.freeSlots s.mem n)
def execChannelLost (id : Nat) (how : MsgLoss) (s : State) : Host.Outcome State Fault Refusal :=
  nextMod s (fun m => m.messageLost id how)

end Sys2Proof.Machine
end

