-- ==== Sys2Proof/Machine/Norms.lean ====
section
/-!
DEFINITION. Long accumulators and the sums that the collective engine forms (R291 to R294 of
14_collectives_and_job_mapping.md).
-/

namespace Sys2Proof.Machine

open Sys2Proof

/-- Add an exact value that is a whole number of units of 2^-149, or not finite. -/
def accVal (a : LongAcc) : Val → LongAcc
  | .nan => { a with nan := true }
  | .inf false => { a with pinf := true }
  | .inf true => { a with ninf := true }
  | .fin s m e => { a with sum := a.sum + scaledTo s m e (-149) }

/-- Two accumulators together: exact, in whatever order. -/
def accAdd (a b : LongAcc) : LongAcc :=
  { sum := a.sum + b.sum, pinf := a.pinf || b.pinf, ninf := a.ninf || b.ninf, nan := a.nan || b.nan }

/-- What an accumulator reads as, rounded once by nearest-even to binary32. -/
def accRead (a : LongAcc) : Nat :=
  if a.nan || (a.pinf && a.ninf) then f32Enc .nan
  else if a.pinf then f32Enc (.inf false)
  else if a.ninf then f32Enc (.inf true)
  else f32Enc (.fin (decide (a.sum < 0)) a.sum.natAbs (-149))

/-- The squares of a list of values, each rounded to binary32. -/
def accSquares (a : LongAcc) (vs : List Val) : LongAcc := vs.foldl (fun a v => accVal a (f32Mul v v)) a

namespace Mod

/-- Table-norm slot that names a table (R292). -/
def normSlot (m : Mod) (table : Nat) : Option Nat :=
  (List.range 64).find? (fun k => bitOf (m.rdN (Reg.COL_TN k)) 31 && bitsOf (m.rdN (Reg.COL_TN k)) 11 0 == table)

/-- A table contribution row leaves this module: its squares go into its table's accumulator, or it is late (R292, R294). -/
def noteSent (m : Mod) (table step : Nat) (vs : List Val) : Mod :=
  if m.closeTaken step then m.inc Reg.COL_LATE_ADD
  else
    match m.normSlot table with
    | none => m
    | some k =>
      let key := k * 8 + step % 8
      { m with col := { m.col with
          tn := tabPut (fun _ => {}) m.col.tn key (accSquares (tabGet (fun _ => {}) m.col.tn key) vs) } }

end Mod
end Sys2Proof.Machine
end

