-- ==== Sys2Proof/Machine/Collective.lean ====
section
/-!
DEFINITION. The collective engine (14_collectives_and_job_mapping.md): buckets and groups, the checks of a START,
instances and their exchanges, norms, the step close, gradient-noise statistics, and the writes of the COL_ block.
-/

namespace Sys2Proof.Machine

open Sys2Proof

/-! ### Layouts -/

/-- Fields of a bucket entry (Table 14.2), a number of 512 bits. -/
def bkSrc (e : Nat) : Nat := bitsOf e 511 448
def bkDst (e : Nat) : Nat := bitsOf e 447 384
def bkChunk (e : Nat) : Nat := bitsOf e 383 320
def bkCount (e : Nat) : Nat := bitsOf e 319 280
def bkArrive (e : Nat) : Nat := bitsOf e 279 248
def bkWatch (e : Nat) : Nat := bitsOf e 245 236
def bkMask (e : Nat) : Nat := bitsOf e 235 223
def bkFmt (e : Nat) : Nat := bitsOf e 222 219
def bkGroup (e : Nat) : Nat := bitsOf e 218 213
def bkGns (e : Nat) : Bool := bitOf e 212
def bkNorm (e : Nat) : Bool := bitOf e 211
def bkRoot (e : Nat) : Nat := bitsOf e 210 199
def bkOp (e : Nat) : Nat := bitsOf e 198 195

/-- Fields of a START or HANDOFF body (Table 16.5). -/
def srStat (b : Nat) : Nat := bitsOf b 511 448
def srBucket (b : Nat) : Nat := bitsOf b 447 438
def srNotifyEn (b : Nat) : Bool := bitOf b 437
def srChan (b : Nat) : Nat := bitsOf b 436 433

/-! ### Groups and ranks (R274, R278) -/

/-- Port of logical dimension `j` under a dimension map. -/
def logPort (l j : Nat) : Nat := bitsOf l (4 * j + 3) (4 * j)

/-- Logical dimensions of a mask, in increasing order, with their places. -/
def maskDims (mask : Nat) : List (Nat × Nat) := ((List.range 12).filter (fun j => bitOf mask j)).zipIdx

/-- Rank of module `x` in its group. -/
def rankIn (l mask x : Nat) : Nat :=
  (maskDims mask).foldl (fun n p => if bitOf x (logPort l p.1) then n + 2 ^ p.2 else n) 0

/-- The member of rank `r` of the group of module `x`. -/
def memberAt (l mask x r : Nat) : Nat :=
  (maskDims mask).foldl (fun y p =>
    insBits y (logPort l p.1) (logPort l p.1) (if bitOf r p.2 then 1 else 0)) x

/-! ### Chunk tables (R289, R290) -/

/-- Elements a chunk start is a multiple of. -/
def chunkUnit (e : Nat) : Nat := if isCb (bkFmt e) || isCb (cvFmt (bkArrive e)) then 32 else 1

/-- The default chunks of `count` elements for `p` ranks. -/
def evenChunks (count q p : Nat) : List (Nat × Nat) :=
  let units := (count + q - 1) / q
  ((List.range p).foldl (fun (acc : List (Nat × Nat) × Nat) r =>
    let n := min ((units / p + if r < units % p then 1 else 0) * q) (count - acc.2)
    (acc.1 ++ [(acc.2, n)], acc.2 + n)) ([], 0)).1

/-- A chunk table lists its chunks end to end from 0, adding up to the count. -/
def chunksOk (count q : Nat) (cs : List (Nat × Nat)) : Bool :=
  let r := cs.foldl (fun (acc : Bool × Nat) c => (acc.1 && c.1 == acc.2 && c.1 % q == 0, acc.2 + c.2)) (true, 0)
  r.1 && r.2 == count

/-- Counts packed end to end. -/
def packChunks (ns : List Nat) : List (Nat × Nat) :=
  (ns.foldl (fun (acc : List (Nat × Nat) × Nat) n => (acc.1 ++ [(acc.2, n)], acc.2 + n)) ([], 0)).1

def chunkAt (cs : List (Nat × Nat)) (r : Nat) : Nat × Nat := cs.getD r (0, 0)

/-- Bytes of elements `off` to `off + n - 1` of a stored run. -/
def sliceElems (fmt : Nat) (bytes : List Byte) (off n : Nat) : List Byte :=
  if elemBits fmt = 4 ∧ isCb fmt = false then
    packElems fmt ((List.range n).map (fun k =>
      bitsOf (byteAt bytes ((off + k) / 2)) (if (off + k) % 2 = 0 then 3 else 7) (if (off + k) % 2 = 0 then 0 else 4))) []
  else (bytes.drop (rowBytes fmt off)).take (rowBytes fmt n)

/-- The bytes of chunks that lie packed one after the other in an ALLTOALL's input, each in whole blocks where the format
has blocks (R289; DESIGN CHOICE for counts that are no multiple of 32, log entry 121). -/
def packedRuns (fmt : Nat) (bytes : List Byte) (cs : List (Nat × Nat)) : List (List Byte) :=
  if isCb fmt then
    (cs.foldl (fun (acc : List (List Byte) × Nat) c =>
      (acc.1 ++ [(bytes.drop acc.2).take (rowBytes fmt c.2)], acc.2 + rowBytes fmt c.2)) ([], 0)).1
  else cs.map (fun c => sliceElems fmt bytes c.1 c.2)

/-- Bytes of an ALLTOALL's chunks of `ns` elements, packed. -/
def packedBytes (fmt : Nat) (ns : List Nat) : Nat :=
  if isCb fmt then ns.foldl (fun n k => n + rowBytes fmt k) 0 else rowBytes fmt (ns.foldl (· + ·) 0)

/-- The codes of binary32 bytes. -/
def wordsOf (bytes : List Byte) : List Nat := (List.range (bytes.length / 4)).map (fun i => leNat ((bytes.drop (4 * i)).take 4))

/-- Partial sums of two members: v_low + v_high element by element (R286). -/
def sumChunks (low high : List Byte) : List Byte :=
  ((wordsOf low).zip (wordsOf high)).flatMap (fun x => leBytes 4 (f32Enc (f32Add (f32Of x.1) (f32Of x.2))))

/-- The rank paired with `r` over bit `k`. -/
def pairRank (r k : Nat) : Nat := Nat.xor r (2 ^ k)

/-- Combine two step-close sums (R293). -/
def closeAdd (a b : CloseSums) : CloseSums :=
  let join := fun (x y : List (Nat × LongAcc)) =>
    y.foldl (fun t p => tabPut (fun _ => ({} : LongAcc)) t p.1 (accAdd (tabGet (fun _ => {}) t p.1) p.2)) x
  { b := a.b + b.b, f := a.f + b.f, n := a.n + b.n, forced := a.forced || b.forced, global := accAdd a.global b.global
    tables := join a.tables b.tables, locals := join a.locals b.locals, globals := join a.globals b.globals }

/-- Bytes that a packet takes in the early store. -/
def earlySize (x : CollMsg) : Nat :=
  match x.body with
  | .chunks cs => cs.foldl (fun n c => n + c.2.length) 0
  | _ => 64

/-- A partner's START time, as its first packet of the instance carries it (R373). -/
def noteStart (i : Inst) (x : CollMsg) : Inst :=
  if i.peers.any (fun p => p.1 == x.src) then i
  else match x.body with
    | .abort _ => i
    | _ => { i with peers := i.peers ++ [(x.src, x.start)] }

namespace Mod

/-- The logical dimension map in force (R274). -/
def ldimNow (m : Mod) : Nat := m.rdN Reg.FAB_LDIM_NOW_LO + 2 ^ 32 * m.rdN Reg.FAB_LDIM_NOW_HI

/-- The entry of an installed bucket. -/
def bucketEntry (m : Mod) (b : Nat) : Option Nat := tabGet (fun _ => none) m.col.buckets b

def findInst (m : Mod) (b : Nat) : Option Inst := m.col.insts.find? (·.bucket == b)

/-- A bucket has an instance running or waiting. -/
def bucketBusy (m : Mod) (b : Nat) : Bool := (m.findInst b).isSome || m.col.starts.any (·.bucket == b)

/-- COL_STATUS follows the instances running and the STARTs waiting. -/
def showCol (m : Mod) : Mod :=
  m.wrN Reg.COL_STATUS (min m.col.insts.length 16 * 2 ^ 16 + min m.col.starts.length 2047)

def putInst (m : Mod) (i : Inst) : Mod :=
  { m with col := { m.col with insts := m.col.insts.map (fun k => if k.bucket == i.bucket then i else k) } }

/-! ### An instance's group and exchanges -/

def instMask (m : Mod) (i : Inst) : Nat := if i.bucket = 0 then m.fget Fld.COL_JOB_MASK else bkMask i.entry
def instDims (m : Mod) (i : Inst) : Nat := (maskDims (m.instMask i)).length
def instRank (m : Mod) (i : Inst) : Nat := rankIn i.ldim (m.instMask i) m.self
def instMember (m : Mod) (i : Inst) (r : Nat) : Nat := memberAt i.ldim (m.instMask i) m.self r
def instOp (i : Inst) : Nat := if i.bucket = 0 then 0 else bkOp i.entry
def instCount (i : Inst) : Nat := if i.bucket = 0 then 0 else bkCount i.entry

/-- The instance forms a norm (R291). -/
def instNorm (i : Inst) : Bool := i.bucket != 0 && bkNorm i.entry && (instOp i == 1 || instOp i == 2)

/-- Exchanges an instance makes before its norm's. -/
def mainRounds (m : Mod) (i : Inst) : Nat :=
  let g := m.instDims i
  match instOp i with
  | 1 => 2 * g
  | 4 => 3 * (2 ^ g - 1)
  | _ => g

def instRounds (m : Mod) (i : Inst) : Nat := m.mainRounds i + if instNorm i then m.instDims i else 0

/-- Ranks that exchange `r` sends to and receives from (R286, R287, R289, R291, R293). -/
def instPeers (m : Mod) (i : Inst) (r : Nat) : Option Nat × Option Nat :=
  let g := m.instDims i
  let me := m.instRank i
  let both := fun (x : Nat) => (some x, some x)
  if m.mainRounds i ≤ r then both (pairRank me (r - m.mainRounds i))
  else
    match instOp i with
    | 1 => both (pairRank me (if r < g then g - 1 - r else r - g))
    | 2 => both (pairRank me (g - 1 - r))
    | 4 => both (Nat.xor me (r % (2 ^ g - 1) + 1))
    | 5 =>
      let q := Nat.xor me (bkRoot i.entry)
      let peer := Nat.xor (pairRank q r) (bkRoot i.entry)
      if q < 2 ^ r then (some peer, none) else if q < 2 ^ (r + 1) then (none, some peer) else (none, none)
    | _ => both (pairRank me r)

/-- Chunks that the reduce-scatter still sums at exchange `r`: those whose rank agrees with this one in every rank bit
processed before it. -/
def liveChunk (g me r c : Nat) : Bool := c / 2 ^ (g - r) == me / 2 ^ (g - r)

/-- ALLTOALL: a member refuses its incoming chunks, and is sent none (R289). -/
def refusedBy (i : Inst) (peer : Nat) : Bool := i.counts.any (fun c => c.1 == peer && c.2.2)

/-- The packet an instance sends in exchange `r`; none where it sends nothing. -/
def instBody (m : Mod) (i : Inst) (r : Nat) : Option CollBody :=
  let g := m.instDims i
  let me := m.instRank i
  match (m.instPeers i r).1 with
  | none => none
  | some peer =>
    let reduce := some (CollBody.chunks (i.held.filter (fun c => liveChunk g me r c.1 && !liveChunk g me (r + 1) c.1)))
    if m.mainRounds i ≤ r then some (.acc i.acc)
    else
      match instOp i with
      | 0 => i.sums.map CollBody.close
      | 1 => if r < g then reduce else some (.chunks i.held)
      | 2 => reduce
      | 4 =>
        let p := 2 ^ g - 1
        if r < p then some (.count (chunkAt i.chunks peer).2 false)
        else if r < 2 * p then some (.count 0 i.refuses)
        else if refusedBy i peer then none
        else some (.chunks (i.held.filter (fun c => c.1 == peer)))
      | _ => some (.chunks i.held)

/-- Whether exchange `r` waits for a packet: a member that refuses its chunks waits for none of them. -/
def instWaits (m : Mod) (i : Inst) (r : Nat) : Bool :=
  match (m.instPeers i r).2 with
  | none => false
  | some _ => !(instOp i == 4 && decide (2 * (2 ^ m.instDims i - 1) ≤ r ∧ r < m.mainRounds i) && i.refuses)

/-- Members that an instance still expects to exchange with. -/
def instExpects (m : Mod) (i : Inst) : List Nat :=
  (((List.range (m.instRounds i)).drop i.round).flatMap (fun r =>
    let p := m.instPeers i r
    (p.1.toList ++ p.2.toList))).eraseDups.map (m.instMember i)

/-- An instance ends here before its exchanges do; every member it still expected to exchange with gets an ABORT
(R285, R296). -/
def failInst (m : Mod) (i : Inst) (status partner : Nat) : Mod :=
  if i.status.isSome then m
  else
    (m.instExpects i).foldl (fun m d =>
      m.emit (.coll d ⟨m.self, i.bucket, i.step, instOp i, instCount i, i.round, i.startAt, .abort status⟩))
      (m.putInst { i with status := some status, partner := partner })

/-- The members in a list that cannot take part: declared lost, or without a route. -/
def memberGone (m : Mod) (x : Nat) : Option Nat :=
  if bitOf (m.rdN (Reg.CAST_ML_MAP (x / 32))) (x % 32) then some stUnitLost
  else if x ≠ m.self ∧ m.flag (Fld.FAB_RT_VALID x) = false then some stRouteLost
  else none

/-- Every running instance that expects a member that is gone ends (R273, R296, R402). -/
def checkMembers (m : Mod) : Mod :=
  m.col.insts.foldl (fun m i =>
    match (m.instExpects i).filterMap (fun x => (m.memberGone x).map (fun st => (x, st))) with
    | (x, st) :: _ => m.failInst i st x
    | [] => m) m

/-! ### Results -/

/-- Bytes of the region an instance writes. -/
def dstBytes (m : Mod) (i : Inst) : Nat :=
  let f := cvFmt (bkArrive i.entry)
  match instOp i with
  | 0 => 0
  | 2 => rowBytes f (chunkAt i.chunks (m.instRank i)).2
  | _ => rowBytes f (instCount i)

/-- The result's elements, in order, with the format they are held in: bytes and their count, chunk by chunk. -/
def resultRuns (m : Mod) (i : Inst) : List (List Byte × Nat) :=
  let me := m.instRank i
  let bytesOf := fun (r : Nat) => ((i.held.find? (·.1 == r)).map (·.2)).getD []
  match instOp i with
  | 2 => [(bytesOf me, (chunkAt i.chunks me).2)]
  | 4 => (List.range (2 ^ m.instDims i)).map (fun r =>
      let got := i.counts.find? (·.1 == r)
      if r = me then (bytesOf me, (chunkAt i.chunks me).2)
      else (((i.inbox.find? (fun x => x.src == m.instMember i r)).bind (fun x => match x.body with
        | .chunks ((_, bs) :: _) => some bs
        | _ => none)).getD [], (got.map (·.2.1)).getD 0))
  | 5 => [(bytesOf (bkRoot i.entry), instCount i)]
  | _ => i.chunks.zipIdx.map (fun c => (bytesOf c.2, c.1.2))

/-- First element of the module's own part of the result, and its count. -/
def ownPart (m : Mod) (i : Inst) (total : Nat) : Nat × Nat :=
  match instOp i with
  | 1 => chunkAt i.chunks (m.instRank i)
  | 3 => chunkAt i.chunks (m.instRank i)
  | _ => (0, total)

/-- The part of a step that an instance feeds with its chunk (R291, R295). -/
def feedStep (m : Mod) (i : Inst) (f : StepAcc → StepAcc) : Mod :=
  { m with col := { m.col with steps :=
    (if m.col.steps.any (·.step == i.step) then m.col.steps else m.col.steps ++ [{ step := i.step }]).map (fun s =>
      if s.step == i.step then f s else s) } }

/-- The result writes of an instance (R286, R287, R289): through BK_ARRIVE, or as whole blocks unchanged. -/
def writeResult (mem : Memory) (m : Mod) (i : Inst) : Memory × Mod × Inst :=
  let e := i.entry
  let spec := bkArrive e
  let src := if instOp i = 1 ∨ instOp i = 2 then 1 else bkFmt e
  let runs := m.resultRuns i
  let total := runs.foldl (fun n r => n + r.2) 0
  let copied := isCb src && src == cvFmt spec
  let len := if copied then runs.foldl (fun n r => n + r.1.length) 0 else rowBytes (cvFmt spec) total
  match m.ownRegion (bkDst e) (max 1 len) true with
  | none => (mem, m, { i with wrote := true, status := some stTierError, partner := m.self })
  | some cell =>
    let out : List Byte × Tally :=
      if copied then
        (runs.flatMap (·.1), runs.foldl (fun t r => t.add (copyTally src ((r.2 + 31) / 32) r.2 r.1)) {})
      else
        let vals := runs.flatMap (fun r => decodeRun src 0 r.1 r.2)
        convRun spec vals (vals.map (fun _ => cvMode spec 0)) (memRead mem cell len) cell
    let own := m.ownPart i total
    let formed := if copied then runs.flatMap (fun r => decodeRun src 0 r.1 r.2)
      else decodeRun (cvFmt spec) (cvZp spec) out.1 total
    let bad := (formed.drop own.1 |>.take own.2).filter (fun v => !v.isFinite)
    let w := m.writeLocal mem false cell out.1
    let m1 := w.2.1.account .hub (bkWatch e) i.step out.2
    let m2 := m1.feedStep i (fun s => { s with nonfinite := s.nonfinite + bad.length })
    (w.1, m2, { i with wrote := true, written := if w.2.2 = stOk then total else 0, nonfinite := !bad.isEmpty
                       status := if w.2.2 = stOk then none else some w.2.2, partner := m.self })

/-- Add to the accumulator of a layer group. -/
def groupAdd (t : Tab LongAcc) (g : Nat) (a : LongAcc) : Tab LongAcc :=
  tabPut (fun _ => {}) t g (accAdd (tabGet (fun _ => {}) t g) a)

/-- The result chunk's squares are taken once the reduce-scatter has ended. -/
def chunkFormed (m : Mod) (i : Inst) : Mod × Inst :=
  let own := ((i.held.find? (·.1 == m.instRank i)).map (·.2)).getD []
  let sq := accSquares {} ((wordsOf own).map f32Of)
  let m1 := m.when (bkNorm i.entry) (fun m => m.feedStep i (fun s => { s with chunk := accAdd s.chunk sq }))
  let m2 := m1.when (bkGns i.entry) (fun m => m.feedStep i (fun s =>
    { s with globals := groupAdd s.globals (bkGroup i.entry) sq }))
  (m2, { i with acc := sq })

/-! ### The exchanges -/

/-- ALLTOALL: the counts to be received are written behind the send table, and a total beyond the capacity is refused
(R289). -/
def afterCounts (mem : Memory) (m : Mod) (i : Inst) : Memory × Mod × Inst :=
  let p := 2 ^ m.instDims i
  let me := m.instRank i
  let ns := (List.range p).map (fun r => if r = me then (chunkAt i.chunks me).2
    else ((i.counts.find? (·.1 == r)).map (·.2.1)).getD 0)
  let w := match m.ownRegion (bkChunk i.entry) (16 * p) false with
    | some cell => m.writeLocal mem false (cell + 8 * p) (ns.flatMap (leBytes 8))
    | none => (mem, m, stTierError)
  (w.1, w.2.1, { i with refuses := decide (instCount i < ns.foldl (· + ·) 0)
                        status := if w.2.2 = stOk then i.status else some w.2.2, partner := m.self })

/-- An exchange begins: what falls due before it is done, and its packet leaves. -/
def enterRound (mem : Memory) (m : Mod) (i : Inst) : Memory × Mod × Inst :=
  let r := i.round
  let g := m.instDims i
  let a := if (instOp i = 1 ∨ instOp i = 2) ∧ r = g then
      let c := m.chunkFormed i
      let i' := { c.2 with held := c.2.held.filter (fun x => x.1 == m.instRank i) }
      (mem, c.1, i')
    else if instOp i = 4 ∧ r = 2 ^ g - 1 then m.afterCounts mem i
    else (mem, m, i)
  let b := if instOp i ≠ 0 ∧ r = m.mainRounds i ∧ a.2.2.wrote = false then
      if a.2.2.refuses then (a.1, a.2.1, { a.2.2 with status := some stBusyRefused, partner := m.self })
      else
        let w := a.2.1.writeResult a.1 a.2.2
        match a.2.2.counts.find? (fun c => c.2.2 && decide (0 < (chunkAt a.2.2.chunks c.1).2)) with
        | some c => (w.1, w.2.1, { w.2.2 with status := some (w.2.2.status.getD stBusyRefused), partner := m.instMember i c.1 })
        | none => w
    else a
  let m1 := match (m.instPeers i r).1, b.2.1.instBody b.2.2 r with
    | some peer, some body =>
      if r < m.instRounds i ∧ b.2.2.status.isNone = true then
        b.2.1.emit (.coll (m.instMember i peer) ⟨m.self, i.bucket, i.step, instOp i, instCount i, r, i.startAt, body⟩)
      else b.2.1
    | _, _ => b.2.1
  (b.1, m1, b.2.2)

/-- The body of the packet an exchange waits for has the lengths this member expects (R285). -/
def bodyOk (m : Mod) (i : Inst) (r : Nat) (body : CollBody) : Bool :=
  let g := m.instDims i
  let me := m.instRank i
  let lens := fun (cs : List (Nat × List Byte)) (want : List Nat) (fmt : Nat) =>
    cs.map (·.1) == want && cs.all (fun c => c.2.length == rowBytes fmt (chunkAt i.chunks c.1).2)
  match body with
  | .abort _ => true
  | .acc _ => decide (m.mainRounds i ≤ r)
  | .close _ => instOp i == 0
  | .count _ _ => instOp i == 4 && decide (r < 2 * (2 ^ g - 1))
  | .chunks cs =>
    let all := List.range (2 ^ g)
    match instOp i with
    | 1 => if r < g then lens cs (all.filter (liveChunk g me (r + 1))) 1
      else lens cs (all.filter (fun c => c / 2 ^ (r - g) == pairRank me (r - g) / 2 ^ (r - g))) 1
    | 2 => lens cs (all.filter (liveChunk g me (r + 1))) 1
    | 3 => lens cs (all.filter (fun c => c / 2 ^ r == pairRank me r / 2 ^ r)) (bkFmt i.entry)
    | 4 => (match (m.instPeers i r).2, cs with
        | some peer, [(_, bs)] =>
          bs.length == rowBytes (bkFmt i.entry) (((i.counts.find? (·.1 == peer)).map (·.2.1)).getD 0)
        | _, _ => false)
    | 5 => (match cs with | [(_, bs)] => bs.length == rowBytes (bkFmt i.entry) (instCount i) | _ => false)
    | _ => false

/-- Chunks sorted by rank. -/
def byRank (cs : List (Nat × List Byte)) : List (Nat × List Byte) :=
  cs.foldl (fun acc c => tabInsert acc c.1 c.2) []

/-- What an instance holds after exchange `r` brought it a packet's body. -/
def takeBody (m : Mod) (i : Inst) (r : Nat) (body : CollBody) : Inst :=
  let g := m.instDims i
  let me := m.instRank i
  let gather := fun (cs : List (Nat × List Byte)) => { i with held := byRank (i.held ++ cs) }
  let reduce := fun (cs : List (Nat × List Byte)) =>
    let low := !bitOf me (g - 1 - r)
    { i with held := (i.held.filter (fun c => liveChunk g me (r + 1) c.1)).map (fun c =>
        let other := ((cs.find? (·.1 == c.1)).map (·.2)).getD []
        (c.1, if low then sumChunks c.2 other else sumChunks other c.2)) }
  match body with
  | .abort _ => i
  | .acc a => { i with acc := accAdd i.acc a }
  | .close c => { i with sums := i.sums.map (closeAdd c) }
  | .count n refused =>
    let peer := (m.instPeers i r).2.getD 0
    if r < 2 ^ g - 1 then { i with counts := i.counts ++ [(peer, n, false)] }
    else { i with counts := i.counts.map (fun c => if c.1 == peer then (c.1, c.2.1, refused) else c) }
  | .chunks cs =>
    match instOp i with
    | 1 => if r < g then reduce cs else gather cs
    | 2 => reduce cs
    | 4 => { i with inbox := i.inbox ++ [⟨m.instMember i ((m.instPeers i r).2.getD 0), i.bucket, i.step, 4, 0, r, 0, body⟩] }
    | _ => gather cs

/-- Run an instance's exchanges as far as packets allow; `fuel` bounds them. -/
def runInst : Nat → Memory → Mod → Inst → Memory × Mod
  | 0, mem, m, i => (mem, m.putInst i)
  | fuel + 1, mem, m, i =>
    if i.status.isSome then
      (mem, if i.round < m.instRounds i then m.failInst { i with status := none } (i.status.getD stOk) i.partner
        else m.putInst i)
    else if m.instRounds i ≤ i.round then (mem, m.putInst { i with status := some stOk })
    else
      let next := fun (i' : Inst) =>
        let e := m.enterRound mem { i' with round := i.round + 1 }
        runInst fuel e.1 e.2.1 e.2.2
      if m.instWaits i i.round then
        let from_ := m.instMember i ((m.instPeers i i.round).2.getD 0)
        match i.inbox.find? (fun x => x.src == from_ && x.round == i.round) with
        | none => (mem, m.putInst i)
        | some x =>
          if m.bodyOk i i.round x.body then
            next (m.takeBody { i with inbox := i.inbox.filter (fun y => !(y.src == from_ && y.round == i.round)) } i.round
              x.body)
          else (mem, m.failInst i stMalformed from_)
      else next i

/-- An instance begins its exchanges. -/
def beginRounds (mem : Memory) (m : Mod) (i : Inst) : Memory × Mod :=
  let e := m.enterRound mem i
  e.2.1.runInst (m.instRounds i + 2) e.1 e.2.2

/-! ### STARTs (R281 to R283) -/

/-- The chunk or send table of a bucket for a group of `p`: its status, and its bytes. -/
def tableRead (mem : Memory) (m : Mod) (e p : Nat) : (Nat × List Byte) × Mod :=
  match m.ownRegion (bkChunk e) (16 * p) false with
  | none => ((stTierError, []), m)
  | some c => match m.readLocal mem c (16 * p) none with
    | (.done st bs, m1) => ((st, bs), m1)
    | (.waiting, m1) => ((stTierError, []), m1)

/-- The bucket's chunks are listed by a table (R289, R290). -/
def hasTable (e : Nat) : Bool := bkOp e == 4 || (bkOp e != 5 && bkChunk e != 0)

/-- The chunks of a bucket for a group of `p`, its table holding `bytes`. -/
def chunkList (e p : Nat) (bytes : List Byte) : List (Nat × Nat) :=
  let word := fun (k : Nat) => leNat ((bytes.drop (8 * k)).take 8)
  if bkOp e = 4 then packChunks ((List.range p).map (fun r => bitsOf (word r) 39 0))
  else if hasTable e then (List.range p).map (fun r => (word (2 * r), word (2 * r + 1)))
  else evenChunks (bkCount e) (chunkUnit e) p

/-- The regions that an instance with these chunks reads its input from and writes its result to: their lengths for rank
`me` (R280, R289, R290). -/
def runLens (e me : Nat) (cs : List (Nat × Nat)) : Nat × Nat :=
  let f := bkFmt e
  let d := cvFmt (bkArrive e)
  match bkOp e with
  | 2 => (rowBytes f (bkCount e), rowBytes d (chunkAt cs me).2)
  | 3 => (rowBytes f (chunkAt cs me).2, rowBytes d (bkCount e))
  | 4 => (packedBytes f (cs.map (·.2)), rowBytes d (bkCount e))
  | _ => (rowBytes f (bkCount e), rowBytes d (bkCount e))

/-- An entry's input and result of given lengths lie wholly in a memory the engine reaches, equal or disjoint (R280). -/
def regionsOk (m : Mod) (e : Nat) (n : Nat × Nat) : Bool :=
  match m.ownRegion (bkSrc e) (max 1 n.1) true, m.ownRegion (bkDst e) (max 1 n.2) true with
  | some a, some b => bkSrc e == bkDst e || !overlaps ⟨a, n.1⟩ ⟨b, n.2⟩
  | _, _ => false

/-- The chunk or send table of a bucket is in order (code 3): its place, its chunks, and the regions its chunks make of
the entry's (R280; DEDUCED, log entry 121). A table that cannot be read is met by the instance. -/
def chunkOk (mem : Memory) (m : Mod) (e : Nat) : Bool :=
  let p := 2 ^ (maskDims (bkMask e)).length
  let t := (m.tableRead mem e p).1
  let cs := chunkList e p t.2
  !hasTable e || ((m.ownRegion (bkChunk e) (16 * p) false).isSome && bkChunk e != 0 &&
    (t.1 != stOk || ((bkOp e == 4 || chunksOk (bkCount e) (chunkUnit e) cs) &&
      m.regionsOk e (runLens e (rankIn m.ldimNow (bkMask e) m.self) cs))))

/-- The notify channel of a START from a work word is one it may take (R283). -/
def notifyOk (m : Mod) (n b : Nat) : Bool :=
  !srNotifyEn b || (match (m.coreSt n).choice with
    | some c => bitOf c.outMask (srChan b) && !bitOf c.sent (srChan b)
    | none => false)

/-- The first error of Table 14.3; `core` is the issuing core, none for a ring. -/
def startError (mem : Memory) (m : Mod) (core : Option Nat) (b : Nat) : Nat :=
  let stat := srStat b
  if bitOf b 432 || bitsOf b 356 128 != 0 then 1
  else if srBucket b ≠ 0 ∧ (m.bucketEntry (srBucket b)).isNone then 2
  else if srBucket b ≠ 0 ∧ m.chunkOk mem ((m.bucketEntry (srBucket b)).getD 0) = false then 3
  else if (match core with | some n => !m.notifyOk n b | none => srNotifyEn b) then 4
  else if !(core.isNone && stat == 0) && (stat % 16 != 0 || (m.ownRegion stat 16 true).isNone) then 5
  else 0

/-- The input of an instance (Table 14.1), by rank; none where it cannot be read. -/
def readInput (mem : Memory) (m : Mod) (e : Nat) (i : Inst) : Option (List (Nat × List Byte)) × Mod :=
  let f := bkFmt e
  let me := m.instRank i
  let whole := fun (n : Nat) =>
    match m.ownRegion (bkSrc e) (rowBytes f n) true with
    | none => (none, m)
    | some c => match m.readLocal mem c (rowBytes f n) none with
      | (.done st bs, m1) => (if st = stOk then some bs else none, m1)
      | (.waiting, m1) => (none, m1)
  let split := fun (n : Nat) =>
    let w := whole n
    (w.1.map (fun bs => i.chunks.zipIdx.map (fun c => (c.2, sliceElems f bs c.1.1 c.1.2))), w.2)
  match bkOp e with
  | 3 => let w := whole (chunkAt i.chunks me).2; (w.1.map (fun bs => [(me, bs)]), w.2)
  | 4 => match m.ownRegion (bkSrc e) (max 1 (packedBytes f (i.chunks.map (·.2)))) true with
    | none => (none, m)
    | some c => match m.readLocal mem c (packedBytes f (i.chunks.map (·.2))) none with
      | (.done st bs, m1) => (if st = stOk then
          some ((packedRuns f bs i.chunks).zipIdx.map (fun x => (x.2, x.1))) else none, m1)
      | (.waiting, m1) => (none, m1)
  | 5 => if me = bkRoot e then let w := whole (bkCount e); (w.1.map (fun bs => [(bkRoot e, bs)]), w.2) else (some [], m)
  | _ => split (bkCount e)

/-- A START that has a place begins its instance; its entry and the dimension map are snapshotted, and packets that came
early are taken (R281, R285). -/
def beginInst (mem : Memory) (m : Mod) (q : StartReq) : Memory × Mod :=
  let e := if q.bucket = 0 then 0 else (m.bucketEntry q.bucket).getD 0
  let mine := fun (x : CollMsg) => x.bucket == q.bucket && x.step == q.step
  let i0 : Inst := { bucket := q.bucket, step := q.step, entry := e, ldim := m.ldimNow, notify := q.notify, stat := q.stat
                     startAt := m.now, due := m.now + m.fget Fld.COL_TMO_MS * 1000000, inbox := m.col.early.filter mine }
  let t := if q.bucket ≠ 0 ∧ hasTable e then m.tableRead mem e (2 ^ m.instDims i0) else ((stOk, []), m)
  let i1 := if q.bucket = 0 then i0.inbox.foldl noteStart i0
    else { i0.inbox.foldl noteStart i0 with chunks := chunkList e (2 ^ m.instDims i0) t.1.2 }
  let m0 := { t.2 with col := { m.col with insts := m.col.insts ++ [i1], early := m.col.early.filter (fun x => !mine x) } }
  let abort := i1.inbox.find? (fun x => match x.body with | .abort _ => true | _ => false)
  let gone := (m0.instExpects i1).filterMap (fun x => (m0.memberGone x).map (fun st => (x, st)))
  match abort, gone with
  | some x, _ => (mem, m0.failInst i1 (match x.body with | .abort st => st % 16 | _ => stOk) x.src)
  | none, (x, st) :: _ => (mem, m0.failInst i1 st x)
  | none, [] =>
    match i1.inbox.find? (fun x => x.op != instOp i1 || x.count != instCount i1) with
    | some x => (mem, m0.failInst i1 stMalformed x.src)
    | none =>
    if q.bucket = 0 then (mem, m0)
    else
      let inp := if t.1.1 = stOk then m0.readInput mem e i1 else (none, m0)
      match inp.1 with
      | none => (mem, inp.2.failInst i1 stTierError m.self)
      | some held =>
        let i2 := { i1 with held := held }
        let sq := if bkOp e = 1 ∨ bkOp e = 2 then accSquares {} ((held.flatMap (fun c => wordsOf c.2)).map f32Of) else {}
        let m1 := inp.2.when (bkOp e == 1 || bkOp e == 2) (fun m => m.wrN (Reg.COL_BK_LOCAL2 q.bucket) (accRead sq))
        let m2 := m1.when (bkGns e) (fun m => m.feedStep i2 (fun s => { s with locals := groupAdd s.locals (bkGroup e) sq }))
        (m2.putInst i2).beginRounds mem i2

/-- Waiting STARTs take free places, in acceptance order; `k` bounds them. -/
def fillStarts : Nat → Memory → Mod → Memory × Mod
  | 0, mem, m => (mem, m.showCol)
  | k + 1, mem, m =>
    match m.col.starts with
    | [] => (mem, m.showCol)
    | q :: qs =>
      if m.col.insts.length < 16 then
        let r := ({ m with col := { m.col with starts := qs } }).beginInst mem q
        fillStarts k r.1 r.2
      else (mem, m.showCol)

/-- Bytes of the packets in the early store (R285). -/
def earlyBytes (m : Mod) : Nat := m.col.early.foldl (fun n x => n + earlySize x) 0

/-- KiB of the early store in use (R285). -/
def showEarly (m : Mod) : Mod := m.wrN Reg.COL_STORE_USED (min ((m.earlyBytes + 1023) / 1024) 65535)

/-- The engine cannot take another START now (R281, R406). -/
def startBusy (m : Mod) (b : Nat) : Bool :=
  m.collectivesOff || m.bucketBusy b || decide (1024 ≤ m.col.starts.length)

/-- Accept a checked START. -/
def acceptStart (mem : Memory) (m : Mod) (core : Option Nat) (step mb b : Nat) : Memory × Mod :=
  let stat := if core.isNone && srStat b == 0 then none else some (srStat b)
  let take := fun (n : Nat) =>
    let j := srChan b
    let s := m.outSeqOf n j
    (some (⟨n, j, s, step, mb⟩ : Notify),
      (m.setOutSeq n j (s + 1)).modCore n (fun k => { k with choice := k.choice.map (fun ch =>
        { ch with sent := ch.sent ||| 2 ^ j }) }))
  let nt := match core with
    | some n => if srNotifyEn b then take n else (none, m)
    | none => (none, m)
  let q : StartReq := { bucket := srBucket b, step := step % 2 ^ 32, notify := nt.1, stat := stat }
  let r := ({ nt.2 with col := { nt.2.col with starts := nt.2.col.starts ++ [q] } }).fillStarts 1024 mem
  (r.1, r.2.showEarly)

/-! ### Packets (R285, R296) -/

/-- An instance of a bucket and step has already ended here. -/
def instEnded (m : Mod) (b s : Nat) : Bool :=
  if b = 0 then m.col.closes.any (·.step == s) else m.col.results.any (fun r => r.bucket == b && r.step == s)

/-- A collective packet arrives. One that the early store has no room for stays with its sender, which gets no credit. -/
def collPacket (mem : Memory) (m : Mod) (x : CollMsg) : Memory × Mod :=
  match m.col.insts.find? (fun i => i.bucket == x.bucket && i.step == x.step) with
  | some i =>
    if i.status.isSome then (mem, m.inc Reg.COL_STRAY)
    else
      match x.body with
      | .abort st => (mem, m.failInst i (st % 16) x.src)
      | _ =>
        if x.op ≠ instOp i ∨ x.count ≠ instCount i then (mem, m.failInst i stMalformed x.src)
        else
          let i1 := noteStart { i with inbox := i.inbox ++ [x] } x
          if i.bucket = 0 ∧ i.begun = false then (mem, m.putInst i1)
          else m.runInst (m.instRounds i + 2) mem i1
  | none =>
    if m.instEnded x.bucket x.step then (mem, m.inc Reg.COL_STRAY)
    else if 32768 * 1024 < m.earlyBytes + earlySize x then (mem, m)
    else (mem, ({ m with col := { m.col with early := m.col.early ++ [x] } }).showEarly)

/-- An instance has not ended within its time (R296). -/
def collTimeout (m : Mod) (b : Nat) : Mod :=
  match m.findInst b with
  | some i =>
    if decide (i.due ≤ m.now) then
      m.failInst i stTierTimeout (((m.instPeers i i.round).2.map (m.instMember i)).getD m.self)
    else m
  | none => m

/-- Every running and every waiting instance ends with a status. -/
def endCollectives (m : Mod) (status : Nat) : Mod :=
  let waiting := m.col.starts.map (fun q => ({ bucket := q.bucket, step := q.step
                                               entry := (m.bucketEntry q.bucket).getD 0, ldim := m.ldimNow
                                               notify := q.notify, stat := q.stat, startAt := m.now } : Inst))
  let m1 := m.col.insts.foldl (fun m i => m.failInst i status m.self) m
  (waiting.foldl (fun (m : Mod) i =>
    ({ m with col := { m.col with insts := m.col.insts ++ [i] } }).failInst i status m.self)
    { m1 with col := { m1.col with starts := [] } }).showCol

/-- Every instance and every waiting START ends with CANCELLED (R407). -/
def cancelCollectives (m : Mod) : Mod := m.endCollectives stCancelled

/-! ### The step close (R293, R295) -/

/-- What a step close takes on this module. -/
def closeTake (m : Mod) (i : Inst) : Mod × CloseSums :=
  let s := i.step
  let rec_ : GuardRec := match m.guardRec s with
    | some r => if r.step = s then r else { step := s }
    | none => { step := s }
  let acc : StepAcc := (m.col.steps.find? (·.step == s)).getD { step := s }
  let slots := (List.range 64).filter (fun k => bitOf (m.rdN (Reg.COL_TN k)) 31)
  let tabs := slots.map (fun k => (k, tabGet (fun _ => ({} : LongAcc)) m.col.tn (k * 8 + s % 8)))
  let sums : CloseSums :=
    { b := rec_.b, f := rec_.f, n := rec_.n + acc.nonfinite, forced := m.num.forced.contains s
      global := tabs.foldl (fun a t => accAdd a t.2) acc.chunk, tables := tabs, locals := acc.locals, globals := acc.globals }
  let m1 := if (m.guardRec s).any (·.step == s) then m.setRec s none else m
  ({ m1 with col := { m1.col with
      steps := m1.col.steps.filter (·.step != s)
      tn := slots.foldl (fun t k => tabPut (fun _ => {}) t (k * 8 + s % 8) {}) m1.col.tn
      taken := s :: m1.col.taken.filter (· != s) } }, sums)

/-- The tables that the accumulator slots are given to now (R292). -/
def tableNames (m : Mod) : List (Nat × Nat) :=
  ((List.range 64).filter (fun k => bitOf (m.rdN (Reg.COL_TN k)) 31)).map (fun k => (k, bitsOf (m.rdN (Reg.COL_TN k)) 11 0))

/-- Instances of a step that started before its step close and have not ended. -/
def closeWaits (m : Mod) (i : Inst) : Bool :=
  (m.col.insts.takeWhile (fun j => j.bucket != 0)).any (fun j => j.step == i.step)

/-- The step close takes its records and begins its exchange, once every earlier instance of the step has ended. -/
def stepClose (mem : Memory) (m : Mod) : Memory × Mod :=
  match m.findInst 0 with
  | none => (mem, m)
  | some i =>
    if i.begun || i.status.isSome || m.closeWaits i then (mem, m)
    else
      let t := m.closeTake i
      let i1 := { i with begun := true, sums := some t.2, names := m.tableNames }
      (t.1.putInst i1).beginRounds mem i1

/-- The statistics of one layer group (R295). -/
def gnsGroup (m : Mod) (s le g : Nat) (loc glob : LongAcc) : Mod :=
  let f := fun (n : Nat) => f32Of n
  let rr := f32Round (.fin false (m.fget Fld.COL_GNS_REPL) 0)
  let bs := f32Round (.fin false (m.rdN Reg.COL_GNS_BSMALL) 0)
  let bb := f32Mul rr bs
  let sc := Val.fin false 1 (-(2 * (le : Int)))
  let ssm := f32Div (f32Mul (f32Div (f (accRead loc)) rr) sc) (f32Mul bs bs)
  let sbg := f32Div (f32Mul (f (accRead glob)) sc) (f32Mul bb bb)
  let g2 := f32Div (f32Sub (f32Mul bb sbg) (f32Mul bs ssm)) (f32Sub bb bs)
  let tr := f32Div (f32Sub ssm sbg) (f32Sub (f32Div valOne bs) (f32Div valOne bb))
  let k := Val.fin false 1 (-((bitsOf (m.rdN Reg.COL_GNS_CFG) 4 0 : Nat) : Int))
  let smooth := fun (off : Nat) (x : Val) =>
    let old := f (m.rdN off)
    if m.col.gnsFresh then x else f32Add old (f32Mul k (f32Sub x old))
  let g2e := smooth (Reg.COL_GNS_G2 g) g2
  let tre := smooth (Reg.COL_GNS_TR g) tr
  let bn := if g2e.isNan then f32Div tre g2e else if g2e.le valZero then Val.inf false else f32Div tre g2e
  (((m.wrN (Reg.COL_GNS_G2 g) (f32Enc g2e)).wrN (Reg.COL_GNS_TR g) (f32Enc tre)).wrN (Reg.COL_GNS_BNOISE g)
    (f32Enc bn)).wrN (Reg.COL_GNS_STEP g) s

/-- The statistics of every layer group that some instance of the step fed. -/
def gnsStep (m : Mod) (s : Nat) (c : CloseSums) : Mod :=
  if m.fget Fld.COL_GNS_REPL < 2 then m
  else
    let le := (m.leOf s).getD m.latestLe.2
    let gs := (List.range 64).filter (fun g => c.locals.any (·.1 == g) || c.globals.any (·.1 == g))
    let m1 := gs.foldl (fun m g => m.gnsGroup s le g (tabGet (fun _ => {}) c.locals g) (tabGet (fun _ => {}) c.globals g)) m
    if gs.isEmpty then m1 else { m1.noteLeRead s with col := { m1.col with gnsFresh := false } }

/-- A step close has ended: verdict, next exponent, norms and statistics; or none of them (R113, R293). The table norms go to
the tables that the slots were given to when the close took the accumulators. -/
def closeEnd (m : Mod) (i : Inst) (st : Nat) : Mod :=
  let s := i.step
  let keep := m.col.closes.filter (·.step != s)
  if st = stOk then
    let c := i.sums.getD {}
    let v := m.verdictOn c.b c.f c.n c.forced
    let g := accRead c.global
    let tabs := c.tables.filterMap (fun t => (i.names.find? (·.1 == t.1)).map (fun n => (n.2, accRead t.2)))
    let m1 := { m with col := { m.col with closes := ⟨s, stOk, g, tabs⟩ :: keep } }
    let m2 := (m1.wrN Reg.COL_SC_STEP s).wrN Reg.COL_SC_GNORM2 g
    (m2.gnsStep s c).when (m.flag Fld.NUM_GUARD_EN) (fun m => m.enterVerdict ⟨s, v.1, v.2, stOk⟩ c.b c.f c.n)
  else
    let m1 := { m with col := { m.col with
      closes := ⟨s, st, 0, []⟩ :: keep, taken := s :: m.col.taken.filter (· != s) } }
    m1.when (m.flag Fld.NUM_GUARD_EN) (fun m => m.enterVerdict ⟨s, true, 3, st⟩ 0 0 0)

/-! ### The end of an instance (R283, R284) -/

/-- The notify message of an instance leaves, in the heat it is sent in; it does not count toward any cluster's
finishing. -/
def sendNotify (mem : Memory) (m : Mod) (x : Notify) : Mod :=
  let d := m.outChan mem x.core x.chan
  if chValid d then
    let m1 := m.sendMessage x.core x.chan d msgData 0 0 x.step x.mb x.seq []
    let hb := headerBytes {
      sendHeat := m.heatNo, length := 0, step := x.step, mb := x.mb, seq := x.seq
      srcChip := m.chip (x.core / 96), srcCluster := x.core / 8 % 12, srcCore := x.core % 8, srcChan := x.chan
      dstChip := chPeerChip d, dstCluster := chPeerCluster d, dstCore := chPeerCore d, dstChan := chPeerChan d
      kind := msgData }
    { m1 with
      out := m.out ++ [.message m.nextId hb []]
      msgs := m1.msgs.map (fun y => if y.id == m.nextId then { y with counts := false } else y) }
  else m

/-- A list of bytes that nothing determines. -/
def freeBytes (m : Mod) : Nat → List Byte × Mod
  | 0 => ([], m)
  | k + 1 =>
    let r := m.freeBytes k
    let x := r.2.takeFree
    (r.1 ++ [BitVec.ofNat 8 x.1], x.2)

/-- The result region of an instance that did not end with OK holds unspecified values, except that a member that
refuses its chunks writes nothing. -/
def spoilResult (mem : Memory) (m : Mod) (i : Inst) (st : Nat) : Memory × Mod :=
  if st = stOk ∨ i.bucket = 0 ∨ i.refuses = true then (mem, m)
  else
    match m.ownRegion (bkDst i.entry) (m.dstBytes i) true with
    | none => (mem, m)
    | some c =>
      let f := m.freeBytes (m.dstBytes i)
      let w := f.2.writeLocal mem false c f.1
      (w.1, w.2.1)

/-- The 16-byte status record (Table 14.4); `n` elements were written. -/
def collRecord (i : Inst) (st n : Nat) : List Byte :=
  leBytes 2 i.bucket ++ leBytes 1 st ++ leBytes 1 (if i.nonfinite then 1 else 0) ++ leBytes 4 i.step ++ leBytes 8 n

/-- Elements that an instance has written to BK_DST: all of them once its result writes were made, none where it refuses
its chunks or is a step close, and an open number where it ended before, since partial results may have landed (R284;
log entry 122). -/
def elementsWritten (m : Mod) (i : Inst) (st : Nat) : Nat × Mod :=
  if st = stOk ∨ i.written ≠ 0 ∨ i.bucket = 0 ∨ i.refuses = true then (i.written, m)
  else let f := m.takeFree; (f.1 % (instCount i + 1), f.2)

/-- The status record of an ended instance is written at the place its START names; a record that is dropped ends the
instance with ACCESS_DENIED (R51, R284). -/
def writeRecord (mem : Memory) (m : Mod) (i : Inst) (st : Nat) : Memory × Mod × Nat :=
  match i.stat with
  | none => (mem, m, st)
  | some a =>
    let n := m.elementsWritten i st
    let w := match n.2.ownRegion a 16 true with
      | some c => n.2.writeLocal mem false c (collRecord i st n.1)
      | none => (mem, n.2, stTierError)
    (w.1, w.2.1, if st = stOk then w.2.2 else st)

/-- A record goes to the front of the arrival log: the latest partner, its lag in microseconds, and the step (R374). -/
def pushArrival (m : Mod) (partner lag step : Nat) : Mod :=
  let shifted := (List.range 63).foldl (fun t k =>
    let j := 62 - k
    (t.wr (Reg.PWR_ARRIVAL_LO (j + 1)) (m.rd (Reg.PWR_ARRIVAL_LO j))).wr (Reg.PWR_ARRIVAL_HI (j + 1))
      (m.rd (Reg.PWR_ARRIVAL_HI j))) m
  (shifted.wrN (Reg.PWR_ARRIVAL_LO 0) (min lag 4095 * 2 ^ 20 + partner % 8192)).wrN (Reg.PWR_ARRIVAL_HI 0) step

/-- The arrival log takes an instance that has ended, newest first (R374), and the module's own lag adds to the period's
score (R373). Of one that no partner was heard of the latest partner and its lag are free values (log entry 151). -/
def logArrival (m : Mod) (i : Inst) : Mod :=
  match i.peers with
  | [] =>
    let a := m.takeFree
    let b := a.2.takeFree
    b.2.pushArrival a.1 b.1 i.step
  | p :: ps =>
    let last := ps.foldl (fun a b => if a.2 < b.2 then b else a) p
    let first := ps.foldl (fun a b => min a b.2) p.2
    ({ m with pwr := { m.pwr with lag := m.pwr.lag + (i.startAt - first) / 1000 } }).pushArrival last.1
      ((last.2 - i.startAt) / 1000) i.step

/-- An instance that has ended leaves its record, its counts, its event and its notify message, and its place goes to
the next START. -/
def collEnd (mem : Memory) (m : Mod) (b : Nat) : Memory × Mod :=
  match m.findInst b with
  | none => (mem, m)
  | some i =>
    match i.status with
    | none => (mem, m)
    | some st =>
      let sp := m.spoilResult mem i st
      let w := sp.2.writeRecord sp.1 i st
      let st := w.2.2
      let m1 := (w.2.1.wrN (Reg.COL_BK_LAST_STEP b) i.step).wrN (Reg.COL_BK_LAST_STATUS b) st
      let m2 := if st = stOk then m1.inc Reg.COL_DONE
        else (m1.inc Reg.COL_FAILED).postModule 0x0C1
          (leBytes 2 b ++ leBytes 4 i.step ++ leBytes 1 st ++ leBytes 2 i.partner)
      let norm := if instNorm i && st == stOk then accRead i.acc else 0
      let m3 := if b = 0 then m2.closeEnd i st
        else
          let a := { m2 with col := { m2.col with results :=
            ⟨b, i.step, st, norm⟩ :: m2.col.results.filter (fun r => !(r.bucket == b && r.step == i.step)) } }
          a.when (st == stOk) (fun m => m.wrN (Reg.COL_BK_NORM2 b) norm)
      let m4 := match i.notify with | some x => m3.sendNotify w.1 x | none => m3
      let m5 := m4.logArrival i
      let r := ({ m5 with col := { m5.col with insts := m5.col.insts.filter (·.bucket != b) } }).fillStarts 1024 w.1
      (r.1, r.2.showEarly)

/-! ### Buckets and the COL_ block (R279, R280, R298) -/

/-- The regions of an entry as far as it tells their lengths itself: those of its default chunks; the input of an ALLTOALL
is at least one byte. What a table makes of them is checked with the table (DEDUCED, log entry 121). -/
def bkLens (e g me : Nat) : Nat × Nat :=
  let n := runLens e me (if bkOp e = 4 then [] else evenChunks (bkCount e) (chunkUnit e) (2 ^ g))
  if hasTable e && bkOp e == 2 then (n.1, 1) else if hasTable e then (if bkOp e = 3 then 1 else max 1 n.1, n.2) else n

/-- An entry meets R280. -/
def bucketOk (m : Mod) (e : Nat) : Bool :=
  let g := (maskDims (bkMask e)).length
  bitsOf e 247 246 == 0 && bitsOf e 194 0 == 0 && decide (1 ≤ bkOp e ∧ bkOp e ≤ 5) &&
    m.regionsOk e (bkLens e g (rankIn m.ldimNow (bkMask e) m.self)) &&
    decide (1 ≤ bkFmt e ∧ bkFmt e ≤ 10) && (bkFmt e == 1 || !(bkOp e == 1 || bkOp e == 2)) &&
    cvOk (bkArrive e) && decide (cvRound (bkArrive e) ≤ 1) && cvPurpose (bkArrive e) == 0 &&
    !bitOf (bkMask e) 12 && (bkMask e &&& m.fget Fld.COL_JOB_MASK) == bkMask e &&
    (!(bkGns e || bkNorm e) || bkOp e == 1 || bkOp e == 2)

def bkSel (m : Mod) : Nat := bitsOf (m.rdN Reg.COL_BK_SEL) 9 0

/-- The status of a bucket operation on a bucket (R279). -/
def bucketOpStatus (m : Mod) (b op e : Nat) : Nat :=
  if 2 ≤ op ∨ b = 0 ∨ (op = 0 ∧ m.bucketOk e = false) then stMalformed
  else if m.bucketBusy b then stAccessDenied else stOk

/-- The shadow entry. -/
def bkShadow (m : Mod) : Nat := (List.range 16).foldl (fun n w => n + m.rdN (Reg.COL_BK_SHADOW w) * 2 ^ (32 * w)) 0

/-- The checks of the COL_ block. -/
def colCheck (m : Mod) (off : Nat) (v : Word) : Nat :=
  let x := v.toNat
  let ok := fun (b : Bool) => if b then stOk else stMalformed
  if off = Reg.COL_CTRL then ok (decide (1 ≤ bitsOf x 31 16 ∧ bitsOf x 31 16 ≤ 60000))
  else if off = Reg.COL_BK_CMD then
    if 2 ≤ bitsOf x 1 0 then stMalformed else if bitOf x 31 then m.bucketOpStatus m.bkSel (bitsOf x 1 0) m.bkShadow else stOk
  else if off = Reg.COL_GNS_CFG then ok (decide (1 ≤ bitsOf x 4 0 ∧ bitsOf x 4 0 ≤ 16))
  else stOk

/-- The effect of an accepted write of the COL_ block. -/
def colEffect (m : Mod) (off : Nat) (v : Word) (org : Origin) : Mod :=
  let x := v.toNat
  if off = Reg.COL_BK_CMD then
    let m1 := m.fset Fld.COL_BK_OP (bitsOf x 1 0)
    if bitOf x 31 then
      { m1 with col := { m1.col with
          ops := tabPut (fun _ => none) m1.col.ops m1.bkSel (some ⟨bitsOf x 1 0, 0, m1.bkShadow, v, org, true⟩) } }
    else m1
  else if off = Reg.COL_GNS_CFG ∨ (0x60100 ≤ off ∧ off < 0x60200) then m.holdWrite off 0xFFFFFFFF v
  else m.regStore off v

/-- A held write of COL_GNS_CFG takes effect: the next step close starts the averages afresh (R295). -/
def colApplied (m : Mod) (off : Nat) : Mod :=
  if off = Reg.COL_GNS_CFG then { m with col := { m.col with gnsFresh := true } } else m

/-- One bucket operation takes force, or is refused because an instance has started since it was armed. -/
def bucketTake (m : Mod) (p : Nat × MapOp) : Mod :=
  if m.bucketBusy p.1 then m.journalWrite stAccessDenied Reg.COL_BK_CMD (m.rd Reg.COL_BK_CMD) p.2.word p.2.org
  else
    { m with col := { m.col with
        buckets := tabPut (fun _ => none) m.col.buckets p.1 (if p.2.op = 1 then none else some p.2.shadow) } }

/-- The bucket operations at step 2. -/
def applyBuckets (m : Mod) : Mod :=
  (m.col.ops.filterMap (fun p => p.2.map (fun o => (p.1, o)))).foldl (fun m p => m.bucketTake p)
    { m with col := { m.col with ops := [] } }

/-- A refused write of COL_BK_CMD with the arm bit clears it; operations that wait stay pending (Table 14.9). -/
def colRefused (m : Mod) (off : Nat) (v : Word) : Mod :=
  if off = Reg.COL_BK_CMD ∧ bitOf v.toNat 31 = true then
    { m with col := { m.col with ops := m.col.ops.map (fun p => (p.1, p.2.map (fun o => { o with armed := false }))) } }
  else m

/-- What the computed registers of the COL_ block read as: COL_BK_ARM and COL_BK_PEND tell of an operation on any bucket,
the other bits of the selected one (Table 14.9). -/
def colView (m : Mod) (off : Nat) : Option Word :=
  let b := fun (c : Bool) (k : Nat) => if c then 2 ^ k else 0
  if off = Reg.COL_BK_CMD then
    let waits := fun (f : MapOp → Bool) => m.col.ops.any (fun p => p.2.any f)
    some (BitVec.ofNat 32 (b (waits (·.armed)) 31 + b (waits (fun _ => true)) 30 + b (m.bucketEntry m.bkSel).isSome 29 + b (m.bucketBusy m.bkSel) 28 +
      m.fget Fld.COL_BK_OP))
  else if 0x60080 ≤ off ∧ off < 0x600C0 then
    some (BitVec.ofNat 32 ((m.bucketEntry m.bkSel).getD 0 / 2 ^ (32 * ((off - 0x60080) / 4))))
  else none

end Mod

def execCollectivePacket (x : CollMsg) (s : State) : Host.Outcome State Fault Refusal :=
  nextMem s (fun mem m => m.collPacket mem x)
def execStepClose (s : State) : Host.Outcome State Fault Refusal := nextMem s (fun mem m => m.stepClose mem)
def execCollectiveEnd (b : Nat) (s : State) : Host.Outcome State Fault Refusal := nextMem s (fun mem m => m.collEnd mem b)
def execCollectiveTimeout (b : Nat) (s : State) : Host.Outcome State Fault Refusal := nextMod s (fun m => m.collTimeout b)
def execAbort (src b step status : Nat) (s : State) : Host.Outcome State Fault Refusal :=
  nextMem s (fun mem m => m.collPacket mem ⟨src, b, step, 0, 0, 0, 0, .abort status⟩)

end Sys2Proof.Machine
end

