-- ==== Sys2Proof/Machine/Requests.lean ====
section
/-!
DEFINITION. Requests on their way (11_memory_tiers.md): the trackers of the dies, the timeouts of Table 11.2, and the
queues, credits and priority classes of the channels of tiers 0 and 1 (R228, R231 to R234).
-/

namespace Sys2Proof.Machine

open Sys2Proof

/-! ### Priority classes (Table 11.3) -/

/-- The class of a kind of request. -/
def reqClass : ReqKind → Nat
  | .pickerRow | .refresh | .homeLookup => 0
  | .heatLadle | .staging | .collective | .allGather | .denseApply | .reservoir => 1
  | .add | .readClear | .hold | .claim => 2
  | .castCopy | .drainWork | .tierMove | .rowMove | .scrub => 3

/-- Two requests touch a line in common. -/
def sameLine (a b : ChanReq) : Bool := decide (a.first < b.first + b.count ∧ b.first < a.first + a.count)

/-- A queue with the class each request competes in: its own, or that of a request behind it to the same line where that is
higher (R232). -/
def effective : List ChanReq → List (ChanReq × Nat)
  | [] => []
  | r :: rs =>
    let es := effective rs
    (r, es.foldl (fun c e => if sameLine r e.1 then min c e.2 else c) (reqClass r.kind)) :: es

/-- The requests that no earlier request to the same line stands before (R232): `before` are the earlier ones. -/
def unblocked : List ChanReq → List (ChanReq × Nat) → List (ChanReq × Nat)
  | _, [] => []
  | before, e :: es => (if before.any (sameLine e.1) then [] else [e]) ++ unblocked (e.1 :: before) es

/-- The fixed share of a source in a channel, rate profile (R234). -/
def fixedShare (ch src : Nat) : Nat :=
  if ch < 256 then (if src = ch / 64 then 40 else if src = 5 then 8 else 4) else if src < 4 then 12 else 8

/-- A request that waits to be issued: its work, die, whether it takes a tracker entry, its kind, and the stretch it
goes to. -/
structure Unsent where
  work : Nat
  die : Nat
  track : Bool
  kind : ReqKind
  addr : Nat
  len : Nat
  id : ReqId

namespace Mod

/-! ### Trackers (R228, R233) -/


def trkHeld (m : Mod) (d : Nat) : Nat := tabGet (fun _ => 0) m.tables.trk d

/-- Entries held on a die, with MEM_TRK_USED and MEM_TRK_PEAK. -/
def setTrk (m : Mod) (d k : Nat) : Mod :=
  let m1 := { m with tables := { m.tables with trk := tabPut (fun _ => 0) m.tables.trk d k } }
  (m1.wrN (Reg.MEM_TRK_USED d) k).wrN (Reg.MEM_TRK_PEAK d) (max k (m1.rdN (Reg.MEM_TRK_PEAK d)))

def takeTrk (m : Mod) (d k : Nat) : Mod := m.setTrk d (m.trkHeld d + k)
def freeTrk (m : Mod) (d k : Nat) : Mod := m.setTrk d (m.trkHeld d - k)

/-- Entries of a die that are free. -/
def trkRoom (m : Mod) (d : Nat) : Nat := m.rdN (Reg.MEM_TRK_DEPTH d) - m.trkHeld d

/-- A request of a die ended late or wrongly. -/
def countReq (m : Mod) (d status : Nat) : Mod :=
  if status = stTierTimeout then m.inc (Reg.MEM_REQ_TMO d)
  else if status = stTierError then m.inc (Reg.MEM_REQ_ERR d) else m

/-- The tracker depth of the profile in force (R4, R233). -/
def setTrackers (m : Mod) : Mod :=
  (List.range 4).foldl (fun m d => m.wrN (Reg.MEM_TRK_DEPTH d) (if m.capacityProfile then 65536 else 16384)) m

/-! ### The ladles of a die (R228, R233, Table 11.2) -/

/-- Entries that the ladles of a die hold. -/
def ladleHeld (m : Mod) (d : Nat) : Nat :=
  (m.works.filter (fun w => w.unit == .ladle && (match w.who with | .core n => n / 96 == d | .ring _ _ => false))).foldl
      (fun k w => k + w.due.length) 0 +
    (m.tables.orphans.filter (fun o => o.2.1 == d)).foldl (fun k o => k + o.2.2.length) 0

/-- Entries that the ladles of a die may still take: MEM_TRK_LADLE_PCT percent of the depth bounds what they hold. -/
def ladleRoom (m : Mod) (d : Nat) : Nat :=
  min (m.trkRoom d) (m.rdN (Reg.MEM_TRK_DEPTH d) * m.fget Fld.MEM_TRK_LADLE_PCT / 100 - m.ladleHeld d)

/-- Where a ladle request that waits for an answer goes, by its address and whether it reads: tiers 0 and 1 (0), tier 2 (1),
another module (2), a read of tier 2 of another module (3). -/
def tmoKind (m : Mod) (a : Nat) (read : Bool) : Nat :=
  if addrModule a ≠ m.self then (if read && isTier2Offset (addrOffset a) then 3 else 2)
  else if isTier2Offset (addrOffset a) then 1 else 0

/-- The port by which a ladle request leaves that waits for an answer. -/
def reqPort (m : Mod) (a : Nat) (read : Bool) : Nat :=
  if addrModule a ≠ m.self then addrModule a + 2 else if read && isTier2Offset (addrOffset a) then 1 else 0

/-- The timeout of Table 11.2 that a ladle request takes when it is issued, ns (R17). -/
def tmoNs (m : Mod) (kind : Nat) : Nat :=
  1000 * (if kind = 0 then m.rdN Reg.MEM_TMO_T01 else if kind = 1 then m.rdN Reg.MEM_TMO_T2
    else if kind = 2 then m.rdN Reg.MEM_TMO_T3 else max (m.rdN Reg.MEM_TMO_T3) (m.rdN Reg.MEM_TMO_T2))

/-- Requests of a ladle work are issued as entries allow, in order; the rest wait, and their wait is counted (a free value
of cycles). A work of a ring holds no entries. -/
def ladleAdmit (m : Mod) (id : Nat) : Mod :=
  match m.findWork id with
  | none => m
  | some w =>
    if w.waits.isEmpty then m
    else
      let k := match w.who with | .core n => min w.waits.length (m.ladleRoom (n / 96)) | .ring _ _ => w.waits.length
      let m1 := m.modWork id (fun w => { w with
        due := w.due ++ (w.waits.take k).map (fun x => (m.now + m.tmoNs x.1, x.2)), waits := w.waits.drop k })
      match w.who with
      | .core n => m1.takeTrk (n / 96) k
      | .ring _ _ => m1

/-- Ladle works of a die whose requests wait are served as entries come free. -/
def ladleResume (m : Mod) (d : Nat) : Mod :=
  (m.works.filter (fun w => w.unit == .ladle && !w.waits.isEmpty && (match w.who with
      | .core n => n / 96 == d
      | .ring _ _ => false))).foldl (fun m w =>
    if m.ladleRoom d = 0 then m
    else
      let f := m.takeFree
      (f.2.addSat (Reg.MEM_TRK_WAIT d) f.1).ladleAdmit w.id) m

/-- The requests by a port that a ladle's work has open, or waits to issue, end with TIER_ERROR. -/
def endWorkPort (m : Mod) (port id : Nat) : Mod :=
  match m.findWork id with
  | none => m
  | some w =>
    let k := (w.due.filter (fun x => x.2 == port)).length
    let all := k + (w.waits.filter (fun x => x.2 == port)).length
    if all = 0 then m
    else
      let m1 := m.modWork id (fun w => { w with
        due := w.due.filter (fun x => x.2 != port), waits := w.waits.filter (fun x => x.2 != port)
        status := ladleWorse w.status stTierError })
      match w.who with
      | .core n => ((m1.freeTrk (n / 96) k).addSat (Reg.MEM_REQ_ERR (n / 96)) all).ladleResume (n / 96)
      | .ring _ _ => m1

/-- The requests by a port whose ladle work has ended already: their entries are freed. -/
def endOrphanPort (m : Mod) (port : Nat) : Mod :=
  m.tables.orphans.foldl (fun m o =>
    let left := o.2.2.filter (fun x => x.2 != port)
    let k := o.2.2.length - left.length
    if k = 0 then m
    else
      let rest := m.tables.orphans.filter (fun x => x.1 != o.1)
      let m1 := { m with tables := { m.tables with
        orphans := if left.isEmpty then rest else rest ++ [(o.1, o.2.1, left)] } }
      (m1.freeTrk o.2.1 k).addSat (Reg.MEM_REQ_ERR o.2.1) k) m

/-- Every open request of the ladles by a port ends with TIER_ERROR: a read at the host port whose link is down (R229, R349), or
a request to a module declared lost (R402, R403). -/
def endPort (m : Mod) (port : Nat) : Mod :=
  ((m.works.map (·.id)).foldl (fun (m : Mod) id => m.endWorkPort port id) m).endOrphanPort port

/-! ### Channels (R231 to R234) -/

def chan (m : Mod) (ch : Nat) : ChanSt := tabGet (fun _ => {}) m.tables.chans ch
def setChan (m : Mod) (ch : Nat) (c : ChanSt) : Mod :=
  { m with tables := { m.tables with chans := tabPut (fun _ => {}) m.tables.chans ch c } }

/-- The channel a stretch of this module's tiers starts on, with its first line and the lines it touches. -/
def chanOf (m : Mod) (a len : Nat) : Option (Nat × Nat × Nat) :=
  match placeCell (placeOf m a) with
  | some c => if isTierCell c then some (channelOf c, c / 64, (linesOf c len).length) else none
  | none => none

/-- Pooled credits of a source. -/
def pooled (m : Mod) (ch src : Nat) : Nat := tabGet (fun _ => 0) (m.chan ch).pooled src
def setPooled (m : Mod) (ch src k : Nat) : Mod :=
  m.setChan ch { m.chan ch with pooled := tabPut (fun _ => 0) (m.chan ch).pooled src k }

/-- Credits of a channel not granted to any source: 64 less the six floors of 2. -/
def poolFree (m : Mod) (ch : Nat) : Nat := 52 - (List.range 6).foldl (fun k s => k + m.pooled ch s) 0

/-- Credits a source holds in use: its requests in the queue. -/
def creditsUsed (m : Mod) (ch src : Nat) : Nat := ((m.chan ch).queue.filter (fun q => q.src == src)).length

/-- Credits of a source: its fixed share, or the floor of 2 and what the pool has granted. -/
def reqCredits (m : Mod) (ch src : Nat) : Nat := if m.capacityProfile then 2 + m.pooled ch src else fixedShare ch src

/-- A credit of a source is idle from now on. -/
def markIdle (m : Mod) (ch src : Nat) : Mod :=
  m.setChan ch { m.chan ch with idle := tabPut (fun _ => 0) (m.chan ch).idle src m.now }

/-- A source whose oldest waiting request has no credit is granted two from the pool. -/
def grantCredits (m : Mod) (ch src : Nat) : Mod :=
  if m.capacityProfile && decide (m.reqCredits ch src ≤ m.creditsUsed ch src ∧ 2 ≤ m.poolFree ch) then
    (m.setPooled ch src (m.pooled ch src + 2)).markIdle ch src
  else m

/-- A channel takes back a pooled credit idle for 1 microsecond: the command is that moment (DEDUCED, log entry 113). -/
def reclaimCredit (m : Mod) (ch src : Nat) : Mod :=
  if m.capacityProfile && m.pooled ch src != 0 && decide (m.creditsUsed ch src < m.reqCredits ch src) then
    m.expire (tabGet (fun _ => 0) (m.chan ch).idle src + 1000) (fun m => m.setPooled ch src (m.pooled ch src - 1))
  else m

/-- A request joins the queue of its channel where its source holds a credit and the queue has room. -/
def enqueue (m : Mod) (ch : Nat) (q : ChanReq) : Option Mod :=
  let m1 := m.grantCredits ch q.src
  if m1.creditsUsed ch q.src < m1.reqCredits ch q.src ∧ (m1.chan ch).queue.length < 64 then
    some (m1.setChan ch { m1.chan ch with queue := (m1.chan ch).queue ++ [q] })
  else none

/-- A request leaves the queue of a channel; its credit is back with its source. -/
def unqueue (m : Mod) (ch : Nat) (id : ReqId) : Mod :=
  let full := (List.range 6).filter (fun s =>
    (m.chan ch).queue.any (fun q => q.id == id && q.src == s) && m.creditsUsed ch s == m.reqCredits ch s)
  full.foldl (fun m s => m.markIdle ch s)
    (m.setChan ch { m.chan ch with queue := (m.chan ch).queue.filter (fun q => q.id != id) })

/-- A request stands in some queue for a line of a stretch of this module's tiers: an access to that line that comes later
waits for it (R232). -/
def lineQueued (m : Mod) (cell len : Nat) : Bool :=
  isTierCell cell && m.tables.chans.any (fun c => c.2.queue.any (fun q =>
    decide (q.first < (cell + len + 63) / 64 ∧ cell / 64 < q.first + q.count)))

/-- Consecutive grants to higher classes that a class has waited through. -/
def passedBy (m : Mod) (ch c : Nat) : Nat := tabGet (fun _ => 0) (m.chan ch).passed c

/-- The class that takes the next grant among the requests that may be served: the highest that has waited through
MEM_PRI_AGE grants, else the highest. -/
def grantClass (m : Mod) (ch : Nat) (es : List (ChanReq × Nat)) : Option Nat :=
  let cs := (List.range 4).filter (fun c => es.any (fun e => e.2 == c))
  match cs.find? (fun c => decide (m.fget Fld.MEM_PRI_AGE ≤ m.passedBy ch c)) with
  | some c => some c
  | none => cs.head?

/-- The channel serves a request of its queue: none while the grant is another's. Within a class any request may be the
one granted, because a younger one to an open DRAM row may go first. -/
def grant (m : Mod) (ch : Nat) (id : ReqId) : Option Mod :=
  let es := unblocked [] (effective (m.chan ch).queue)
  match es.find? (fun e => e.1.id == id), m.grantClass ch es with
  | some e, some c =>
    if e.2 ≠ c then none
    else
      let m1 := m.unqueue ch id
      let left := effective (m1.chan ch).queue
      some (m1.setChan ch { m1.chan ch with passed := (List.range 4).foldl (fun t k =>
        tabPut (fun _ => 0) t k (if decide (c < k) && left.any (fun x => x.2 == k) then m.passedBy ch k + 1 else 0)) [] })
  | _, _ => none

/-- A request is served by the channel of its address, where it stands in that channel's queue. -/
def serve (m : Mod) (a len : Nat) (id : ReqId) : Option Mod :=
  match m.chanOf a len with
  | none => some m
  | some (ch, _, _) => if (m.chan ch).queue.any (fun q => q.id == id) then m.grant ch id else some m

/-- A request no longer stands in any queue. -/
def leaveQueue (m : Mod) (a len : Nat) (id : ReqId) : Mod :=
  match m.chanOf a len with
  | none => m
  | some (ch, _, _) => m.when ((m.chan ch).queue.any (fun q => q.id == id)) (fun m => m.unqueue ch id)

/-- A request of a die is issued: it takes a tracker entry, where it needs one, and a place in the queue of a channel of
this module, where it goes to one; none while it waits for either (R233). -/
def sendReq (m : Mod) (d : Nat) (track : Bool) (kind : ReqKind) (a len : Nat) (id : ReqId) : Option Mod :=
  if track && m.trkRoom d == 0 then none
  else
    let m1 := m.when track (fun m => m.takeTrk d 1)
    match m.chanOf a len with
    | none => some m1
    | some (ch, first, count) => m1.enqueue ch { id := id, kind := kind, src := d, first := first, count := count }

/-- A request has been issued: it times out 50 microseconds later (Table 11.2). A row of a lookup counts as issued (R191); a
contribution row feeds the norm of its table (R292), and leaves as a packet where its home is on another module. -/
def markSent (m : Mod) (id : ReqId) : Mod :=
  let due := some (m.now + 50000)
  match id with
  | .row w k =>
    let m0 := match m.tables.lookups.find? (fun l => l.work == w) with
      | some l => m.addSat64 (Reg.PICK_ROWS_LO (l.core / 8) l.picker) 1
      | none => m
    { m0 with tables := { m0.tables with lookups := m0.tables.lookups.map (fun l => if l.work == w then
        { l with reqs := l.reqs.zipIdx.map (fun q => if q.2 == k then { q.1 with due := due } else q.1) } else l) } }
  | .contrib w k =>
    let m1 := { m with tables := { m.tables with contribs := m.tables.contribs.map (fun c => if c.work == w then
        { c with rows := c.rows.zipIdx.map (fun r => if r.2 == k then { r.1 with due := due } else r.1) } else c) } }
    match (m.tables.contribs.find? (fun c => c.work == w)).bind (fun c => c.rows[k]?) with
    | some r =>
      let m2 := match r.norm with
        | some t => m1.noteSent t r.far.step (r.far.vals.map f32Of)
        | none => m1
      if addrModule r.far.addr = m.self then m2 else m2.emit (.contribution (addrModule r.far.addr) r.far)
    | none => m1

/-- Requests that wait are issued, the oldest first; a unit whose next request must wait issues none behind it (R181,
R233, R234). -/
def sendAll (m : Mod) (us : List Unsent) : Mod :=
  (us.foldl (fun (p : Mod × List Nat) u =>
    if p.2.contains u.work then p
    else match p.1.sendReq u.die u.track u.kind u.addr u.len u.id with
      | some m' => ((m'.markSent u.id).when (u.kind == .pickerRow && m'.reach u.addr true == stOk) (fun m =>
          m.askOut u.addr u.len), p.2)
      | none => (p.1, u.work :: p.2)) (m, [])).1

end Mod
end Sys2Proof.Machine
end

