-- ==== Sys2Proof/Machine/Crucible.lean ====
section
/-!
DEFINITION. The crucibles (10_sparse_updates_and_hot_rows.md): ADD, READ_CLEAR, and the ordered hold with its fold
(R192, R193, R201 to R206).
-/

namespace Sys2Proof.Machine

open Sys2Proof

/-- Bytes of an element in a crucible format: 1 binary32, 2 bfloat16, 15 INT32. -/
def crBytes (f : Nat) : Nat := if f = 2 then 2 else 4

/-- A format a crucible knows. -/
def crFmtOk (f : Nat) : Bool := f == 1 || f == 2 || f == 15

/-- A destination and source pair of Table 10.1. -/
def crPairOk (d s : Nat) : Bool :=
  (d == 1 && (s == 1 || s == 2)) || (d == 2 && (s == 2 || s == 1)) || (d == 15 && s == 15)

/-- ADD of one element (R193): the destination's new code, and whether an INT32 sum saturated. -/
def crAdd (df sf d s : Nat) : Nat × Bool :=
  if df = 15 then
    let i := signedOf 32 d + signedOf 32 s
    let c := max (-2147483648) (min 2147483647 i)
    (twos 32 c, decide (c ≠ i))
  else ((encodeElem df 0 .nearest ((decodeElem df 0 d).add (decodeElem sf 0 s))).1, false)

/-- The order of the keys of the hold: step, source chip, sequence (R202, R203). -/
def keyBefore (a b : HeldRow) : Bool :=
  decide (a.step < b.step) || (a.step == b.step && (decide (a.chip < b.chip) ||
    (a.chip == b.chip && decide (a.seq ≤ b.seq))))

def sameKey (a b : HeldRow) : Bool := a.step == b.step && a.chip == b.chip && a.seq == b.seq

namespace Mod

/-- An event of one per heat whose payload, after `pre`, counts: the first happening of the heat posts it and each
further one raises its count. -/
def countedEvent (m : Mod) (code : Nat) (pre : List Byte) : Mod :=
  let mine := fun (e : EvRec) => e.code == code && e.heat == m.heatNo && e.data.take pre.length == pre
  if m.events.any mine then
    { m with events := m.events.map (fun e =>
        if mine e then
          { e with data := padBytes 14 (pre ++ leBytes 4 (min (leNat ((e.data.drop pre.length).take 4) + 1) 0xFFFFFFFF)) }
        else e) }
  else m.postModule code (pre ++ leBytes 4 1)

/-- New work at a home is refused: the crucibles of the die of a tier 0 cell are disabled (R406). -/
def homeRefused (m : Mod) (cell : Nat) : Bool := decide (cell % 2 ^ 49 < tier1Base) && m.cruciblesOff (cell / 2 ^ 49)

/-- ADD into one element's cell. -/
def addElem (mem : Memory) (m : Mod) (df sf cell code : Nat) : Memory × Mod :=
  let r := crAdd df sf (memNat mem cell (crBytes df)) code
  (memWrite mem cell (leBytes (crBytes df) r.1), m.when r.2 (fun m => m.inc Reg.MEM_CR_INT_SAT))

/-- What a crucible operation's reads of a stretch meet in their tier: errors corrected, lines poisoned, or a failure of
the whole (R227, R230). -/
def cruxMeet (m : Mod) (cell len : Nat) (ans : Option Answer) : Nat × Mod :=
  let x := m.meet cell len false ans
  match ans with
  | some (.uncorrectable _) => (if m.stackDown cell then stTierError else stOk, x.2)
  | _ => x

/-- ADD of a row of elements into the module's tier 0 or 1: line by line, a bad line failing its part (R192, R224, R230);
`ans` is what the tier met. -/
def addRow (mem : Memory) (m : Mod) (df sf cell : Nat) (codes : List Nat) (ans : Option Answer) : Memory × Mod × Nat :=
  let e := crBytes df
  if !isTierCell cell then (mem, m, stTierError)
  else if m.homeRefused cell then (mem, m, stBusyRefused)
  else
    let x := m.cruxMeet cell (codes.length * e) ans
    if x.1 ≠ stOk then (mem, x.2, x.1)
    else
      let p := codes.foldl (fun (p : (Memory × Mod) × Nat × Nat) c =>
        let at_ := p.2.1
        if x.2.lineState (at_ / 64) ≠ 0 then (p.1, at_ + e, stTierError)
        else (p.1.2.addElem p.1.1 df sf at_ c, at_ + e, p.2.2)) ((mem, x.2), cell, stOk)
      (p.1.1, p.1.2.when (m.badIn cell (codes.length * e)) (fun m => m.countHit cell), p.2.2)

/-! ### The ordered hold (R202, R205) -/

def heldBytes (m : Mod) : Nat := m.tables.hold.foldl (fun n r => n + r.size) 0

/-- The hold's rows change: MEM_CR_HOLD_USED follows. -/
def setHold (m : Mod) (h : List HeldRow) : Mod :=
  let m1 := { m with tables := { m.tables with hold := h } }
  m1.wrN Reg.MEM_CR_HOLD_USED ((m1.heldBytes + 1048575) / 1048576)

/-- Bytes a held row takes. -/
def heldSize (payload : Nat) : Nat := 64 + 64 * ((payload + 63) / 64)

/-- Hold a row, or refuse it when the hold cannot take it. -/
def holdRow (m : Mod) (r : HeldRow) : Mod × Nat :=
  if m.heldBytes + r.size ≤ m.rdN Reg.MEM_CR_HOLD_SIZE * 1048576 then (m.setHold (m.tables.hold ++ [r]), stOk)
  else ((m.inc Reg.MEM_CR_HOLD_FULL).countedEvent 0x088 [], stBusyRefused)

/-- Rows whose key another row of a fold has as well. -/
def dupRows (rows : List HeldRow) : List HeldRow := rows.filter (fun r => decide (1 < (rows.filter (sameKey r)).length))

/-- Rows with equal keys in a fold are counted, each once whatever lines it spans, and reported once per heat (R204). -/
def keyDups (m : Mod) (rows : List HeldRow) (dest : Nat) : Mod :=
  match (dupRows rows).filter (fun r => !r.counted) with
  | [] => m
  | r :: rest =>
    let m1 := m.addSat Reg.MEM_CR_KEY_DUP (rest.length + 1)
    if m.events.any (fun e => e.code == 0x087 && e.heat == m.heatNo) then m1
    else m1.postModule 0x087 (leBytes 8 (globalOf m dest) ++ leBytes 4 r.step)

/-- A row waits for a line. -/
def heldForLine (line : Nat) (r : HeldRow) : Bool :=
  match r.dest with
  | .addr _ => r.els.any (fun e => e.1 / 64 == line)
  | .entry .. => false

/-- The fold of a destination line (R203): its held elements are added in key order and their records freed. -/
def foldLine (mem : Memory) (m : Mod) (line : Nat) : Memory × Mod :=
  let rows := orderBy keyBefore (m.tables.hold.filter (heldForLine line))
  if rows.isEmpty then (mem, m)
  else
    let p := rows.foldl (fun (p : Memory × Mod) r =>
      (r.els.filter (fun e => e.1 / 64 == line)).foldl (fun p e => p.2.addElem p.1 r.dfmt r.sfmt e.1 e.2) p) (mem, m)
    let left := p.2.tables.hold.map (fun r =>
      if heldForLine line r then
        { r with els := r.els.filter (fun e => e.1 / 64 != line), counted := r.counted || (dupRows rows).contains r }
      else r)
    (p.1, ((p.2.keyDups rows (64 * line)).setHold (left.filter (fun r => !r.els.isEmpty))).inc Reg.MEM_CR_FOLDS)

/-- The hold has rows waiting for some line of a stretch (R225). -/
def heldIn (m : Mod) (cell len : Nat) : Bool := (linesOf cell len).any (fun l => m.tables.hold.any (heldForLine l))

/-! ### READ_CLEAR (R192, R203) -/

/-- READ_CLEAR of a stretch of the module's tier 0 or 1: the fold, the bytes as they then are, and zeros written; `ans` is
what the tier met. -/
def readClear (mem : Memory) (m : Mod) (cell len : Nat) (ans : Option Answer) : Memory × Mod × Nat × List Byte :=
  if !isTierCell cell then (mem, m, stTierError, [])
  else if m.homeRefused cell then (mem, m, stBusyRefused, [])
  else
    let x := m.meet cell len (m.badIn cell len) ans
    if x.1 ≠ stOk then (mem, x.2, x.1, [])
    else
      let p := (linesOf cell len).foldl (fun (p : Memory × Mod) l => p.2.foldLine p.1 l) (mem, x.2)
      (memWrite p.1 cell (List.replicate len 0), p.2, stOk, memRead p.1 cell len)

/-- A contribution is ordered: by its block, or as every one in paired operation (R206). -/
def orderedMode (m : Mod) (flag : Bool) : Bool := flag || m.flag Fld.CAST_PAIRED

/-- ADD as a command: elements for an address of this module's tier 0 or 1. -/
def crucibleAdd (mem : Memory) (m : Mod) (a df sf : Nat) (codes : List Nat) (ans : Option Answer) : Memory × Mod :=
  match placeCell (placeOf m a) with
  | some c =>
    if crPairOk df sf && decide (c % crBytes df = 0) && m.reach a false == stOk then
      let r := m.addRow mem df sf c codes ans
      (r.1, r.2.1)
    else (mem, m)
  | none => (mem, m)

/-- READ_CLEAR as a command, for a requester that the packet with the result goes to. -/
def readClearFor (mem : Memory) (m : Mod) (src a f n : Nat) (ans : Option Answer) : Memory × Mod :=
  match placeCell (placeOf m a) with
  | some c =>
    if crFmtOk f && decide (c % crBytes f = 0) && m.reach a false == stOk then
      let r := m.readClear mem c (n * crBytes f) ans
      (r.1, r.2.1.emit (.packet src 4 (leBytes 1 r.2.2.1 ++ r.2.2.2)))
    else (mem, m)
  | none => (mem, m)

end Mod

def execCrucibleAdd (a df sf : Nat) (x : List Nat × Option Answer) (s : State) : Host.Outcome State Fault Refusal :=
  nextMem s (fun mem m => m.crucibleAdd mem a df sf x.1 x.2)
def execReadClear (src a f : Nat) (x : Nat × Option Answer) (s : State) : Host.Outcome State Fault Refusal :=
  nextMem s (fun mem m => m.readClearFor mem src a f x.1 x.2)

end Sys2Proof.Machine
end

