-- ==== Sys2Proof/Machine/Tables.lean ====
section
/-!
DEFINITION. The table directory, the home map, the hot map and the moved-row map (09_embedding_tables.md and
10_sparse_updates_and_hot_rows.md): the checks of their operations, arming and taking force, and the writes of the MEM_
block.
-/

namespace Sys2Proof.Machine

open Sys2Proof

namespace Mod

/-! ### Checks of directory operations (R178, R185, Table 9.6) -/

/-- Fields that must be zero for the mode, and the ranges of the others (code 3). -/
def dirFormatOk (e : Nat) : Bool :=
  if tdStored e then
    (tdMode e == 1 || tdSalt e == 0) && tdCompM e == 0 && tdPartA e == 0 && tdPartB e == 0 &&
      (if tdSparse e then tdFormat e == 2 || tdFormat e == 9
        else (tdFormat e == 2 || tdFormat e == 5 || tdFormat e == 9) && tdSpread e == 0) &&
      decide (tdHotMax e ≤ 8) && decide (tdDim e ≤ 2048)
  else
    decide (tdMode e ≤ 4) && tdSalt e == 0 && tdCompM e != 0 && bitsOf e 383 344 == 0 && tdFormat e == 0 &&
      tdSpread e == 0 && tdMap e == 0 && tdHotMax e == 0 && !tdSketch e && decide (tdDim e ≤ 2048)

/-- A part that R178 allows. -/
def partOk (m : Mod) (i e part : Nat) : Bool :=
  part != i && (match m.dirEntry part with
    | some p => tdStored p && tdSparse p == tdSparse e
    | none => false)

def partDim (m : Mod) (part : Nat) : Nat := match m.dirEntry part with | some p => tdDim p | none => 0

/-- The dimension rule (code 4). -/
def dirShapeOk (m : Mod) (i e : Nat) : Bool :=
  if tdStored e then decide (2 ^ tdSpread e ≤ tdRows e)
  else if m.partOk i e (tdPartA e) && m.partOk i e (tdPartB e) then
    let a := m.partDim (tdPartA e)
    let b := m.partDim (tdPartB e)
    if tdMode e = 4 then tdDim e == a + b else a == tdDim e && b == tdDim e
  else true

/-- The home map range (code 6). -/
def dirMapOk (m : Mod) (e : Nat) : Bool :=
  !tdStored e || (decide (tdMap e + 2 ^ tdSpread e ≤ 65536) && (tdSparse e || addrModule (m.mapEntry (tdMap e)) == m.self))

/-- An enabled ledger slot names a table. -/
def ledgerNames (m : Mod) (table : Nat) : Bool :=
  (List.range 64).any (fun k => m.flag (Fld.MEM_LG_EN k) && bitsOf (m.rdN (Reg.MEM_LG_CFG k)) 11 0 == table)

/-- A valid composed entry names a table. -/
def composedNames (m : Mod) (table : Nat) : Bool :=
  m.tables.dir.any (fun p => match p.2 with
    | some e => !tdStored e && (tdPartA e == table || tdPartB e == table)
    | none => false)

/-- The first error of Table 9.6; `late` stands for what is judged at arming only. -/
def dirError (m : Mod) (i op shadow : Nat) (late : Bool) : Nat :=
  let cur := m.dirEntry i
  if op = 2 then
    if cur.isNone || late then 2 else if m.ledgerNames i || m.composedNames i then 8 else 0
  else if bitsOf shadow 282 0 ≠ 0 then 1
  else if late || cur.isSome == (op == 0) then 2
  else if !dirFormatOk shadow then 3
  else if !m.dirShapeOk i shadow then 4
  else if !tdStored shadow && !(m.partOk i shadow (tdPartA shadow) && m.partOk i shadow (tdPartB shadow)) then 5
  else if !m.dirMapOk shadow then 6
  else if op = 1 ∧ (cur.map tdVersion) = some (tdVersion shadow) then 7
  else 0

/-- A 64-byte (or other) shadow, from its register words. -/
def shadowOf (m : Mod) (base words : Nat) : Nat :=
  (List.range words).foldl (fun n w => n + m.rdN (base + 4 * w) * 2 ^ (32 * w)) 0

/-- Base of the ordered hold: the value that the last write of the _HI register took (R205, R220). -/
def holdBase (m : Mod) : Nat := m.base64 Reg.MEM_CR_HOLD_BASE_LO

def heatTooNear (m : Mod) (h : Nat) : Bool := decide (h < m.heatNo + 2)

def tdSel (m : Mod) : Nat := bitsOf (m.rdN Reg.MEM_TD_SEL) 11 0
def tdAt (m : Mod) : Nat := m.rd64 Reg.MEM_TD_AT_LO
def hotSel (m : Mod) : Nat := bitsOf (m.rdN Reg.MEM_HOT_SEL) 13 0
/-- The heat an arm takes: the value that the last write of the _HI register took (R220). -/
def hotAt (m : Mod) : Nat := m.base64 Reg.MEM_HOT_AT_LO
def mvSel (m : Mod) : Nat := bitsOf (m.rdN Reg.MEM_MV_SEL) 13 0
def mvAt (m : Mod) : Nat := m.base64 Reg.MEM_MV_AT_LO

/-- What arming a directory operation meets; an operation code of 3 has no code of the table. -/
def tdArmError (m : Mod) (op : Nat) : Nat :=
  m.dirError m.tdSel op (m.shadowOf (Reg.MEM_TD_SHADOW 0) 16) ((m.dirOp m.tdSel).isSome || m.heatTooNear m.tdAt)

def dirStatus (code : Nat) : Nat := if code = 8 then stAccessDenied else stMalformed

/-! ### Checks of the hot map and of moves (Table 10.10) -/

/-- A table that rows may be promoted or moved in. -/
def hotTableOk (m : Mod) (table : Nat) : Bool :=
  match m.dirEntry table with
  | some e => tdStored e && tdSparse e
  | none => false

def tableStride (m : Mod) (table : Nat) : Nat := match m.dirEntry table with | some e => tdStride e | none => 64
def tableRows (m : Mod) (table : Nat) : Nat := match m.dirEntry table with | some e => tdRows e | none => 0
def tableHotMax (m : Mod) (table : Nat) : Nat := match m.dirEntry table with | some e => tdHotMax e | none => 0

/-- The drupelets of an entry are aligned, in tier 0 or 1, and apart from one another; a die field in tier 1 names no
other bytes (R241). -/
def drupsOk (m : Mod) (e : Nat) : Bool :=
  let len := 2 * m.tableStride (hmTable e)
  let ss := List.range (hmCount e)
  ss.all (fun s => hmDrup e s % 64 == 0 && inTier01 (hmDrup e s) len) &&
    ss.all (fun s => ss.all (fun t => s == t || !overlaps ⟨canon (hmDrup e s), len⟩ ⟨canon (hmDrup e t), len⟩))

/-- The first error of a PROMOTE or DEMOTE. -/
def hotError (m : Mod) (i op shadow : Nat) (late : Bool) : Nat :=
  if op = 1 then (if (m.hotEntry i).isNone || late then 2 else 0)
  else
    let spare := (List.range 8).all (fun s => decide (s < hmCount shadow) || hmDrup shadow s == 0)
    if bitsOf shadow 511 68 ≠ 0 ∨ bitsOf shadow 51 40 ≠ 0 ∨ !spare then 1
    else if (m.hotEntry i).isSome || late then 2
    else if !m.hotTableOk (hmTable shadow) || hmCount shadow == 0 ||
        decide (m.tableHotMax (hmTable shadow) < hmCount shadow) then 3
    else if m.tableRows (hmTable shadow) ≤ hmRow shadow then 4
    else if !m.drupsOk shadow then 5
    else if (m.hotFor (hmTable shadow) (hmRow shadow)).isSome then 6
    else 0

def hotArmError (m : Mod) (op : Nat) : Nat :=
  m.hotError m.hotSel op (m.shadowOf (Reg.MEM_HOT_SHADOW 0) 32) ((m.hotOp m.hotSel).isSome || m.heatTooNear m.hotAt)

/-- The first error of a MOVE. -/
def moveError (m : Mod) (i shadow : Nat) (late : Bool) : Nat :=
  let table := mvTable shadow
  let busy := (match m.movedEntry i with | some r => r.moving | none => false) ||
    (match m.movedFor table (mvRow shadow) with | some (_, r) => r.moving | none => false)
  if bitsOf shadow 51 40 ≠ 0 then 1
  else if busy || late then 2
  else if !m.hotTableOk table then 3
  else if m.tableRows table ≤ mvRow shadow then 4
  else if mvNew shadow % 64 ≠ 0 ∨ !inTier012 (mvNew shadow) (m.tableStride table + 64) then 5
  else if (m.movedFor table (mvRow shadow)).any (fun p => p.1 != i) then 6
  else 0

def moveArmError (m : Mod) : Nat :=
  m.moveError m.mvSel (m.shadowOf (Reg.MEM_MV_SHADOW 0) 4) ((m.movedOp m.mvSel).isSome || m.heatTooNear m.mvAt)

/-! ### The home map (R186, R190) -/

/-- A home-map entry lies in the range of a valid or pending entry. -/
def mapInUse (m : Mod) (k : Nat) : Bool :=
  let covers := fun e => tdStored e && decide (tdMap e ≤ k ∧ k < tdMap e + 2 ^ tdSpread e)
  m.tables.dir.any (fun p => match p.2 with | some e => covers e | none => false) ||
    m.tables.dirOps.any (fun p => match p.2 with | some o => o.op != 2 && covers o.shadow | none => false)

def mapSel (m : Mod) : Nat := bitsOf (m.rdN Reg.MEM_TD_MAP_SEL) 15 0

/-- Word `w` of a number. -/
def wordAt (n w : Nat) : Word := BitVec.ofNat 32 (n / 2 ^ (32 * w))

/-- What the computed registers of the MEM_ block read as. -/
def memView (m : Mod) (off : Nat) : Option Word :=
  let b := fun (c : Bool) (k : Nat) => if c then 2 ^ k else 0
  if off = Reg.MEM_TD_CMD then
    let p := m.dirOp m.tdSel
    some (BitVec.ofNat 32 (b (p.any (·.armed)) 31 + b p.isSome 30 + b (tabGet (fun _ => none) m.tables.dirDrain m.tdSel).isSome 29 +
      b (m.dirEntry m.tdSel).isSome 28 + m.fget Fld.MEM_TD_OP))
  else if 0x46080 ≤ off ∧ off < 0x460C0 then some (wordAt ((m.dirEntry m.tdSel).getD 0) ((off - 0x46080) / 4))
  else if off = Reg.MEM_HOT_CMD then
    let p := m.hotOp m.hotSel
    some (BitVec.ofNat 32 (b (p.any (·.armed)) 31 + b p.isSome 30 + b (tabGet (fun _ => none) m.tables.hotDrain m.hotSel).isSome 29 +
      b (m.hotEntry m.hotSel).isSome 28 + m.fget Fld.MEM_HOT_OP))
  else if 0x4E180 ≤ off ∧ off < 0x4E200 then
    some (wordAt (((m.hotEntry m.hotSel).map (·.entry)).getD 0) ((off - 0x4E180) / 4))
  else if off = Reg.MEM_MV_CMD then
    let p := m.movedOp m.mvSel
    let st := match m.movedEntry m.mvSel with | some r => if r.moving then 1 else 2 | none => 0
    some (BitVec.ofNat 32 (b (p.any (·.armed)) 31 + b p.isSome 30 + st * 2 ^ 28))
  else if 0x4F050 ≤ off ∧ off < 0x4F060 then
    some (wordAt (((m.movedEntry m.mvSel).map (·.entry)).getD 0) ((off - 0x4F050) / 4))
  else if off = Reg.MEM_T2_SIZE && m.locked && !m.capacityProfile then some 0
  else none

/-! ### Taking force in step 2 (R185, R188, R214, R216) -/

/-- A lookup word issued before a heat, and not yet taken by its picker, holds a snapshot of an entry. -/
def issuedNames (m : Mod) (i h : Nat) : Bool :=
  m.cores.any (fun e => e.2.issued.any (fun x =>
    bitsOf x.word 63 56 == 3 && decide (x.heat < h) && x.dir.any (fun d => d.1 == i && d.2.isSome)))

/-- A lookup issued before now holds a snapshot of an entry. -/
def snapshotHeld (m : Mod) (i : Nat) : Bool :=
  m.tables.lookups.any (fun l => (l.table == i || l.partA == some i || l.partB == some i)) ||
    m.issuedNames i (m.heatNo + 1)

/-- A SWITCH or RETIRE removes the table's hot-map and moved-row entries; a move in progress first completes, from and to
the homes it began with (R214). -/
def forgetRows (m : Mod) (table : Nat) : Mod :=
  let hot := m.tables.hot.filter (fun p => match p.2 with | some h => hmTable h.entry != table | none => true)
  let moved := m.tables.moved.filterMap (fun p => match p.2 with
    | some r => if mvTable r.entry ≠ table then some p
      else if r.moving then some (p.1, some { r with doomed := true }) else none
    | none => some p)
  { m with tables := { m.tables with
      hot := hot, moved := moved, forwards := m.tables.forwards.filter (fun f => f.1 != table) } }

/-- A failed arm at heat H: the error register takes the code and the write is journalled. -/
def refuseArm (m : Mod) (errReg code status off : Nat) (o : MapOp) : Mod :=
  (m.wrN errReg code).journalWrite status off ((m.memView off).getD 0) o.word o.org

/-- A directory operation takes force. -/
def dirTake (m : Mod) (i : Nat) (o : MapOp) : Mod :=
  let m0 := { m with tables := { m.tables with dirOps := tabPut (fun _ => none) m.tables.dirOps i none } }
  let code := m0.dirError i o.op o.shadow false
  if code ≠ 0 then m0.refuseArm Reg.MEM_TD_ERR code (dirStatus code) Reg.MEM_TD_CMD o
  else
    let m1 := { m0 with tables := { m0.tables with
      dir := tabPut (fun _ => none) m0.tables.dir i (if o.op = 2 then none else some o.shadow)
      dirDrain := if m0.snapshotHeld i then tabPut (fun _ => none) m0.tables.dirDrain i (some m0.heatNo)
        else m0.tables.dirDrain } }
    (m1.inc Reg.MEM_TD_SWITCHES).when (o.op != 0) (fun m => m.forgetRows i)

/-- A PROMOTE or DEMOTE takes force. -/
def hotTake (m : Mod) (i : Nat) (o : MapOp) : Mod :=
  let m0 := { m with tables := { m.tables with hotOps := tabPut (fun _ => none) m.tables.hotOps i none } }
  let code := m0.hotError i o.op o.shadow false
  if code ≠ 0 then m0.refuseArm Reg.MEM_HOT_ERR code stMalformed Reg.MEM_HOT_CMD o
  else if o.op = 1 then
    let busy := m0.tables.lookups.any (fun l => l.reqs.any (fun q => q.status.isNone && (q.drup.map (·.1)) == some i))
    let m1 := m0.setHot i none
    { m1 with tables := { m1.tables with
      hotDrain := if busy then tabPut (fun _ => none) m1.tables.hotDrain i (some m1.heatNo) else m1.tables.hotDrain } }
  else m0.setHot i (some { entry := o.shadow, since := m0.heatNo })

/-- A MOVE takes force: the row is MOVING. -/
def moveTake (m : Mod) (i : Nat) (o : MapOp) : Mod :=
  let m0 := { m with tables := { m.tables with movedOps := tabPut (fun _ => none) m.tables.movedOps i none } }
  let code := m0.moveError i o.shadow false
  if code ≠ 0 then m0.refuseArm Reg.MEM_MV_ERR code stMalformed Reg.MEM_MV_CMD o
  else
    let e := (m0.dirEntry (mvTable o.shadow)).getD 0
    let row := mvRow o.shadow
    let prev := (m0.movedEntry i).map (·.entry)
    let m1 := { m0 with tables := { m0.tables with
      forwards := m0.tables.forwards.filter (fun f => !(f.1 == mvTable o.shadow && f.2.1 == row)) } }
    m1.setMoved i (some { entry := o.shadow, prev := prev, td := e, old := m0.homeBefore e row prev (mvTable o.shadow)
                          base := m0.rowAddr e row, moving := true, fence := o.heat })

/-- An abandoned move's entry reverts to what it was (R218). -/
def moveRevert (m : Mod) (i : Nat) : Mod :=
  match m.movedEntry i with
  | some r =>
    if r.failed then
      m.setMoved i (if r.doomed then none else r.prev.map (fun p => { entry := p, td := r.td, old := r.base, base := r.base, moving := false, fence := 0 }))
    else m
  | none => m

/-- Operations of a map that are due at the heat that begins. -/
def dueOps (m : Mod) (t : Tab (Option MapOp)) : List (Nat × MapOp) :=
  t.filterMap (fun p => match p.2 with
    | some o => if o.heat ≤ m.heatNo then some (p.1, o) else none
    | none => none)

/-- The maps at step 2: moves that were abandoned revert, then the operations due take force. -/
def applyMaps (m : Mod) : Mod :=
  let m1 := (m.tables.moved.map (·.1)).foldl (fun m i => m.moveRevert i) m
  let m2 := (m1.dueOps m1.tables.dirOps).foldl (fun m p => m.dirTake p.1 p.2) m1
  let m3 := (m2.dueOps m2.tables.hotOps).foldl (fun m p => m.hotTake p.1 p.2) m2
  (m3.dueOps m3.tables.movedOps).foldl (fun m p => m.moveTake p.1 p.2) m3

/-! ### Drains (R188, R214) -/

/-- MEM_TD_DRAIN of an index clears when no row request of a lookup with a superseded snapshot is outstanding. -/
def tdDrainClear (m : Mod) (i : Nat) : Mod :=
  match tabGet (fun _ => none) m.tables.dirDrain i with
  | some h =>
    if m.tables.lookups.any (fun l => (l.table == i || l.partA == some i || l.partB == some i) && decide (l.heat < h) &&
        l.reqs.any (fun q => q.status.isNone)) || m.issuedNames i h then m
    else { m with tables := { m.tables with dirDrain := tabPut (fun _ => none) m.tables.dirDrain i none } }
  | none => m

/-- MEM_HOT_DRAIN of an index clears when no request still reads the demoted drupelets. -/
def hotDrainClear (m : Mod) (i : Nat) : Mod :=
  match tabGet (fun _ => none) m.tables.hotDrain i with
  | some h =>
    if m.tables.lookups.any (fun l => decide (l.heat < h) &&
        l.reqs.any (fun q => q.status.isNone && (q.drup.map (·.1)) == some i)) then m
    else { m with tables := { m.tables with hotDrain := tabPut (fun _ => none) m.tables.hotDrain i none } }
  | none => m

/-! ### Rule slots (R157, R169) -/

def nonNeg (v : Val) : Bool := !v.isNan && (v.isZero || !v.negative)
def belowOne (v : Val) : Bool := nonNeg v && v.lt valOne

/-- The values of a slot's shadow. -/
def ruleShadow (m : Mod) (k : Nat) : RuleVals :=
  { rule := m.fget (Fld.MEM_OPT_RULE k), eta := m.rdN (Reg.MEM_OPT_ETA k), beta1 := m.rdN (Reg.MEM_OPT_BETA1 k)
    beta2 := m.rdN (Reg.MEM_OPT_BETA2 k), eps := m.rdN (Reg.MEM_OPT_EPS k), lambda := m.rdN (Reg.MEM_OPT_LAMBDA k)
    limit := m.rdN (Reg.MEM_OPT_NORM_LIMIT k), glimit := m.rdN (Reg.MEM_OPT_GNORM_LIMIT k)
    step0 := m.rdN (Reg.MEM_OPT_STEP0 k) }

/-- The checks of R169. -/
def ruleOk (r : RuleVals) : Bool :=
  decide (r.rule ≤ 4) && (!(r.rule == 1 || r.rule == 2) || belowOne (f32Of r.beta1)) &&
    (r.rule != 2 || belowOne (f32Of r.beta2)) && nonNeg (f32Of r.eta) && nonNeg (f32Of r.lambda) &&
    nonNeg (f32Of r.limit) && nonNeg (f32Of r.glimit) &&
    (!(r.rule == 2 || r.rule == 4) ||
      ((f32Of r.eps).isFinite && !(f32Of r.eps).isZero && !(f32Of r.eps).negative))

/-- The armed rule slots at step 2. -/
def applyRules (m : Mod) : Mod :=
  m.tables.ruleArms.foldl (fun m a =>
    let m1 := m.fset ⟨Reg.MEM_OPT_CTRL a.1, 31, 30⟩ 0
    let r := m.ruleShadow a.1
    if ruleOk r then { m1 with tables := { m1.tables with rules := tabPut (fun _ => {}) m1.tables.rules a.1 r } }
    else m1.journalWrite stMalformed (Reg.MEM_OPT_CTRL a.1) (m1.rd (Reg.MEM_OPT_CTRL a.1)) a.2.1 a.2.2)
    { m with tables := { m.tables with ruleArms := [] } }

/-! ### Writes of the MEM_ block (R169, R170, R190, R220, R238) -/

/-- The index of an offset in rows of a register. -/
def memRow (off base stride : Nat) : Nat := (off - base) / stride

def lgCfgCheck (m : Mod) (k : Nat) (x : Nat) : Nat :=
  if m.flag (Fld.MEM_LG_EN k) then (if bitOf x 31 || m.rdN (Reg.MEM_LG_USED k) != 0 then stAccessDenied else stOk)
  else if bitOf x 31 && !decide (10 ≤ bitsOf x 20 16 ∧ bitsOf x 20 16 ≤ 26 ∧ bitsOf x 27 24 ≤ 8) then stMalformed
  else stOk

/-- The checks of the MEM_ block. -/
def memCheck (m : Mod) (off : Nat) (v : Word) : Nat :=
  let x := v.toNat
  let ok := fun (b : Bool) => if b then stOk else stMalformed
  if off = Reg.MEM_CTRL then ok (decide (1 ≤ bitsOf x 23 16 ∧ 5 ≤ bitsOf x 15 8 ∧ bitsOf x 15 8 ≤ 75))
  else if off = Reg.MEM_TMO_T01 then ok (decide (1 ≤ x ∧ x ≤ 10000))
  else if off = Reg.MEM_TMO_T2 ∨ off = Reg.MEM_TMO_T3 then ok (decide (1 ≤ x ∧ x ≤ 60000))
  else if off = Reg.MEM_T2_SIZE then ok (decide (x ≤ 16384))
  else if off = Reg.MEM_OPT_AUDIT_LOG2 then ok (decide (x ≤ 20))
  else if off = Reg.MEM_TD_CMD then
    if bitsOf x 1 0 = 3 then stMalformed
    else if !bitOf x 31 then stOk
    else if m.tdArmError (bitsOf x 1 0) = 0 then stOk else dirStatus (m.tdArmError (bitsOf x 1 0))
  else if off = Reg.MEM_TD_MAP_HI then
    if m.mapInUse m.mapSel then stAccessDenied else ok (m.rdN Reg.MEM_TD_MAP_LO % 64 == 0)
  else if 0x4C000 ≤ off ∧ off < 0x4C800 then
    let k := (off - 0x4C000) / 0x20
    if off = Reg.MEM_LG_CFG k then m.lgCfgCheck k x
    else if m.flag (Fld.MEM_LG_EN k) then stAccessDenied
    else if off = Reg.MEM_LG_BASE_LO k then ok (x % 64 == 0) else stOk
  else if off = Reg.MEM_HOT_CFG then ok (decide (1 ≤ bitsOf x 31 16 ∧ bitsOf x 12 8 ≤ 20))
  else if off = Reg.MEM_HOT_CMD then
    ok (decide (bitsOf x 1 0 ≤ 1) && (!bitOf x 31 || m.hotArmError (bitsOf x 1 0) == 0))
  else if off = Reg.MEM_MV_CMD then ok (!bitOf x 31 || m.moveArmError == 0)
  else stOk

/-- The code of an arm whose operation the unit does not have: RESERVED or STATE where these apply; which other code the
spec does not say, and it is a free value that is not NONE (log entry 64). -/
def refuseOp (m : Mod) (errReg : Nat) (reserved state : Bool) : Mod :=
  if reserved then m.wrN errReg 1
  else if state then m.wrN errReg 2
  else
    let f := m.takeFree
    f.2.wrN errReg (f.1 % 255 + 1)

/-- A refused arm leaves its code in its error register (R473), and the arm bit of the entry it was for clears; an
operation pending there stays pending (R185, R220). -/
def memRefused (m : Mod) (off : Nat) (v : Word) : Mod :=
  let x := v.toNat
  let op := bitsOf x 1 0
  let clear := fun (t : Tab (Option MapOp)) (i : Nat) =>
    match tabGet (fun _ => none) t i with
    | some o => tabPut (fun _ => none) t i (some { o with armed := false })
    | none => t
  if !bitOf x 31 then m
  else if off = Reg.MEM_TD_CMD then
    let m1 := if op = 3 then m.refuseOp Reg.MEM_TD_ERR (bitsOf (m.shadowOf (Reg.MEM_TD_SHADOW 0) 16) 282 0 != 0)
        ((m.dirOp m.tdSel).isSome || m.heatTooNear m.tdAt)
      else m.wrN Reg.MEM_TD_ERR (m.tdArmError op)
    { m1 with tables := { m1.tables with dirOps := clear m1.tables.dirOps m1.tdSel } }
  else if off = Reg.MEM_HOT_CMD then
    let sh := m.shadowOf (Reg.MEM_HOT_SHADOW 0) 32
    let m1 := if 2 ≤ op then m.refuseOp Reg.MEM_HOT_ERR (bitsOf sh 511 68 != 0 || bitsOf sh 51 40 != 0)
        ((m.hotOp m.hotSel).isSome || m.heatTooNear m.hotAt)
      else m.wrN Reg.MEM_HOT_ERR (m.hotArmError op)
    { m1 with tables := { m1.tables with hotOps := clear m1.tables.hotOps m1.hotSel } }
  else if off = Reg.MEM_MV_CMD then
    let m1 := m.wrN Reg.MEM_MV_ERR m.moveArmError
    { m1 with tables := { m1.tables with movedOps := clear m1.tables.movedOps m1.mvSel } }
  else m

/-- The effect of an accepted write of the MEM_ block. -/
def memEffect (m : Mod) (off : Nat) (v : Word) (org : Origin) : Mod :=
  let x := v.toNat
  if off = Reg.MEM_CTRL then
    ((m.regStore off v).fset Fld.MEM_PRI_AGE (m.fget Fld.MEM_PRI_AGE)).holdWrite off 0x00FF0000 v
  else if off = Reg.MEM_HOT_CFG then m.holdWrite off 0xFFFFFFFF v
  else if off = Reg.MEM_TD_CMD then
    let m1 := m.fset Fld.MEM_TD_OP (bitsOf x 1 0)
    if bitOf x 31 then
      { m1 with tables := { m1.tables with
          dirOps := tabPut (fun _ => none) m1.tables.dirOps m1.tdSel
            (some ⟨bitsOf x 1 0, m1.tdAt, m1.shadowOf (Reg.MEM_TD_SHADOW 0) 16, v, org, true⟩) } }
    else m1
  else if off = Reg.MEM_TD_MAP_HI then
    let m1 := m.regStore off v
    { m1 with tables := { m1.tables with
        homeMap := tabPut (fun _ => 0) m1.tables.homeMap m1.mapSel (m1.rd64 Reg.MEM_TD_MAP_LO) } }
  else if off = Reg.MEM_HOT_CMD then
    let m1 := m.fset Fld.MEM_HOT_OP (bitsOf x 1 0)
    if bitOf x 31 then
      { m1 with tables := { m1.tables with
          hotOps := tabPut (fun _ => none) m1.tables.hotOps m1.hotSel
            (some ⟨bitsOf x 1 0, m1.hotAt, m1.shadowOf (Reg.MEM_HOT_SHADOW 0) 32, v, org, true⟩) } }
    else m1
  else if off = Reg.MEM_MV_CMD then
    if bitOf x 31 then
      { m with tables := { m.tables with
          movedOps := tabPut (fun _ => none) m.tables.movedOps m.mvSel
            (some ⟨0, m.mvAt, m.shadowOf (Reg.MEM_MV_SHADOW 0) 4, v, org, true⟩) } }
    else m
  else if off = Reg.MEM_HOT_AT_HI then (m.regStore off v).setBase64 Reg.MEM_HOT_AT_LO (m.rdN Reg.MEM_HOT_AT_LO + 2 ^ 32 * bitsOf x 15 0)
  else if off = Reg.MEM_CR_HOLD_BASE_HI then
    (m.regStore off v).setBase64 Reg.MEM_CR_HOLD_BASE_LO (m.rdN Reg.MEM_CR_HOLD_BASE_LO + 2 ^ 32 * x)
  else if off = Reg.MEM_MV_AT_HI then (m.regStore off v).setBase64 Reg.MEM_MV_AT_LO (m.rdN Reg.MEM_MV_AT_LO + 2 ^ 32 * bitsOf x 15 0)
  else if 0x48000 ≤ off ∧ off < 0x4C000 ∧ off % 0x40 = 0 then
    let k := (off - 0x48000) / 0x40
    let m1 := m.fset (Fld.MEM_OPT_RULE k) (bitsOf x 3 0)
    if bitOf x 31 then
      let m2 := m1.fset ⟨Reg.MEM_OPT_CTRL k, 31, 30⟩ 3
      { m2 with tables := { m2.tables with
          ruleArms := m2.tables.ruleArms.filter (fun a => a.1 != k) ++ [(k, v, org)] } }
    else m1
  else if 0x4C000 ≤ off ∧ off < 0x4C800 ∧ off % 0x20 = 8 then
    let k := (off - 0x4C000) / 0x20
    let m1 := m.regStore off v
    if bitOf x 31 && !m.flag (Fld.MEM_LG_EN k) then
      let m2 := m1.wr (Reg.MEM_LG_DRAINED k) 0
      { m2 with tables := { m2.tables with ledgers := tabPut (fun _ => {}) m2.tables.ledgers k {} } }
    else m1
  else m.regStore off v

/-! ### Read views of the MEM_ block (Tables 8.8, 9.9, 9.10, 10.12) -/

end Mod

def execMemTdDrainClear (i : Nat) (s : State) : Host.Outcome State Fault Refusal := nextMod s (fun m => m.tdDrainClear i)
def execMemHotDrainClear (i : Nat) (s : State) : Host.Outcome State Fault Refusal := nextMod s (fun m => m.hotDrainClear i)

end Sys2Proof.Machine
end

