-- ==== Sys2Proof/Machine/LedgerOps.lean ====
section
/-!
DEFINITION. The ledger (R163 to R168, R170 of 08_parameter_state.md): entries as bytes of tier 1, claiming and freeing
them, and adding a contribution row at its home (R189, R196, R199).
-/

namespace Sys2Proof.Machine

open Sys2Proof

/-- Where a request for a row goes: it is served at an address, or held for an address with a moved-row index; and whether
it is forwarded from a home the row has left. -/
inductive RowRoute where
  | serve (a : Nat) (fwd : Bool)
  | hold (i a : Nat) (fwd : Bool)
deriving DecidableEq, Repr

/-- What became of a contribution row: an outcome, sent on to another module, or held for an address with a moved-row
index. -/
inductive RowFate where
  | ended (status : Nat)
  | away
  | held (i a : Nat)
deriving DecidableEq, Repr

namespace Mod

/-- A request with a stamp is for a row whose move its new home, here, has not seen land: it is held until the move ends (R218). -/
def moveHolds (m : Mod) (table row stamp : Nat) : Bool :=
  match m.movedFor table row with
  | some (_, r) => r.moving && !r.failed && decide (r.fence ≤ stamp)
  | none => false

def lgOn (m : Mod) (k : Nat) : Bool := m.flag (Fld.MEM_LG_EN k)
def lgTable (m : Mod) (k : Nat) : Nat := bitsOf (m.rdN (Reg.MEM_LG_CFG k)) 11 0
def lgDelay (m : Mod) (k : Nat) : Nat := bitsOf (m.rdN (Reg.MEM_LG_CFG k)) 27 24
def lgCount (m : Mod) (k : Nat) : Nat := 2 ^ bitsOf (m.rdN (Reg.MEM_LG_CFG k)) 20 16
def lgSt (m : Mod) (k : Nat) : LedgerSt := tabGet (fun _ => {}) m.tables.ledgers k
def setLg (m : Mod) (k : Nat) (l : LedgerSt) : Mod :=
  { m with tables := { m.tables with ledgers := tabPut (fun _ => {}) m.tables.ledgers k l } }

/-- The enabled slot that serves a table. -/
def lgSlot (m : Mod) (table : Nat) : Option Nat := (List.range 64).find? (fun k => m.lgOn k && m.lgTable k == table)

/-- Bytes of an entry of a slot (R164). -/
def lgSize (m : Mod) (k : Nat) : Nat := (64 + 4 * m.partDim (m.lgTable k) + 63) / 64 * 64

/-- First cell of a slot's region; none where its base does not lie in tier 1. -/
def lgBase (m : Mod) (k : Nat) : Option Nat :=
  match placeOf m (m.rd64 (Reg.MEM_LG_BASE_LO k)) with
  | .tier1 c => some c
  | _ => none

/-- Cell of entry `i` of a slot. -/
def lgCell (m : Mod) (k i : Nat) : Nat := (m.lgBase k).getD 0 + i * m.lgSize k

/-- Valid entries of a slot, by number, lowest first: those whose LE_FLAGS has bit 15 set. -/
def lgValid (mem : Memory) (m : Mod) (k : Nat) : List Nat :=
  match m.lgBase k with
  | none => []
  | some c =>
    let sz := m.lgSize k
    mem.filterMap (fun p =>
      if c ≤ p.1 ∧ p.1 < c + m.lgCount k * sz ∧ (p.1 - c) % sz = 15 ∧ 128 ≤ p.2.toNat then some ((p.1 - c) / sz) else none)

/-- The lowest number not in a rising list that starts looking at `i`. -/
def firstGap : Nat → List Nat → Nat
  | i, [] => i
  | i, x :: xs => if x = i then firstGap (i + 1) xs else i

/-- A free entry of a slot. -/
def lgFree (mem : Memory) (m : Mod) (k : Nat) : Option Nat :=
  let i := firstGap 0 (m.lgValid mem k)
  if (m.lgBase k).isSome && decide (i < m.lgCount k) then some i else none

def leRow (mem : Memory) (c : Nat) : Nat := bitsOf (memNat mem c 8) 39 0
def leStep (mem : Memory) (c : Nat) : Nat := memNat mem (c + 8) 4
def leVersion (mem : Memory) (c : Nat) : Nat := memNat mem (c + 12) 2
def leFlags (mem : Memory) (c : Nat) : Nat := memNat mem (c + 14) 2
def leFailed (mem : Memory) (c : Nat) : Nat := bitsOf (leFlags mem c) 14 12

/-- The valid entry of a slot for a row and a step. -/
def lgFind (mem : Memory) (m : Mod) (k row step : Nat) : Option Nat :=
  (m.lgValid mem k).find? (fun i => leRow mem (m.lgCell k i) == row && leStep mem (m.lgCell k i) == step % 2 ^ 32)

/-- MEM_LG_USED shows the valid entries. -/
def showLedger (mem : Memory) (m : Mod) (k : Nat) : Mod := m.wrN (Reg.MEM_LG_USED k) (m.lgValid mem k).length

/-- A claimed entry as it is first written: valid, with nothing added. -/
def freshEntry (m : Mod) (k row step version : Nat) : List Byte :=
  leBytes 8 row ++ leBytes 4 step ++ leBytes 2 version ++ leBytes 2 (32768 + m.lgTable k) ++
    List.replicate (m.lgSize k - 16) 0

/-- The valid entry for a row and a step, or a free one claimed for it; the claim writes whole lines, which frees them if
they were released or poisoned (R224). -/
def lgClaim (mem : Memory) (m : Mod) (k row step version : Nat) : Option (Memory × Mod × Nat) :=
  match m.lgFind mem k row step with
  | some i => some (mem, m, i)
  | none => (m.lgFree mem k).map (fun i =>
      (memWrite mem (m.lgCell k i) (m.freshEntry k row step version),
        (m.clearWhole (m.lgCell k i) (m.lgSize k)).wrN (Reg.MEM_LG_USED k) (m.rdN (Reg.MEM_LG_USED k) + 1), i))

/-- An entry is free again. -/
def lgRelease (mem : Memory) (m : Mod) (k i : Nat) : Memory × Mod :=
  let c := m.lgCell k i
  (memWrite mem (c + 14) (leBytes 2 (leFlags mem c % 32768)), m.wrN (Reg.MEM_LG_USED k) (m.rdN (Reg.MEM_LG_USED k) - 1))

/-- LE_COUNT takes further contributions. -/
def lgAdded (mem : Memory) (c n : Nat) : Memory :=
  memWrite mem (c + 16) (leBytes 4 (min (memNat mem (c + 16) 4 + n) 0xFFFFFFFF))

/-- A held row waits for an entry. -/
def heldForEntry (k row step : Nat) (r : HeldRow) : Bool :=
  match r.dest with
  | .entry k' row' step' _ => k' == k && row' == row && step' == step
  | .addr _ => false

/-- The fold at a drain's read of an entry (R203). -/
def foldEntry (mem : Memory) (m : Mod) (k i : Nat) : Memory × Mod :=
  let c := m.lgCell k i
  let mine := heldForEntry k (leRow mem c) (leStep mem c)
  let rows := orderBy keyBefore (m.tables.hold.filter mine)
  if rows.isEmpty then (mem, m)
  else
    let p := rows.foldl (fun (p : Memory × Mod) r =>
      r.els.foldl (fun p e => p.2.addElem p.1 1 r.sfmt (c + 64 + 4 * e.1) e.2) p) (mem, m)
    (lgAdded p.1 c rows.length,
      ((p.2.keyDups rows (c + 64)).setHold (p.2.tables.hold.filter (fun r => !mine r))).inc Reg.MEM_CR_FOLDS)

/-- Rows held for a ledger entry that lies in a stretch. -/
def heldInEntries (mem : Memory) (m : Mod) (cell len : Nat) : Bool :=
  m.tables.hold.any (fun r => match r.dest with
    | .entry k row step _ => (m.lgFind mem k row step).any (fun i => overlaps ⟨m.lgCell k i, m.lgSize k⟩ ⟨cell, len⟩)
    | .addr _ => false)

/-- The ordered hold has rows waiting for a line of a stretch, for their address or for the entry that lies there (R225). -/
def heldOver (mem : Memory) (m : Mod) (cell len : Nat) : Bool := m.heldIn cell len || m.heldInEntries mem cell len

/-- An entry is lost to a tier failure (R168). -/
def ledgerLose (m : Mod) (slot table row step status : Nat) : Mod :=
  (m.inc (Reg.MEM_LG_DROPPED slot)).postModule 0x086
    (leBytes 7 (rowKey table row) ++ leBytes 1 status ++ leBytes 1 slot ++ leBytes 4 step)

/-! ### A contribution row at its home -/

/-- The record a row is held in, with the stamp of its source unit (R33, R202). -/
def heldOf (r : FarRow) (dest : HoldDest) (els : List (Nat × Nat)) : HeldRow :=
  { dest := dest, step := r.step % 2 ^ 32, chip := r.chip, seq := r.seq, heat := r.heat, time := r.time, dfmt := r.dfmt
    sfmt := r.sfmt, size := heldSize (r.vals.length * crBytes r.sfmt), els := els }

/-- A row for an address of this module: held in ordered mode, else added. -/
def homeAddress (mem : Memory) (m : Mod) (r : FarRow) (ans : Option Answer) : Memory × Mod × Nat :=
  let st := m.reach r.addr false
  match placeCell (placeOf m r.addr) with
  | none => (mem, m, if st = stOk then stTierError else st)
  | some c =>
    if st ≠ stOk then (mem, m, st)
    else if !isTierCell c then (mem, m, stTierError)
    else if m.homeRefused c then (mem, m, stBusyRefused)
    else if r.ordered then
      let h := m.holdRow (heldOf r (.addr c) (r.vals.zipIdx.map (fun v => (c + v.2 * crBytes r.dfmt, v.1))))
      (mem, h.1, h.2)
    else m.addRow mem r.dfmt r.sfmt c r.vals ans

/-- A row for the ledger of this module (R163, R164); the late ledger is refused in the rate profile (R5, R167). An entry whose header line is released or poisoned fails the row
(R224, R230). -/
def homeLedger (mem : Memory) (m : Mod) (r : FarRow) (table : Nat) (ans : Option Answer) : Memory × Mod × Nat :=
  match m.lgSlot table with
  | none => (mem, m.inc (Reg.MEM_LG_REFUSED 0), stBusyRefused)
  | some k =>
    if m.lgDelay k != 0 && !m.capacityProfile then (mem, m, stBusyRefused) else
    let late := match (m.lgSt k).drained with | some t => !laterStep r.step t | none => false
    if late then (mem, m.inc (Reg.MEM_LG_LATE k), stBusyRefused)
    else
      let h := if r.ordered then
          m.holdRow (heldOf r (.entry k r.row (r.step % 2 ^ 32) r.version) (r.vals.zipIdx.map (fun v => (v.2, v.1))))
        else (m, stOk)
      let bad := (m.lgFind mem k r.row r.step).any (fun i => m.badIn (m.lgCell k i) 64)
      if bad then (mem, m.countHit (m.lgCell k 0), stTierError) else
      match m.lgClaim mem k r.row r.step r.version with
      | none => (mem, (m.inc (Reg.MEM_LG_REFUSED k)).countedEvent 0x085 (leBytes 1 k), stBusyRefused)
      | some (mem1, claimed, i) =>
        if h.2 ≠ stOk then (mem, h.1, h.2)
        else
          let m1 := { h.1.wrN (Reg.MEM_LG_USED k) (claimed.rdN (Reg.MEM_LG_USED k)) with badLines := claimed.badLines }
          if r.ordered then (mem1, m1, stOk)
          else
            let c := m1.lgCell k i
            let a := m1.addRow mem1 1 r.sfmt (c + 64) r.vals ans
            (if a.2.2 = stOk then lgAdded a.1 c 1 else a.1, a.2.1, a.2.2)

/-- A row of a sparse-class table at its home (R189). -/
def homeTable (mem : Memory) (m : Mod) (r : FarRow) (table : Nat) (ans : Option Answer) : Memory × Mod × Nat :=
  let current := match m.dirEntry table with | some e => tdVersion e == r.version | none => false
  let refused := match placeCell (placeOf m r.addr) with | some c => m.homeRefused c | none => false
  if m.reach r.addr false ≠ stOk then (mem, m, m.reach r.addr false)
  else if !m.notSram r.addr then (mem, m, stTierError)
  else if !current then (mem, m.inc Reg.MEM_TD_STALE, stVersionStale)
  else if refused then (mem, m, stBusyRefused)
  else m.homeLedger mem r table ans

/-- Where a request for a row goes when it reaches this module addressed to `a` with a stamp: served at an address, sent on
from a home it has left, or held until the row's move ends (R216 to R218). While the row is MOVING its old home serves what is
stamped before the fence as before, whether or not the copy has left it (R217; log entry 149). -/
def rowRoute (m : Mod) (table row stamp a : Nat) : RowRoute :=
  match m.movedFor table row with
  | none => match m.forwardFor table row a with | some b => .serve b true | none => .serve a false
  | some (i, r) =>
    let new := mvNew r.entry
    let toNew := canon a == canon new
    if r.failed then .serve (if toNew then r.old else a) false
    else if r.moving then
      if r.fence ≤ stamp ∨ toNew = true then
        if addrModule new = m.self then .hold i new (!toNew) else .serve new (!toNew)
      else .serve a false
    else .serve new (!toNew)

/-- What a row meets at this module: its outcome, or none where it has been sent on to another module (R217), or it waits
for the end of its row's move (R218). -/
def homeRow (mem : Memory) (m : Mod) (r : FarRow) (ans : Option Answer) : Memory × Mod × RowFate :=
  match r.table with
  | none => let x := m.homeAddress mem r ans; (x.1, x.2.1, .ended x.2.2)
  | some t =>
    match m.rowRoute t r.row r.heat r.addr with
    | .hold i a fwd => (mem, m.when fwd (fun m => m.inc Reg.MEM_MV_FWD), .held i a)
    | .serve a fwd =>
      let m1 := m.when fwd (fun m => m.inc Reg.MEM_MV_FWD)
      if addrModule a = m.self then
        let x := m1.homeTable mem { r with addr := a } t ans
        (x.1, x.2.1, .ended x.2.2)
      else (mem, m1.emit (.contribution (addrModule a) { r with addr := a }), .away)

end Mod
end Sys2Proof.Machine
end

