-- ==== Sys2Proof/Machine/Heat.lean ====
section
/-!
DEFINITION. The heat and module time (01_heat.md): the writes of the HEAT_ block and the events of time keeping. The
tick itself stands in Boundary.lean, since every unit takes part in it.
-/

namespace Sys2Proof.Machine

open Sys2Proof


/-- Period in microseconds of a HEAT_CFG word (Table 1.8). -/
def cfgPeriod (w : Word) : Nat := wordBits w 22 8

/-- Set length in thousandths of a HEAT_CFG word (Table 1.8). -/
def cfgSet (w : Word) : Nat := wordBits w 7 0

/-- Both values of a configuration are in range (Table 1.8). -/
def cfgInRange (w : Word) : Bool :=
  decide (20 ≤ cfgPeriod w ∧ cfgPeriod w ≤ 20000 ∧ 10 ≤ cfgSet w ∧ cfgSet w ≤ 250)

/-- The first whole millisecond of module time that is at least 10 ms after a moment (R24). -/
def startTick (now : Nat) : Nat := (now + 10000000 + 999999) / 1000000 * 1000000

/-- The plane a module number lies in: its dimension 12 (R28). -/
def planeOf (k : Nat) : Nat := k / 4096

/-- The time master among the eligible modules of a plane, each with whether it has a locked reference input: the
lowest-numbered with one, and where none has one the lowest-numbered (R28). -/
def electMaster (cands : List (Nat × Bool)) : Option Nat :=
  ((if cands.any (·.2) then cands.filter (·.2) else cands).map (·.1)).min?

namespace Mod

/-! ### The parts of a heat (R12) -/

/-- S, the length of the set in ns: P microseconds times M thousandths. -/
def setLength (m : Mod) : Nat := m.heat.base.p * cfgSet (m.rd Reg.HEAT_CFG)

/-- Module time at which the boundary window of the heat in progress ends. -/
def windowEnd (m : Mod) : Nat := m.heat.tickTime + 2500

/-- Module time at which the set of the heat in progress begins. -/
def setStart (m : Mod) : Nat := m.heat.tickTime + m.heat.base.p * 1000 - m.setLength

/-- The module takes part in a heat and stands in its pour: the boundary window is over, its step 6 included, and the
set has not begun. Only here do sequencers issue new work (R13). -/
def inPour (m : Mod) : Bool :=
  m.flag Fld.HEAT_RUNNING && !m.heat.pageRead && decide (m.windowEnd ≤ m.now ∧ m.now < m.setStart)

/-! ### The time master (R28) -/

/-- The module has a locked reference input: it uses its reference inputs and one of them is locked (DEDUCED, log entry 114). -/
def refLocked (m : Mod) : Bool :=
  m.flag Fld.HEAT_REF_EN && (m.flag Fld.HEAT_10M_LOCK || m.flag Fld.HEAT_PPS_LOCK)

/-- The modules that may be time master, as far as this module knows: itself while HEAT_MASTER_ELIG is set, and those it
was told of. -/
def candidates (m : Mod) : List (Nat × Bool) :=
  (if m.flag Fld.HEAT_MASTER_ELIG then [(m.self, m.refLocked)] else []) ++ m.heat.known

/-- The plane whose master the module follows: plane 0 while dimension 12 is up, else its own. -/
def masterPlane (m : Mod) : Nat := if m.portState 12 = portUp then 0 else planeOf m.self

/-- The time master is settled by R28 from what the module knows; module time is not stepped. A master of a plane that
has not started yet and is one no longer starts it no more. -/
def settleMaster (m : Mod) : Mod :=
  let k := electMaster (m.candidates.filter (fun x => planeOf x.1 == m.masterPlane))
  let me := k == some m.self
  let m1 := { m with heat := { m.heat with
    master := k, joinIn := if !me && m.heat.joinIn == some 0 then none else m.heat.joinIn } }
  (m1.fput Fld.HEAT_IS_MASTER me).when me (fun m => m.fput Fld.HEAT_SYNCED true)

/-- What another module tells of the modules that may be time master is noted. -/
def noteKnown (m : Mod) (known : List (Nat × Bool)) : Mod :=
  { m with heat := { m.heat with known := known.filter (fun x => x.1 != m.self) } }.settleMaster

/-! ### Writes of the HEAT_ block -/

/-- Heat number H of HEAT_CHANGE_AT as a write of its _HI register gives it. -/
def changeHeat (m : Mod) (v : Word) : Nat := m.rdN Reg.HEAT_CHANGE_AT_LO + 2 ^ 32 * wordBits v 15 0

/-- The arm of R25 is accepted. -/
def changeArmOk (m : Mod) (v : Word) : Bool :=
  decide (m.heatNo + 2 ≤ m.changeHeat v) && cfgInRange (m.rd Reg.HEAT_CFG_NEXT)

/-- Module time may be set (R32). -/
def timeSetOk (m : Mod) : Bool :=
  m.flag Fld.HEAT_IS_MASTER && !m.flag Fld.HEAT_RUN && !m.flag Fld.HEAT_RUNNING

/-- The checks of the HEAT_ block (R24, R25, R32, R424). -/
def heatCheck (m : Mod) (off : Nat) (v : Word) : Nat :=
  if off = Reg.HEAT_CTRL then
    if bitOf v.toNat 0 && !m.locked then stAccessDenied else stOk
  else if off = Reg.HEAT_CHANGE_AT_HI then
    if bitOf v.toNat 31 && !m.changeArmOk v then stMalformed else stOk
  else if off = Reg.HEAT_TIME_SET_HI then
    if m.timeSetOk then stOk else stAccessDenied
  else stOk

/-- HEAT_RUN goes from 0 to 1: the time master fixes the plane's heat base and starts it at heat 0; any other module
joins once it is synchronised (R24, R30). -/
def startRun (m : Mod) : Mod :=
  if m.flag Fld.HEAT_RUNNING then m
  else if m.flag Fld.HEAT_IS_MASTER then
    { m with heat := { m.heat with
        base := { b := startTick m.now, n := 0, p := cfgPeriod (m.rd Reg.HEAT_CFG) }, joinIn := some 0 } }
  else m

/-- The effect of an accepted write of the HEAT_ block. -/
def heatEffect (m : Mod) (off : Nat) (v : Word) : Mod :=
  if off = Reg.HEAT_CTRL then
    let m' := m.regStore off v
    let m1 := if m.ready then m'.settleMaster else m'
    if bitOf v.toNat 0 && !m.flag Fld.HEAT_RUN then m1.startRun
    else if !bitOf v.toNat 0 then { m1 with heat := { m1.heat with joinIn := none } } else m1
  else if off = Reg.HEAT_CHANGE_AT_HI then
    let m' := m.regStore off v
    if bitOf v.toNat 31 then
      { m' with heat := { m'.heat with change := some { at_ := m.changeHeat v, cfg := m.rd Reg.HEAT_CFG_NEXT } } }
    else { m' with heat := { m'.heat with change := none } }
  else if off = Reg.HEAT_TIME_SET_HI then
    { m with heat := { m.heat with time := BitVec.ofNat 64 (m.rdN Reg.HEAT_TIME_SET_LO + 2 ^ 32 * v.toNat) } }
  else m.regStore off v

/-- Module time moves on by some nanoseconds, the correction of R29 and R31 being made at no more than 50 parts per
million of them. -/
def advance (m : Mod) (ns : Nat) : Mod :=
  let earned := m.heat.pullFrac + 50 * ns
  let can := earned / 1000000
  let use := min can m.heat.pull.natAbs
  let corr : Int := if m.heat.pull < 0 then - (use : Int) else use
  { m with heat := { m.heat with
      time := BitVec.ofNat 64 ((m.now : Int) + ns + corr).toNat
      pull := m.heat.pull - corr
      pullFrac := if m.heat.pull = 0 then 0 else earned % 1000000 } }

/-- With no command waiting, a powered module's time counts one nanosecond (R27). -/
def idle (m : Mod) : Mod := if m.boot.powered then m.advance 1 else m

/-- Master time less own time, as a time message shows it: the time it carries and the one-way delay of the link it
came by, less module time (R29, R260). -/
def measuredOffset (m : Mod) (t : TimeMsg) : Int := (t.time : Int) + m.rdN (Reg.FAB_P_DELAY t.port) - m.now

/-- A time message brings the time of the master: it comes by the primary port of the route to it. Where no master is
known, or no route to it, every message does (DESIGN CHOICE, log entry 146: R29 does not say which neighbour a module more
than one hop from the master follows). -/
def fromMaster (m : Mod) (t : TimeMsg) : Bool :=
  match m.heat.master with
  | none => true
  | some k => !m.flag (Fld.FAB_RT_VALID k) || m.fget (Fld.FAB_RT_PRIMARY k) == t.port

/-- What a time message says of the time master's configuration and changes is noted (R26). -/
def notePlane (m : Mod) (t : TimeMsg) : Mod :=
  { m with heat := { m.heat with
      masterCfg := some t.cfg, masterChange := t.change.map (fun c => ⟨c.1, c.2⟩), masterHeat := t.heat
      masterBase := { b := t.baseB, n := t.baseN, p := cfgPeriod t.cfg } } }

/-- The rate of module time is corrected, and HEAT_OFFSET and HEAT_SYNCED follow the offset measured; an offset outside
32 bits is shown modulo 2^32 (DESIGN CHOICE, log entry 115). A participating module that once finds its offset above 1
microsecond leaves at the next tick; one that counts ticks to its join starts anew once it is out of step (R29, R30). -/
def correctTime (m : Mod) (off : Int) : Mod :=
  let near := decide (off.natAbs ≤ 20)
  let m1 := (m.wrN Reg.HEAT_OFFSET (twos 32 (- off))).fput Fld.HEAT_SYNCED near
  { m1 with heat := { m1.heat with
      pull := off
      joinIn := if near then m.heat.joinIn else none
      offsetFault :=
        if m.flag Fld.HEAT_RUNNING && decide (1000 < off.natAbs) && m.heat.offsetFault.isNone then some (- off)
        else m.heat.offsetFault } }

/-- The module begins to count ticks to its join: it takes the plane's heat, base and configuration (R30). -/
def beginJoin (m : Mod) (t : TimeMsg) : Mod :=
  let m1 := m.wr Reg.HEAT_CFG t.cfg
  { m1 with heat := { m1.heat with
      count := BitVec.ofNat 48 t.heat, base := { b := t.baseB, n := t.baseN, p := cfgPeriod t.cfg }, joinIn := some 2 } }

/-- Before a module first takes part its time is stepped to the master's (R30). -/
def stepTime (m : Mod) (off : Int) : Mod :=
  { m with heat := { m.heat with time := BitVec.ofNat 64 ((m.now : Int) + off).toNat, pull := 0 } }

/-- A per-heat time message (R26, R28 to R30). Every module but the time master corrects its own time by those that bring
the master's. A module
set to run that has not yet taken part steps its time to the master's and joins two ticks later; one that took part
before joins without a step once it is synchronised (R27). -/
def timeMessage (m : Mod) (t : TimeMsg) : Mod :=
  if !m.ready then m
  else
    let off := m.measuredOffset t
    let m1 := m.noteKnown t.known
    if m1.flag Fld.HEAT_IS_MASTER || !m1.fromMaster t then m1
    else
      let m2 := (m1.notePlane t).correctTime off
      if !m.flag Fld.HEAT_RUNNING && m.flag Fld.HEAT_RUN && !m.flag Fld.HEAT_HELD && m2.heat.joinIn.isNone then
        if !m.heat.everRan then ((m2.stepTime off).fput Fld.HEAT_SYNCED true).beginJoin t
        else if off.natAbs ≤ 20 then m2.beginJoin t else m2
      else m2

/-- The time master is lost, or another module becomes eligible: the modules that may be master are told anew, and the
first in the order of R28 takes over. -/
def masterTakeover (m : Mod) (known : List (Nat × Bool)) : Mod := if m.ready then m.noteKnown known else m

/-- The whole multiple of 10^9 ns nearest a moment; of two equally near the later one (DESIGN CHOICE, log entry 115). -/
def nearestSecond (t : Nat) : Nat := (t + 500000000) / 1000000000 * 1000000000

/-- A rising 1 PPS edge on the time master (R31). -/
def ppsEdge (m : Mod) : Mod :=
  if m.ready && m.flag Fld.HEAT_IS_MASTER && m.flag Fld.HEAT_REF_EN && m.flag Fld.HEAT_PPS_LOCK then
    { m with heat := { m.heat with pull := (nearestSecond m.now : Int) - m.now } }
  else m

/-- Loss or regain of lock on a reference input (R31, R467). -/
def refLock (m : Mod) (tenM pps : Bool) : Mod :=
  if m.ready && (m.flag Fld.HEAT_10M_LOCK != tenM || m.flag Fld.HEAT_PPS_LOCK != pps) then
    (((m.fput Fld.HEAT_10M_LOCK tenM).fput Fld.HEAT_PPS_LOCK pps).settleMaster).postModule 0x026
      [BitVec.ofNat 8 ((if tenM then 2 else 0) + (if pps then 1 else 0))]
  else m

/-- Cores `8 g` to `8 g + 7` of a cluster. -/
def clusterCores (g : Nat) : List Nat := (List.range 8).map (fun k => 8 * g + k)

/-- The core a cluster's watchdog report names: the lowest whose last chosen work is not all issued and complete. -/
def stuckCore (m : Mod) (g : Nat) : Nat :=
  ((clusterCores g).find? (fun n => m.works.any (fun w => w.who == .core n) ||
    match (m.coreSt n).choice with
    | some c => !c.stopped && decide (c.next < c.workLen)
    | none => false)).getD (8 * g)

/-- Every piece of work of a cluster's cores is ended without effect (R22, R401), and their blocks issue no more. -/
def cancelCluster (m : Mod) (g : Nat) : Mod :=
  let m0 := m.dropWorks (fun w => match w.who with | .core n => n / 8 == g | .ring _ _ => false)
  let m1 := { m0 with msgs := m0.msgs.filter (fun x => x.core / 8 != g) }
  (clusterCores g).foldl (fun m n => m.modCore n (fun c => { c with
    issued := none
    choice := c.choice.map (fun ch => { ch with stopped := true }) })) m1

/-- The running cores of a cluster become HELD (Table 2.11). -/
def holdCluster (m : Mod) (g : Nat) : Mod :=
  (clusterCores g).foldl (fun m n => if m.coreState n = 1 then m.fset (Fld.CORE_STATE n) 2 else m) m

/-- The heat watchdog may act on a cluster: its consecutive misses reached HEAT_WDOG_HEATS at this tick, and its die is not
halted (R21, R22, R370). -/
def watchdogActs (m : Mod) (g : Nat) : Bool :=
  (m.clusterSt g).wdogDue && decide (m.now = m.heat.tickTime) && !m.dieHalted (g / 12)

/-- The heat watchdog acts, at the tick (R22, R35). -/
def watchdog (m : Mod) (g : Nat) : Mod :=
  if m.watchdogActs g then
    let n := m.stuckCore g
    let entry := match (m.coreSt n).choice with | some c => c.entry | none => m.rdN (Reg.CORE_ENTRY n)
    let m1 := m.postCluster 0x023 g (leBytes 1 (m.fget (Fld.HEAT_CM_CONSEC g)) ++ leBytes 2 entry)
    ((m1.cancelCluster g).holdCluster g).modCluster g (fun c => { c with held := true, wdogDue := false })
  else m

end Mod

def execHeatWatchdog (g : Nat) (s : State) : Host.Outcome State Fault Refusal := nextMod s (fun m => m.watchdog g)
def execTimeMessage (t : TimeMsg) (s : State) : Host.Outcome State Fault Refusal := nextMod s (fun m => m.timeMessage t)
def execMasterTakeover (known : List (Nat × Bool)) (s : State) : Host.Outcome State Fault Refusal :=
  nextMod s (fun m => m.masterTakeover known)
def execPpsEdge (s : State) : Host.Outcome State Fault Refusal := nextMod s (fun m => m.ppsEdge)
def execRefLock (tenM pps : Bool) (s : State) : Host.Outcome State Fault Refusal :=
  nextMod s (fun m => m.refLock tenM pps)

end Sys2Proof.Machine
end

