-- ==== Sys2Proof/Machine/Elementary.lean ====
section
/-!
DEFINITION. The complex operations of R131: exponential, logarithm, reciprocal square root, reciprocal, sigmoid,
hyperbolic tangent and error function. Each is computed in fixed point with 300 fraction bits and rounded once; the
binary32 value nearest the exact one is far from a rounding boundary at that precision (log entry 23).
-/

namespace Sys2Proof.Machine

open Sys2Proof

/-- Fraction bits of the fixed-point numbers below. -/
def fixBits : Nat := 300
def fixOne : Int := 2 ^ 300

/-- A finite value in fixed point. -/
def toFix (s : Bool) (m : Nat) (e : Int) : Int :=
  let k : Int := if 0 ≤ e + 300 then (m : Int) * 2 ^ (e + 300).toNat else (m : Int) / 2 ^ (-(e + 300)).toNat
  if s then -k else k

def fixVal (x : Int) : Val := .fin (decide (x < 0)) x.natAbs (-300)
def fixMul (a b : Int) : Int := a * b / fixOne

/-- Sum of the first `k` terms t^(2i+1)/(2i+1), each power multiplied by `sq` from the last: atanh with `sq` = t^2,
atan with `sq` = -t^2. -/
def oddSeries (sq : Int) : Nat → Nat → Int → Int
  | 0, _, _ => 0
  | k + 1, i, p => p / (2 * i + 1 : Nat) + oddSeries sq k (i + 1) (fixMul p sq)

/-- 2 atanh(n / d). -/
def logRatio (n d : Int) : Int :=
  let t := n * fixOne / d
  2 * oddSeries (fixMul t t) 110 0 t

/-- atan(1 / k). -/
def atanInv (k : Nat) : Int :=
  let t := fixOne / k
  oddSeries (-(fixMul t t)) 110 0 t

def ln2Fix : Int := logRatio 1 3
def piFix : Int := 16 * atanInv 5 - 4 * atanInv 239

/-- Sum of r^i / i! from term `i` on, `k` terms. -/
def expSeries (r : Int) : Nat → Nat → Int → Int
  | 0, _, _ => 0
  | k + 1, i, p => p + expSeries r k (i + 1) (fixMul p r / (i + 1 : Nat))

/-- e^x for x in fixed point, as a significand and an exponent. -/
def expFix (x : Int) : Val :=
  let k := x / ln2Fix
  .fin false (expSeries (x - k * ln2Fix) 90 0 fixOne).natAbs (k - 300)

/-- A finite value is above 2^q in magnitude. -/
def magAbove (q : Int) (m : Nat) (e : Int) : Bool := (Val.fin false 1 q).lt (.fin false m e)

def expVal (s : Bool) (m : Nat) (e : Int) : Val :=
  if magAbove 8 m e then (if s then valZero else .inf false)
  else if !magAbove (-40) m e then f32Round (valOne.add (.fin s m e))
  else f32Round (expFix (toFix s m e))

/-- ln of a positive value: m * 2^e is y * 2^k with y from 2/3 to 4/3. -/
def logVal (m : Nat) (e : Int) : Val :=
  let t := topExp m e
  let y := toFix false m (e - t)
  let up := decide (4 * fixOne < 3 * y)
  let y' := if up then y / 2 else y
  let k := if up then t + 1 else t
  f32Round (fixVal (logRatio (y' - fixOne) (y' + fixOne) + k * ln2Fix))

/-- 1 / sqrt of a positive value. -/
def rsqrtVal (m : Nat) (e : Int) : Val :=
  let odd := e % 2 ≠ 0
  let m' := if odd then 2 * m else m
  let e' := if odd then e - 1 else e
  let r := Nat.sqrt (2 ^ 400 / m')
  f32Round (.fin false (2 * r + (if r * r * m' = 2 ^ 400 then 0 else 1)) (-200 - 1 - e' / 2))

/-- The quotient of two positive exact values. -/
def quotVal (s : Bool) (a b : Val) : Val :=
  match a, b with
  | .fin _ m e, .fin _ k d => f32Round (ratioVal s m k (e - d))
  | _, _ => .nan

def sigmoidVal (s : Bool) (m : Nat) (e : Int) : Val :=
  if magAbove 8 m e then (if s then valZero else valOne)
  else if !magAbove (-40) m e then f32Round ((Val.fin false 1 (-1)).add (.fin s m (e - 2)))
  else
    let y := expFix (toFix s m e)
    quotVal false y (valOne.add y)

def tanhVal (s : Bool) (m : Nat) (e : Int) : Val :=
  if magAbove 6 m e then .fin s 1 0
  else if !magAbove (-40) m e then f32Round (.fin s m e)
  else
    let y := expFix (toFix false m (e + 1))
    quotVal s (y.add (.fin true 1 0)) (y.add valOne)

/-- Sum of (-1)^i x^(2i+1) / (i! (2i+1)), `k` terms. -/
def erfSeries (sq : Int) : Nat → Nat → Int → Int
  | 0, _, _ => 0
  | k + 1, i, p => p / (2 * i + 1 : Nat) + erfSeries sq k (i + 1) (-(fixMul p sq) / (i + 1 : Nat))

/-- 2 / sqrt(pi). -/
def twoOverRootPi : Int := 2 * fixOne * fixOne / (Nat.sqrt ((piFix * fixOne).toNat) : Int)

def erfVal (s : Bool) (m : Nat) (e : Int) : Val :=
  if !(Val.fin false m e).lt (.fin false 6 0) then .fin s 1 0
  else if !magAbove (-40) m e then f32Round ((fixVal twoOverRootPi).mul (.fin s m e))
  else
    let x := toFix false m e
    let r := fixMul (erfSeries (fixMul x x) 320 0 x) twoOverRootPi
    f32Round (.fin s r.natAbs (-300))

/-- Codes 0x0A to 0x10 of Table 6.4, with the special values of Table 6.5. -/
def elementary (op : Nat) (v : Val) : Val :=
  match v with
  | .nan => .nan
  | .inf s =>
    if op = 0x0A ∨ op = 0x0E then (if s then valZero else if op = 0x0A then .inf false else valOne)
    else if op = 0x0B then (if s then .nan else .inf false)
    else if op = 0x0C then (if s then .nan else valZero)
    else if op = 0x0D then .fin s 0 0
    else .fin s 1 0
  | .fin s m e =>
    if m = 0 then
      if op = 0x0A then valOne
      else if op = 0x0B then .inf true
      else if op = 0x0C ∨ op = 0x0D then .inf s
      else if op = 0x0E then .fin false 1 (-1)
      else .fin s 0 0
    else if op = 0x0A then expVal s m e
    else if op = 0x0B then (if s then .nan else logVal m e)
    else if op = 0x0C then (if s then .nan else rsqrtVal m e)
    else if op = 0x0D then f32Div valOne v
    else if op = 0x0E then sigmoidVal s m e
    else if op = 0x0F then tanhVal s m e
    else erfVal s m e

end Sys2Proof.Machine
end

