-- ==== Sys2Proof/Machine/Vector.lean ====
section
/-!
DEFINITION. The vector units (06_vector_and_random.md): the operation block, its checks, and the operations of
Table 6.4.
-/

namespace Sys2Proof.Machine

open Sys2Proof

/-! ### The operation block (Tables 6.2, 6.3), as a number of 512 bits -/

def vbOp (b : Nat) : Nat := bitsOf b 7 0
def vbRows (b : Nat) : Nat := bitsOf b 23 8 + 1
def vbCols (b : Nat) : Nat := bitsOf b 39 24 + 1
def vbAxis (b : Nat) : Bool := bitOf b 40
def vbA (b : Nat) : Nat := bitsOf b 87 48
def vbB (b : Nat) : Nat := bitsOf b 127 88
def vbC (b : Nat) : Nat := bitsOf b 167 128
def vbD (b : Nat) : Nat := bitsOf b 207 168
def vbAZp (b : Nat) : Nat := bitsOf b 215 208
def vbBZp (b : Nat) : Nat := bitsOf b 223 216
def vbGroup (b : Nat) : Nat := bitsOf b 255 240 + 1
def vbKeep (b : Nat) : Nat := bitsOf b 287 256
def vbRPurpose (b : Nat) : Nat := bitsOf b 303 288
def vbWatch (b : Nat) : Nat := bitsOf b 313 304
def vbConv (b : Nat) : Nat := bitsOf b 351 320
def vbImm (b : Nat) : Nat := bitsOf b 383 352
def vbGPitch (b : Nat) : Nat := bitsOf b 415 384
def vbGBase (b : Nat) : Nat := bitsOf b 479 416

def opBase (o : Nat) : Nat := bitsOf o 17 0
def opSpace (o : Nat) : Nat := bitsOf o 22 21
def opT (o : Nat) : Bool := bitOf o 23
def opFmt (o : Nat) : Nat := bitsOf o 27 24
def opPitch (o : Nat) : Nat := bitsOf o 39 28

def vbReservedOk (b : Nat) : Bool :=
  bitsOf b 511 480 == 0 && bitsOf b 319 314 == 0 && bitsOf b 239 224 == 0 && bitsOf b 47 41 == 0

/-- A code of Table 6.4. -/
def vecValid (op : Nat) : Bool := decide ((1 ≤ op ∧ op ≤ 0x12) ∨ (0x18 ≤ op ∧ op ≤ 0x23))

def vecUsesA (op : Nat) : Bool := decide ((1 ≤ op ∧ op ≤ 0x12) ∨ (0x18 ≤ op ∧ op ≤ 0x20))
def vecUsesB (op : Nat) : Bool :=
  [0x02, 0x03, 0x04, 0x05, 0x07, 0x08, 0x11, 0x12, 0x1F].contains op
def vecUsesC (op : Nat) : Bool := op == 0x04
def vecIsPool (op : Nat) : Bool := decide (0x1C ≤ op ∧ op ≤ 0x1F)
def vecIsReduce (op : Nat) : Bool := decide (0x18 ≤ op ∧ op ≤ 0x1B)
def vecIsRandom (op : Nat) : Bool := decide (0x20 ≤ op ∧ op ≤ 0x23)
/-- Codes that write unsigned words without a conversion (R130). -/
def vecIsWords (op : Nat) : Bool := op == 0x22 || op == 0x23

/-- Shape of B: a broadcast row or column, one column of weights, or the shape of A (R133). -/
def vecShapeB (b : Nat) : Nat × Nat :=
  if vbOp b = 0x11 ∨ vbOp b = 0x12 then (if vbAxis b then (vbRows b, 1) else (1, vbCols b))
  else if vbOp b = 0x1F then (vbRows b, 1)
  else (vbRows b, vbCols b)

/-- Shape of D (Table 6.4). -/
def vecShapeD (b : Nat) : Nat × Nat :=
  if vecIsReduce (vbOp b) then (if vbAxis b then (1, vbCols b) else (vbRows b, 1))
  else if vecIsPool (vbOp b) then (vbRows b / vbGroup b, vbCols b)
  else (vbRows b, vbCols b)

/-- An operand field that an operation does not use holds nothing but, at most, OP_SPACE 3. -/
def unusedOperandOk (o : Nat) : Bool := o == 0 || o == 0x600000

def vecReservedOk (b : Nat) : Bool :=
  let op := vbOp b
  let fld := fun (used : Bool) o => if used || !vecValid op then bitsOf o 20 18 == 0 else unusedOperandOk o
  vbReservedOk b && fld (vecUsesA op) (vbA b) && fld (vecUsesB op) (vbB b) && fld (vecUsesC op) (vbC b) &&
    bitsOf (vbD b) 20 18 == 0 && (vbKeep b == 0 || op == 0x20) && (vbGroup b == 1 || vecIsPool op)

def vecOpOk (b : Nat) : Bool :=
  let op := vbOp b
  vecValid op && !(vecUsesA op && opSpace (vbA b) == 3) && !(vecUsesB op && opSpace (vbB b) == 3) &&
    !(vecUsesC op && opSpace (vbC b) == 3)

/-- A zero point stands only on an integer source, and on an INT4 source of a vector word within -8 to 7 (DESIGN CHOICE,
log entry 154). -/
def vecZpOk (used : Bool) (fmt z : Nat) : Bool := if !used then true else if isInt fmt then zpOk8 fmt z else z == 0
where
  /-- Zero points of INT4 are sign-extended (R91 says so of array passes). -/
  zpOk8 (fmt z : Nat) : Bool := fmt == 7 || decide (-8 ≤ signedOf 8 z ∧ signedOf 8 z ≤ 7)

def vecFormatOk (b : Nat) : Bool :=
  let op := vbOp b
  let src := fun used o => !used || decide (1 ≤ opFmt o ∧ opFmt o ≤ 10)
  src (vecUsesA op) (vbA b) && src (vecUsesB op) (vbB b) && src (vecUsesC op) (vbC b) && opFmt (vbD b) == 0 &&
    vecZpOk (vecUsesA op) (opFmt (vbA b)) (vbAZp b) && vecZpOk (vecUsesB op) (opFmt (vbB b)) (vbBZp b) &&
    (if vecIsWords op then vbConv b == 1 else cvOk (vbConv b))

/-- Element format that D is stored in. -/
def vecDFmt (b : Nat) : Nat := if vecIsWords (vbOp b) then 1 else cvFmt (vbConv b)

/-- An operand of more than one stored row has a pitch. -/
def pitchOk (o : Nat) (shape : Nat × Nat) : Bool :=
  opPitch o != 0 || decide ((storedShape (opT o) shape.1 shape.2).1 ≤ 1)

def vecSizeOk (b : Nat) : Bool :=
  let op := vbOp b
  (!vecIsPool op || vbRows b % vbGroup b == 0) &&
    (!vecUsesA op || pitchOk (vbA b) (vbRows b, vbCols b)) && (!vecUsesB op || pitchOk (vbB b) (vecShapeB b)) &&
    (!vecUsesC op || pitchOk (vbC b) (vbRows b, vbCols b)) && pitchOk (vbD b) (vecShapeD b)

/-- An operand lies in its memory (R475). -/
def rangeOk (o fmt : Nat) (shape : Nat × Nat) : Bool :=
  let s := storedShape (opT o) shape.1 shape.2
  opSpace o != 3 && decide (64 * opBase o + storedBytes fmt (opPitch o) (opSpace o == 2) s.1 s.2 ≤ spaceBytes (opSpace o))

def vecRangeOk (b : Nat) : Bool :=
  let op := vbOp b
  (!vecUsesA op || rangeOk (vbA b) (opFmt (vbA b)) (vbRows b, vbCols b)) &&
    (!vecUsesB op || rangeOk (vbB b) (opFmt (vbB b)) (vecShapeB b)) &&
    (!vecUsesC op || rangeOk (vbC b) (opFmt (vbC b)) (vbRows b, vbCols b)) &&
    rangeOk (vbD b) (vecDFmt b) (vecShapeD b)

def vecPurposeOk (b : Nat) : Bool :=
  (vbRPurpose b != 0) == vecIsRandom (vbOp b) && (vbRPurpose b == 0 || vbRPurpose b != cvPurpose (vbConv b))

/-- The first error of Table 6.6 of a word and its block, 0 for none. -/
def vecError (w b : Nat) : Nat :=
  if bitsOf w 41 0 ≠ 0 then 1
  else if 0xE0000 < 64 * bitsOf w 55 42 + 64 then 5
  else if !vecReservedOk b then 1
  else if !vecOpOk b then 2
  else if !vecFormatOk b then 3
  else if !vecSizeOk b then 4
  else if !vecRangeOk b then 5
  else if !vecPurposeOk b then 6
  else 0

/-! ### The operations (R130 to R132) -/

/-- The smaller of two values, -0 below +0 (code 0x07). -/
def vmin (a b : Val) : Val :=
  if a.isNan || b.isNan then .nan
  else if a.isZero && b.isZero then (if a.negative then a else b)
  else if a.lt b then a else b

/-- The larger of two values, +0 above -0 (code 0x08, R132). -/
def vmax (a b : Val) : Val :=
  if a.isNan || b.isNan then .nan
  else if a.isZero && b.isZero then (if a.negative then b else a)
  else if b.lt a then a else b

/-- One level of the tree of R132: neighbours combined in pairs. -/
def treeLevel (f : Val → Val → Val) : List Val → List Val
  | a :: b :: rest => f a b :: treeLevel f rest
  | l => l

/-- `k` levels of the tree. -/
def treeLevels (f : Val → Val → Val) : Nat → List Val → List Val
  | 0, l => l
  | k + 1, l => treeLevels f k (treeLevel f l)

/-- Exponent of the smallest power of two that is at least n. -/
def ceilLog (n : Nat) : Nat := if n ≤ 1 then 0 else (n - 1).log2 + 1

/-- The fixed tree of R132 over n values, filled up with `pad`. -/
def treeFold (f : Val → Val → Val) (pad : Val) (xs : List Val) : Val :=
  let k := ceilLog xs.length
  ((treeLevels f k (xs ++ List.replicate (2 ^ k - xs.length) pad)).head?).getD pad

def treeSum (xs : List Val) : Val := treeFold f32Add valZero xs
def treeMax (xs : List Val) : Val := treeFold vmax (.inf true) xs

def relu : Val → Val
  | .nan => .nan
  | v => if valZero.lt v then v else valZero

/-- The elementwise codes that draw nothing, at one element. -/
def vecElem (op : Nat) (imm a b c : Val) : Val :=
  if op = 0x01 then a
  else if op = 0x02 ∨ op = 0x12 then f32Add a b
  else if op = 0x03 ∨ op = 0x11 then f32Mul a b
  else if op = 0x04 then f32Fma a b c
  else if op = 0x05 then f32Fma imm a b
  else if op = 0x06 then f32Mul imm a
  else if op = 0x07 then vmin a b
  else if op = 0x08 then vmax a b
  else if op = 0x09 then relu a
  else elementary op a

/-- One reduction or pooling group; `ws` are the weights of PWSUM. -/
def vecReduce (op : Nat) (xs ws : List Val) : Val :=
  if op = 0x1A ∨ op = 0x1E then treeMax xs
  else if op = 0x19 then treeSum (xs.map (fun x => f32Mul x x))
  else if op = 0x1F then treeSum ((ws.zip xs).map (fun p => f32Mul p.1 p.2))
  else if op = 0x1B ∨ op = 0x1D then f32Div (treeSum xs) (valInt xs.length)
  else treeSum xs

/-- Element (r, c) of D from the grids of A, B, C and the element's draw. -/
def vecAt (b : Nat) (ga gb gc : List (List Val)) (draw : Nat → Nat → Nat) (r c : Nat) : Val :=
  let op := vbOp b
  let imm := f32Of (vbImm b)
  if vecIsReduce op then
    vecReduce op (if vbAxis b then (List.range (vbRows b)).map (fun k => gridAt ga k c)
      else (List.range (vbCols b)).map (fun k => gridAt ga r k)) []
  else if vecIsPool op then
    let rows := (List.range (vbGroup b)).map (fun k => r * vbGroup b + k)
    vecReduce op (rows.map (fun k => gridAt ga k c)) (rows.map (fun k => gridAt gb k 0))
  else if op = 0x20 then (if draw r c < vbKeep b then f32Mul imm (gridAt ga r c) else valZero)
  else if op = 0x21 then .fin false (draw r c / 256) (-24)
  else if op = 0x11 ∨ op = 0x12 then
    vecElem op imm (gridAt ga r c) (if vbAxis b then gridAt gb r 0 else gridAt gb 0 c) valZero
  else vecElem op imm (gridAt ga r c) (gridAt gb r c) (gridAt gc r c)

/-- The unsigned word of codes 0x22 and 0x23. -/
def vecWord (b : Nat) (draw : Nat → Nat → Nat) (r c : Nat) : Nat :=
  if vbOp b = 0x22 then draw r c * vbImm b / 2 ^ 32 else draw r c

namespace Mod

/-- A source field of core `n` as an operand, relocated where it names an in-channel's slots (R50). -/
def vecSource (mem : Memory) (m : Mod) (n o z : Nat) : Operand :=
  let at_ := spaceCell n (opSpace o) + 64 * opBase o
  { fmt := opFmt o, zp := signedOf 8 z, t := opT o, tiled := opSpace o == 2
    at_ := if opSpace o = 2 then at_ else m.relocate mem n at_, pitch := opPitch o }

/-- The destination of an operation. -/
def vecDest (n b : Nat) : Operand :=
  let o := vbD b
  { fmt := vecDFmt b, t := opT o, tiled := opSpace o == 2, at_ := spaceCell n (opSpace o) + 64 * opBase o
    pitch := opPitch o }

/-- A source decoded exactly into binary32 (step 1 of R130). -/
def vecRead (mem : Memory) (m : Mod) (n o z : Nat) (used : Bool) (shape : Nat × Nat) : List (List Val) :=
  if used then ((m.vecSource mem n o z).read mem shape.1 shape.2).map (fun row => row.map f32Round) else []

/-- A checked operation is evaluated and written (R130); it completes when its last element has landed. -/
def runVector (mem : Memory) (m : Mod) (n w pos b : Nat) : Memory × Mod :=
  let op := vbOp b
  let ga := m.vecRead mem n (vbA b) (vbAZp b) (vecUsesA op) (vbRows b, vbCols b)
  let gb := m.vecRead mem n (vbB b) (vbBZp b) (vecUsesB op) (vecShapeB b)
  let gc := m.vecRead mem n (vbC b) 0 (vecUsesC op) (vbRows b, vbCols b)
  let draw := fun r c => drawAt m.seed (m.boundStep n) (vbRPurpose b) (m.boundMb n) (vbGBase b + r * vbGPitch b + c)
  let d := vecDest n b
  let sh := vecShapeD b
  let cells := fun {α : Type} (f : Nat → Nat → α) => (List.range sh.1).map (fun r => (List.range sh.2).map (f r))
  let x : ConvCtx := { spec := vbConv b, gbase := vbGBase b, gpitch := vbGPitch b, step := m.boundStep n
                       mb := m.boundMb n, seed := m.seed }
  let w0 : Writing := { mem := mem, m := m.launch n .vector pos w [d.span sh.1 sh.2] }
  let wr := if vecIsWords op then w0.words d sh.1 sh.2 (cells (vecWord b draw))
    else w0.grid d x sh.1 sh.2 (cells (vecAt b ga gb gc draw))
  let m1 := wr.m.account (.die (n / 96)) (vbWatch b) (m.boundStep n) wr.tally
  (wr.mem, m1.modWork m.nextId (fun k => { k with status := if wr.denied then stAccessDenied else stOk }))

/-- The vector unit takes the word its core has issued (R129, R133). -/
def vectorOp (mem : Memory) (m : Mod) (n : Nat) : Memory × Mod :=
  match m.issuedFor n 2 with
  | none => (mem, m)
  | some (w, pos, b) =>
    if vecError w b ≠ 0 then (mem, m.rejectWord n (Reg.CORE_VEC_ERR n) (vecError w b))
    else m.runVector mem n w pos b

/-- A vector operation completes (R134, Table 6.11); the vector unit of a halted die holds its state (R370). -/
def vectorDone (m : Mod) (id : Nat) : Mod :=
  match m.findWork id with
  | some w =>
    match w.unit, w.who with
    | .vector, .core n => if m.dieHalted (n / 96) then m else (m.endWork id w.status).inc (Reg.CORE_VEC_OPS n)
    | _, _ => m
  | none => m

end Mod

def execVectorOperation (n : Nat) (s : State) : Host.Outcome State Fault Refusal :=
  nextMem s (fun mem m => m.vectorOp mem n)
def execVectorOpComplete (id : Nat) (s : State) : Host.Outcome State Fault Refusal := nextMod s (fun m => m.vectorDone id)

end Sys2Proof.Machine
end

