-- ==== Sys2Proof/Machine/Picker.lean ====
section
/-!
DEFINITION. Picker lookups (R179 to R187 of 09_embedding_tables.md), and the hot-row sketch and drupelets of
10_sparse_updates_and_hot_rows.md (R207 to R211).
-/

namespace Sys2Proof.Machine

open Sys2Proof

/-! ### The lookup block (Table 9.3), as a number of 512 bits -/

def pkGBase (b : Nat) : Nat := bitsOf b 511 448
def pkGPitch (b : Nat) : Nat := bitsOf b 447 416
def pkConv (b : Nat) : Nat := bitsOf b 415 384
def pkWatch (b : Nat) : Nat := bitsOf b 383 374
def pkD (b : Nat) : Nat := bitsOf b 373 334
def pkIdx (b : Nat) : Nat := bitsOf b 333 314
def pkWgt (b : Nat) : Nat := bitsOf b 313 294
def pkStat (b : Nat) : Nat := bitsOf b 293 274
def pkBags (b : Nat) : Nat := bitsOf b 273 258 + 1
def pkG (b : Nat) : Nat := bitsOf b 257 250 + 1
def pkTable (b : Nat) : Nat := bitsOf b 249 238
def pkPool (b : Nat) : Nat := bitsOf b 237 235
def pkSplit (b : Nat) : Bool := bitOf b 234

/-- Fields of a list reference: [19:18] space, [17:0] base. -/
def lsSpace (l : Nat) : Nat := bitsOf l 19 18
def lsBase (l : Nat) : Nat := bitsOf l 17 0

/-- A list of `len` bytes lies in shared or local memory. -/
def listOk (l len : Nat) : Bool := decide (lsSpace l ≤ 1) && decide (64 * lsBase l + len ≤ spaceBytes (lsSpace l))

/-- First cell of a list as core `n` sees it. -/
def listCell (n l : Nat) : Nat := spaceCell n (lsSpace l) + 64 * lsBase l

/-- The padding index (R179). -/
def padIndex : Nat := 0xFFFFFFFFFFFFFFFF

def skSalts : List Nat := [0x2B7E151628AED2A6, 0xABF7158809CF4F3C, 0x76169A8B1CF62E13, 0xE9D545F03A08C751]

namespace Mod

/-- Width of a lookup's output (R179). -/
def pkWidth (m : Mod) (b e : Nat) : Nat :=
  if pkSplit b || tdMode e == 4 then m.partDim (tdPartA e) + m.partDim (tdPartB e) else tdDim e

/-- The pool conditions of error TABLE. -/
def pkPoolOk (b : Nat) : Bool :=
  decide (4 < pkPool b) ||
    ((pkPool b != 0 || pkG b == 1) && ((pkPool b == 3) == (lsSpace (pkWgt b) != 3)))

/-- The first error of Table 9.4 of a lookup word and its block. -/
def lookupError (m : Mod) (w b : Nat) : Nat :=
  if bitsOf w 41 0 ≠ 0 then 1
  else if 0xE0000 < 64 * bitsOf w 55 42 + 64 then 5
  else if bitsOf b 233 0 ≠ 0 ∨ bitsOf (pkD b) 20 18 ≠ 0 then 1
  else
    match m.dirEntry (pkTable b) with
    | none => 2
    | some e =>
      if pkSplit b && (!(tdMode e == 2 || tdMode e == 3) || pkG b != 1) then 2
      else if !pkPoolOk b then 2
      else if 4 < pkPool b ∨ !cvOk (pkConv b) ∨ opFmt (pkD b) ≠ 0 then 3
      else if 262144 < pkG b * m.pkWidth b e * 4 ∨ opPitch (pkD b) = 0 then 4
      else if !(listOk (pkIdx b) (8 * pkBags b * pkG b) && listOk (pkStat b) 16 &&
          (lsSpace (pkWgt b) == 3 || listOk (pkWgt b) (4 * pkBags b * pkG b)) &&
          rangeOk (pkD b) (cvFmt (pkConv b)) (pkBags b, m.pkWidth b e)) then 5
      else 0

/-! ### The sketch (R207, R208) -/

def sketchAt (m : Mod) (die row col : Nat) : Nat := tabGet (fun _ => 0) m.tables.sketch ((die * 4 + row) * 4096 + col)

/-- Columns of a key in the four rows. -/
def sketchCols (k : Nat) : List (Nat × Nat) := skSalts.zipIdx.map (fun s => (s.2, rowHash k s.1 % 4096))

/-- The estimate of a key on a die. -/
def sketchEst (m : Mod) (die k : Nat) : Nat :=
  (sketchCols k).foldl (fun n c => min n (m.sketchAt die c.1 c.2)) 65535

/-- One row request feeds the sketch, and a row that reaches the threshold is proposed. -/
def sketchFeed (m : Mod) (die table row : Nat) : Mod :=
  let k := rowKey table row
  let was := m.sketchEst die k
  let m1 := (sketchCols k).foldl (fun m c =>
    { m with tables := { m.tables with
        sketch := tabPut (fun _ => 0) m.tables.sketch ((die * 4 + c.1) * 4096 + c.2)
          (min 65535 (m.sketchAt die c.1 c.2 + 1)) } }) m
  let est := m1.sketchEst die k
  if est = m1.fget Fld.MEM_HOT_THRESH ∧ was ≠ est ∧ (m1.hotFor table row).isNone then
    let p := tabGet (fun _ => 0) m1.tables.proposals die
    if p < m1.fget Fld.MEM_HOT_MAXPROP then
      ({ m1 with tables := { m1.tables with proposals := tabPut (fun _ => 0) m1.tables.proposals die (p + 1) } }.inc
        Reg.MEM_HOT_PROPOSED).postDie 0x089 die (leBytes 7 k ++ leBytes 2 est)
    else m1.inc Reg.MEM_HOT_PROP_DROP
  else m1

/-- Every 2^MEM_HOT_DECAY heats every counter is halved. -/
def sketchDecay (m : Mod) : Mod :=
  let d := m.fget Fld.MEM_HOT_DECAY
  if m.ready && d != 0 && m.heatNo % 2 ^ d == 0 && m.tables.decayed != some m.heatNo then
    { m with tables := { m.tables with
        decayed := some m.heatNo
        sketch := m.tables.sketch.filterMap (fun p => if p.2 / 2 = 0 then none else some (p.1, p.2 / 2)) } }
  else m

/-! ### Issue (R181, R187, R211) -/

/-- The home of a hot-map entry's row lies on this module. -/
def hotHomeHere (m : Mod) (h : HotEntry) : Bool :=
  match m.dirEntry (hmTable h.entry) with
  | some e => addrModule (m.rowHome e (hmTable h.entry) (hmRow h.entry) m.heatNo).1 == m.self
  | none => false

/-- A promoted row is due for refresh at the boundary of the heat in progress: its promotion took force, or a write landed at
its home, in the right heat (R210). -/
def refreshDue (m : Mod) (h : HotEntry) : Bool :=
  let n := m.heatNo
  decide (h.since = n ∨ h.since + 1 = n) || h.wrote.any (fun w => decide (w + 1 = n ∨ w + 2 = n))

/-- The refresh of the boundary of the heat in progress was due, or may have been, and has not landed: whether one was due at a
home on another module is known here once that home has told it (R211; DEDUCED, log entry 149). -/
def refreshOpen (m : Mod) (h : HotEntry) : Bool := (m.refreshDue h || !m.hotHomeHere h) && h.done != some m.heatNo

/-- The row request of a list position: of a promoted row, one of the nearest drupelet whose copy is valid, or will be when
the refresh that is open has landed. `heat` is that of the lookup's issue. -/
def rowReq (m : Mod) (heat die pos part table e row : Nat) : RowReq × Mod :=
  let m0 := m.when (tdSketch e) (fun m => m.sketchFeed die table row)
  match m0.hotFor table row with
  | some (i, h) =>
    (match m0.nearestDrup die (heat % 2) (heat == m0.heatNo && m0.refreshOpen h) h with
    | some s => ({ pos := pos, part := part, table := table, row := row, drup := some (i, s)
                   addr := hmDrup h.entry s + heat % 2 * tdStride e }, m0)
    | none => ({ pos := pos, part := part, table := table, row := row, addr := (m0.rowHome e table row heat).1 },
        m0.inc Reg.MEM_HOT_HOME_READ))
  | none => ({ pos := pos, part := part, table := table, row := row, addr := (m0.rowHome e table row heat).1 }, m0)

/-- The requests of one index of a lookup; none where it is out of range. -/
def indexReqs (m : Mod) (heat die pos b e x : Nat) : Option (List RowReq × Mod) :=
  if tdStored e then
    (mapIndex e x).map (fun r => let q := m.rowReq heat die pos 0 (pkTable b) e r; ([q.1], q.2))
  else
    let ea := (m.dirEntry (tdPartA e)).getD 0
    let eb := (m.dirEntry (tdPartB e)).getD 0
    match mapIndex ea (x % tdCompM e), mapIndex eb (x / tdCompM e) with
    | some ra, some rb =>
      let qa := m.rowReq heat die pos 1 (tdPartA e) ea ra
      let qb := qa.2.rowReq heat die pos 2 (tdPartB e) eb rb
      some ([qa.1, qb.1], qb.2)
    | _, _ => none

/-- The snapshotted entry of a request. -/
def reqEntry (l : Lookup) (q : RowReq) : Nat := if q.part = 0 then l.entry else if q.part = 1 then l.entryA else l.entryB

/-- Bytes of the row a request asks for. -/
def reqLen (l : Lookup) (q : RowReq) : Nat := rowBytes (tdFormat (reqEntry l q)) (tdDim (reqEntry l q))

/-- Requests of lookups and contributions that wait to be issued, by age of their work. -/
def unsent (m : Mod) : List Unsent :=
  let mine := fun (w : Nat) => (m.findWork w).isSome
  let rows := m.tables.lookups.flatMap (fun l => l.reqs.zipIdx.filterMap (fun q =>
    if q.1.due.isNone && q.1.status.isNone && mine l.work then
      some { work := l.work, die := l.core / 96, track := true, kind := .pickerRow, addr := q.1.addr
             len := reqLen l q.1, id := .row l.work q.2 : Unsent }
    else none))
  let cons := m.tables.contribs.flatMap (fun c => c.rows.zipIdx.filterMap (fun r =>
    if r.1.due.isNone && r.1.outcome.isNone && mine c.work then
      some { work := c.work, die := c.core / 96, track := r.1.track, kind := if r.1.far.ordered then .hold else .add
             addr := r.1.far.addr, len := r.1.far.vals.length * crBytes r.1.far.dfmt, id := .contrib c.work r.2 : Unsent }
    else none))
  orderBy (fun a b => decide (a.work ≤ b.work)) (rows ++ cons)

/-- Requests that wait are issued as far as entries and credits allow. -/
def admitRows (m : Mod) : Mod := m.sendAll m.unsent

/-- A checked lookup starts on a picker: every row is requested, through the entries snapshotted at the word's issue. -/
def runLookup (mem : Memory) (m : Mod) (n p wait w pos b : Nat) : Mod :=
  let e := (m.dirEntry (pkTable b)).getD 0
  let cnt := pkBags b * pkG b
  let at_ := m.relocate mem n (listCell n (pkIdx b))
  let idx := (List.range cnt).map (fun k => memNat mem (at_ + 8 * k) 8)
  let wgt := if lsSpace (pkWgt b) = 3 then []
    else (List.range cnt).map (fun k => memNat mem (m.relocate mem n (listCell n (pkWgt b)) + 4 * k) 4)
  let d : Operand := { vecDest n 0 with
    fmt := cvFmt (pkConv b), t := opT (pkD b), tiled := opSpace (pkD b) == 2
    at_ := spaceCell n (opSpace (pkD b)) + 64 * opBase (pkD b), pitch := opPitch (pkD b) }
  let id := m.nextId
  let heat := (m.issuedWord n).heat
  let m1 := m.launch n .picker pos w [d.span (pkBags b) (m.pkWidth b e), ⟨listCell n (pkStat b), 16⟩]
  let r := idx.zipIdx.foldl (fun (r : Mod × List RowReq × Nat × List Nat) (xk : Nat × Nat) =>
    if xk.1 = padIndex then (r.1, r.2.1, r.2.2.1 + 1, r.2.2.2)
    else match r.1.indexReqs heat (n / 96) xk.2 b e xk.1 with
      | some (qs, m') => (m', r.2.1 ++ qs, r.2.2.1, r.2.2.2)
      | none => (r.1, r.2.1, r.2.2.1, r.2.2.2 ++ [xk.2])) (m1, [], 0, [])
  let l : Lookup := {
    work := id, core := n, picker := p, block := b, heat := heat, table := pkTable b, entry := e
    partA := if tdStored e then none else some (tdPartA e), entryA := (m.dirEntry (tdPartA e)).getD 0
    partB := if tdStored e then none else some (tdPartB e), entryB := (m.dirEntry (tdPartB e)).getD 0
    idx := idx, wgt := wgt, reqs := r.2.1, padding := r.2.2.1, oor := r.2.2.2 }
  let g := n / 8
  let m2 := { r.1 with tables := { r.1.tables with lookups := r.1.tables.lookups ++ [l] } }
  ((((m2.addSat (Reg.PICK_OOR g p) r.2.2.2.length).addSat (Reg.PICK_TRK_WAIT g p) wait).addSat
    (Reg.MEM_TRK_WAIT (n / 96)) wait).showPicker g p).admitRows

/-- A lookup word that its picker takes is checked and started. -/
def takeLookup (mem : Memory) (m : Mod) (n p wait w pos b : Nat) : Mod :=
  if m.lookupError w b ≠ 0 then (m.fset (Fld.PICK_ERR (n / 8) p) (m.lookupError w b)).stopMalformed n
  else m.runLookup mem n p wait w pos b

/-- A lookup word is taken by a picker that is free: one that is busy takes none (R179). The entries it names are those it
snapshotted at its issue (R187). `wait` counts the cycles its requests will wait for tracker entries. -/
def pickerLookup (mem : Memory) (m : Mod) (n p wait : Nat) : Mod :=
  match m.issuedFor n 3 with
  | none => m
  | some (w, pos, b) =>
    if m.pickerOff (n / 8) p then m.refuseWord n
    else if m.flag (Fld.PICK_BUSY (n / 8) p) then m
    else ((m.atIssue n 0).takeLookup mem n p wait w pos b).inForce m

/-! ### Rows (R182, R183, R210, R211) -/

def findLookup (m : Mod) (id : Nat) : Option Lookup := m.tables.lookups.find? (·.work == id)

/-- A lookup changes; one whose work has ended goes when no request is left. -/
def putLookup (m : Mod) (l : Lookup) : Mod :=
  let gone := (m.findWork l.work).isNone && l.reqs.all (fun q => q.status.isSome || q.due.isNone)
  let ls := if gone then m.tables.lookups.filter (·.work != l.work)
    else m.tables.lookups.map (fun k => if k.work == l.work then l else k)
  { m with tables := { m.tables with lookups := ls } }.showPicker (l.core / 8) l.picker

/-- The status a row ends with (R183). -/
def rowStatus (st : Nat) : Nat :=
  if st = stOk ∨ st = stBusyRefused ∨ st = stTierTimeout then st else stTierError

/-- A drupelet request waits for the refresh of its heat, and a late one for the refresh that gives it the newer value (R211). -/
def waitsRefresh (m : Mod) (l : Lookup) (q : RowReq) : Bool :=
  match q.drup with
  | some (i, _) => match m.hotEntry i with
    | some h => (l.heat == m.heatNo || q.late) && m.refreshOpen h
    | none => false
  | none => false

/-- A request changes. -/
def putReq (m : Mod) (l : Lookup) (k : Nat) (q : RowReq) : Mod :=
  m.putLookup { l with reqs := l.reqs.zipIdx.map (fun x => if x.2 == k then q else x.1) }

/-- A row request ends: its entry and its place in a queue are free. -/
def endRow (m : Mod) (l : Lookup) (k : Nat) (st : Nat) (vals : List Val) : Mod :=
  match l.reqs[k]? with
  | none => m
  | some q =>
    let die := l.core / 96
    let m1 := (((m.leaveQueue q.addr (reqLen l q) (.row l.work k)).freeTrk die 1).countReq die st).when (st != stOk)
      (fun m => m.inc (Reg.PICK_ROW_FAIL (l.core / 8) l.picker))
    ((m1.putReq l k { q with status := some st, vals := vals }).ladleResume die).admitRows

/-- Where a drupelet request is served when its copy is not valid by then: another slot whose copy is, else the home
(R211). -/
def rechoose (m : Mod) (l : Lookup) (q : RowReq) : RowReq × Mod :=
  match q.drup with
  | none => (q, m)
  | some (i, s) =>
    match m.hotFor q.table q.row with
    | none => (q, m)
    | some (i', h) =>
      let copy := l.heat % 2
      if i' ≠ i ∨ h.valid.contains (2 * s + copy) = true then (q, m)
      else match m.nearestDrup (l.core / 96) copy false h with
        | some s' => ({ q with drup := some (i, s'), addr := hmDrup h.entry s' + copy * tdStride (reqEntry l q) }, m)
        | none => ({ q with drup := none, addr := (m.rowHome (reqEntry l q) q.table q.row l.heat).1 },
            m.inc Reg.MEM_HOT_HOME_READ)

/-- A request is served at its address with what came back for it, or waits for that there. -/
def serveRow (mem : Memory) (m : Mod) (l : Lookup) (k : Nat) (q : RowReq) (ans : Option Answer) : Mod :=
  let e := reqEntry l q
  match m.tierAns mem q.addr (reqLen l q) ans with
  | (.waiting, m1) => m1.putReq l k q
  | (.done st bytes, m1) =>
    let s := rowStatus st
    m1.endRow { l with reqs := l.reqs.zipIdx.map (fun x => if x.2 == k then q else x.1) } k s
      (if s = stOk then (decodeRun (tdFormat e) 0 bytes (tdDim e)).map f32Round else List.replicate (tdDim e) .nan)

/-- The channel of a request's address serves it, in its turn; a stack that serves nothing turns it away at once. -/
def servedHere (m : Mod) (l : Lookup) (k : Nat) (q : RowReq) : Option Mod :=
  if m.reach q.addr true ≠ stOk then some m else m.serve q.addr (reqLen l q) (.row l.work k)

/-- A request that has been issued goes where its row is now: to be served, or to be held while its row moves (R211, R217,
R218). A request that leaves an old home here is counted as forwarded. -/
def routeRow (mem : Memory) (m : Mod) (l : Lookup) (k : Nat) (q : RowReq) (ans : Option Answer) : Mod :=
  let c := m.rechoose l q
  let route := if c.1.drup.isSome then RowRoute.serve c.1.addr false else m.rowRoute q.table q.row l.heat c.1.addr
  let left := addrModule c.1.addr == m.self
  match route with
  | .serve a fwd => (c.2.when (fwd && left) (fun m => m.inc Reg.MEM_MV_FWD)).serveRow mem l k { c.1 with addr := a } ans
  | .hold i a fwd =>
    ((c.2.when (fwd && left) (fun m => m.inc Reg.MEM_MV_FWD)).putReq l k { c.1 with addr := a }).holdMove i (.look l.work k)

/-- A row arrives for a lookup's request `k`, or its tier fails. -/
def rowLand (mem : Memory) (m : Mod) (id k : Nat) (ans : Option Answer) : Mod :=
  match m.findLookup id with
  | none => m
  | some l =>
    match l.reqs[k]? with
    | none => m
    | some q =>
      if q.status.isSome || q.due.isNone || m.waitsRefresh l q then m
      else match m.servedHere l k q with
        | none => m
        | some m1 => m1.routeRow mem l k q ans

/-- A row request has had no answer for 50 microseconds. -/
def rowTimeout (m : Mod) (id k : Nat) : Mod :=
  match m.findLookup id with
  | none => m
  | some l =>
    match l.reqs[k]? with
    | none => m
    | some q =>
      match q.status, q.due with
      | none, some t => m.expire t (fun m => m.endRow l k stTierTimeout (List.replicate (tdDim (reqEntry l q)) .nan))
      | _, _ => m

/-! ### Pooling (R178, R182) -/

/-- The row of a list position: none for padding, NaN for an index out of range. -/
def posRow (l : Lookup) (width pos : Nat) : Option (List Val) :=
  if l.idx.getD pos 0 = padIndex then none
  else if l.oor.contains pos then some (List.replicate width .nan)
  else
    let part := fun p => ((l.reqs.find? (fun q => q.pos == pos && q.part == p)).map (·.vals)).getD []
    if tdStored l.entry then some (part 0)
    else if pkSplit l.block || tdMode l.entry == 4 then some (part 1 ++ part 2)
    else some (((part 1).zip (part 2)).map (fun p => if tdMode l.entry = 2 then f32Mul p.1 p.2 else f32Add p.1 p.2))

/-- The result of a bag. -/
def bagOut (l : Lookup) (width b : Nat) : List Val :=
  let g := pkG l.block
  let xs := (List.range g).map (fun j => posRow l width (b * g + j))
  let col := fun k => xs.map (fun x => x.map (fun r => r.getD k valZero))
  let present := (xs.filter Option.isSome).length
  (List.range width).map (fun k =>
    let c := col k
    if pkSplit l.block || pkPool l.block == 0 then (c.head?.join).getD valZero
    else if pkPool l.block = 1 then treeSum (c.map (fun x => x.getD valZero))
    else if pkPool l.block = 2 then
      if present = 0 then valZero else f32Div (treeSum (c.map (fun x => x.getD valZero))) (valInt present)
    else if pkPool l.block = 3 then
      treeSum (c.zipIdx.map (fun x => match x.1 with
        | some v => f32Mul (f32Of (l.wgt.getD (b * g + x.2) 0)) v
        | none => valZero))
    else if present = 0 then valZero
    else treeMax (c.map (fun x => x.getD (.inf true))))

/-- The output operand of a lookup. -/
def pkDest (l : Lookup) : Operand :=
  let o := pkD l.block
  { fmt := cvFmt (pkConv l.block), t := opT o, tiled := opSpace o == 2
    at_ := spaceCell l.core (opSpace o) + 64 * opBase o, pitch := opPitch o }

/-- Output width of a lookup in progress. -/
def lookupWidth (l : Lookup) : Nat :=
  if pkSplit l.block || tdMode l.entry == 4 then tdDim l.entryA + tdDim l.entryB else tdDim l.entry

/-- The conversion context of a lookup's output. -/
def lookupCtx (m : Mod) (l : Lookup) : ConvCtx :=
  let w := (m.findWork l.work)
  { spec := pkConv l.block, gbase := pkGBase l.block, gpitch := pkGPitch l.block
    step := (w.map (·.step)).getD 0, mb := (w.map (·.mb)).getD 0, seed := m.seed }

/-- One output row in place, for an operand that is not transposed. -/
def putRow (w : Writing) (o : Operand) (x : ConvCtx) (r width : Nat) (vals : List Val) : Writing :=
  (o.runs r width).foldl (fun w k =>
    w.convPut x.spec k.1 ((vals.drop k.2.1).take k.2.2) ((List.range k.2.2).map (fun j => x.mode r (k.2.1 + j)))) w

/-- A bag whose rows have all landed or failed is pooled and written; a transposed output, whose stored rows cross the
bags, is written with the last of them. The pickers of a halted die hold their state (R370). -/
def bagPool (mem : Memory) (m : Mod) (id b : Nat) : Memory × Mod :=
  match m.findLookup id with
  | none => (mem, m)
  | some l =>
    let g := pkG l.block
    let waits := l.reqs.any (fun q => decide (b * g ≤ q.pos ∧ q.pos < b * g + g) && q.status.isNone)
    if m.dieHalted (l.core / 96) || (m.findWork id).isNone || decide (pkBags l.block ≤ b) || l.pooled.any (fun p => p.1 == b) || waits then (mem, m)
    else
      let width := lookupWidth l
      let out := bagOut l width b
      let pooled := l.pooled ++ [(b, out)]
      let x := m.lookupCtx l
      let w0 : Writing := { mem := mem, m := m }
      let wr :=
        if (pkDest l).t then
          if pooled.length = pkBags l.block then
            w0.grid (pkDest l) x (pkBags l.block) width
              ((List.range (pkBags l.block)).map (fun r => ((pooled.find? (fun p => p.1 == r)).map (·.2)).getD []))
          else w0
        else putRow w0 (pkDest l) x b width out
      let m1 := wr.m.account (.die (l.core / 96)) (pkWatch l.block) x.step wr.tally
      (wr.mem, m1.putLookup { l with pooled := pooled, denied := l.denied || wr.denied })

/-! ### Completion (R183, R184) -/

/-- The status of the first index that met one, in list order. -/
def lookupStatus (l : Lookup) : Nat :=
  let bad := (List.range l.idx.length).findSome? (fun pos =>
    if l.oor.contains pos then some stMalformed
    else (l.reqs.find? (fun q => q.pos == pos && q.status != some stOk)).bind (·.status))
  bad.getD (if l.denied then stAccessDenied else stOk)

/-- The status record (Table 9.5). -/
def lookupRecord (l : Lookup) : List Byte :=
  let failed := (l.reqs.filter (fun q => q.status != some stOk)).length
  leBytes 2 (if tdStored l.entry then tdVersion l.entry else tdVersion l.entryA) ++
    leBytes 2 (if tdStored l.entry then 0 else tdVersion l.entryB) ++ leBytes 4 failed ++ leBytes 4 l.oor.length ++
    leBytes 4 l.padding

/-- A lookup whose bags are all written leaves its status record and completes; a record that is dropped is a dropped output
write (R51, R183); not on a halted die (R370). -/
def lookupDone (mem : Memory) (m : Mod) (id : Nat) : Memory × Mod :=
  match m.findLookup id, m.findWork id with
  | some l, some _ =>
    if l.pooled.length = pkBags l.block ∧ m.dieHalted (l.core / 96) = false then
      let r := m.store mem false (listCell l.core (pkStat l.block)) (lookupRecord l)
      let m1 := (r.2.1.endWork id (lookupStatus { l with denied := l.denied || r.2.2 })).putLookup l
      (r.1, m1.inc (Reg.PICK_LOOKUPS (l.core / 8) l.picker))
    else (mem, m)
  | _, _ => (mem, m)

/-! ### Drupelet refresh (R210) -/

/-- A copy of a slot becomes valid or not. -/
def hotMark (h : HotEntry) (key : Nat) (ok : Bool) : HotEntry :=
  { h with valid := if ok then key :: h.valid.filter (· != key) else h.valid.filter (· != key) }

/-- A refresh has failed, at a slot: it counts once, whatever slots it failed at (log entry 118). -/
def drupFail (m : Mod) (h : HotEntry) (s st : Nat) : Mod :=
  (m.inc Reg.MEM_HOT_REFRESH_FAIL).postModule 0x08A
    (leBytes 7 (rowKey (hmTable h.entry) (hmRow h.entry)) ++ leBytes 1 s ++ leBytes 1 st)

/-- Requests of an earlier lookup still unserved when the refresh of its copy starts are late (R211). -/
def markLate (m : Mod) (i copy : Nat) : Mod :=
  let late := fun (l : Lookup) (q : RowReq) =>
    q.status.isNone && !q.late && (q.drup.map (·.1)) == some i && l.heat % 2 == copy && decide (l.heat < m.heatNo)
  let k := m.tables.lookups.foldl (fun n l => n + (l.reqs.filter (late l)).length) 0
  let ls := m.tables.lookups.map (fun l =>
    { l with reqs := l.reqs.map (fun q => if late l q then { q with late := true } else q) })
  { m with tables := { m.tables with lookups := ls } }.addSat Reg.MEM_HOT_LATE_READ k

/-- Step 3 for one promoted row: a row that is due is read once at its home (R210). A home in tiers 0 and 1 answers at once;
one in tier 2 is asked for, and one that its row's move has not reached yet is read once it has landed. A copy whose refresh of an earlier boundary never landed is not valid. -/
def startDrup (mem : Memory) (m : Mod) (i : Nat) : Mod :=
  match m.hotEntry i with
  | none => m
  | some h0 =>
    let h := match h0.read with
      | some (n, _, _) => { (List.range 8).foldl (fun h s => hotMark h (2 * s + n % 2) false) h0 with read := none }
      | none => h0
    let m0 := m.setHot i (some h)
    match m0.dirEntry (hmTable h.entry) with
    | none => m0
    | some e =>
      if !m0.refreshOpen h || !m0.hotHomeHere h || m0.moveHolds (hmTable h.entry) (hmRow h.entry) m0.heatNo then m0
      else
        let home := (m0.rowHome e (hmTable h.entry) (hmRow h.entry) m0.heatNo).1
        let m1 := m0.markLate i (m0.heatNo % 2)
        match m1.tierRead mem home (rowBytes (tdFormat e) (tdDim e)) none with
        | (.done st bytes, m2) => m2.setHot i (some { h with read := some (m2.heatNo, st, bytes) })
        | (.waiting, m2) => m2

/-- Step 3 of a boundary window: the refresh of drupelets starts (R14, R210). -/
def startRefresh (m : Mod) (mem : Memory) : Mod := (m.tables.hot.map (·.1)).foldl (fun m i => m.startDrup mem i) m

/-- What the home read for the refresh of a boundary: in step 3, or by the answer of tier 2. -/
def drupRead (mem : Memory) (m : Mod) (h : HotEntry) (e : Nat) (rs : Replies) : Option (Nat × List Byte × Mod) :=
  let home := (m.rowHome e (hmTable h.entry) (hmRow h.entry) m.heatNo).1
  match h.read with
  | some (n, st, bytes) => if n = m.heatNo then some (st, bytes, m) else none
  | none =>
    if m.moveHolds (hmTable h.entry) (hmRow h.entry) m.heatNo then none else
    match m.tierAns mem home (rowBytes (tdFormat e) (tdDim e)) (replyFor rs home) with
    | (.done st bytes, m1) => some (st, bytes, m1)
    | (.waiting, _) => none

/-- The refresh of a promoted row at the boundary of the heat in progress: what its home read is written to the current copy
of every drupelet. A module where the row has its drupelets alone learns from the home (`rs`, under the home's address) whether
a refresh was due and how its read ended, and which copies it reached; no word under that address says that none was due. -/
def drupRefresh (mem : Memory) (m : Mod) (i : Nat) (rs : Replies) : Memory × Mod :=
  match m.hotEntry i with
  | none => (mem, m)
  | some h =>
    match m.dirEntry (hmTable h.entry) with
    | none => (mem, m)
    | some e =>
      let copy := m.heatNo % 2
      let slots := List.range (hmCount h.entry)
      if h.done = some m.heatNo then (mem, m)
      else if !m.hotHomeHere h then
        match replyFor rs (m.rowHome e (hmTable h.entry) (hmRow h.entry) m.heatNo).1 with
        | none => (mem, m.setHot i (some { h with done := some m.heatNo }))
        | some read =>
          let ok := fun (s : Nat) => answerStatus read == stOk &&
            ((replyFor rs (hmDrup h.entry s + copy * tdStride e)).map answerStatus).getD stOk == stOk
          let h' := slots.foldl (fun h s => hotMark h (2 * s + copy) (ok s)) h
          (mem, (m.markLate i copy).setHot i (some { h' with done := some m.heatNo }))
      else if !m.refreshDue h then (mem, m)
      else match m.drupRead mem h e rs with
        | none => (mem, m)
        | some (st, bytes, m1) =>
          if st ≠ stOk then
            let h' := slots.foldl (fun h s => hotMark h (2 * s + copy) false) h
            (mem, (m1.setHot i (some { h' with done := some m1.heatNo, read := none })).drupFail h 0 st)
          else
            let r := slots.foldl (fun (r : Memory × Mod × HotEntry × List (Nat × Nat)) s =>
              let a := hmDrup h.entry s + copy * tdStride e
              let w := r.2.1.tierWrite r.1 a bytes .far (some ((replyFor rs a).getD (.data [])))
              let st := w.2.2.getD stOk
              (w.1, w.2.1, hotMark r.2.2.1 (2 * s + copy) (st == stOk), if st ≠ stOk then r.2.2.2 ++ [(s, st)] else r.2.2.2))
              (mem, m1, h, [])
            let m2 := r.2.1.setHot i (some { r.2.2.1 with done := some m1.heatNo, read := none })
            (r.1, match r.2.2.2 with
              | [] => m2.inc Reg.MEM_HOT_REFRESHED
              | (s, st) :: _ => m2.drupFail h s st)

end Mod

def execPickerLookup (n p wait : Nat) (s : State) : Host.Outcome State Fault Refusal :=
  nextMem s (fun mem m => (mem, m.pickerLookup mem n p wait))
def execRowLand (id k : Nat) (ans : Option Answer) (s : State) : Host.Outcome State Fault Refusal :=
  nextMem s (fun mem m => (mem, m.rowLand mem id k ans))
def execCreditReclaim (ch src : Nat) (s : State) : Host.Outcome State Fault Refusal :=
  nextMod s (fun m => (m.reclaimCredit ch src).admitRows)
def execPickerRowTimeout (id k : Nat) (s : State) : Host.Outcome State Fault Refusal :=
  nextMod s (fun m => m.rowTimeout id k)
def execBagPool (id b : Nat) (s : State) : Host.Outcome State Fault Refusal :=
  nextMem s (fun mem m => m.bagPool mem id b)
def execLookupComplete (id : Nat) (s : State) : Host.Outcome State Fault Refusal :=
  nextMem s (fun mem m => m.lookupDone mem id)
def execSketchDecay (s : State) : Host.Outcome State Fault Refusal := nextMod s (fun m => m.sketchDecay)
def execDrupeletRefresh (i : Nat) (rs : Replies) (s : State) : Host.Outcome State Fault Refusal :=
  nextMem s (fun mem m => m.drupRefresh mem i rs)

end Sys2Proof.Machine
end

