-- ==== Sys2Proof/Machine/Contribution.lean ====
section
/-!
DEFINITION. Sparse contributions (R194 to R206 of 10_sparse_updates_and_hot_rows.md): the contribution block, its
check, its rows on their way, and its completion.
-/

namespace Sys2Proof.Machine

open Sys2Proof

/-! ### The contribution block (Table 10.2), as a number of 512 bits -/

def ccDest (b : Nat) : Nat := bitsOf b 511 448
def ccDPitch (b : Nat) : Nat := bitsOf b 447 416
def ccS (b : Nat) : Nat := bitsOf b 415 376
def ccIdx (b : Nat) : Nat := bitsOf b 375 356
def ccWgt (b : Nat) : Nat := bitsOf b 355 336
def ccStat (b : Nat) : Nat := bitsOf b 335 316
def ccRows (b : Nat) : Nat := bitsOf b 315 300 + 1
def ccCols (b : Nat) : Nat := bitsOf b 299 284 + 1
def ccG (b : Nat) : Nat := bitsOf b 283 276 + 1
def ccTable (b : Nat) : Nat := bitsOf b 275 264
def ccVersion (b : Nat) : Nat := bitsOf b 263 248
def ccSite (b : Nat) : Nat := bitsOf b 247 239
def ccPart (b : Nat) : Nat := bitsOf b 238 237
def ccFmt (b : Nat) : Nat := bitsOf b 236 233
def ccOrdered (b : Nat) : Bool := bitOf b 232
def ccKind (b : Nat) : Nat := bitsOf b 231 230

namespace Mod

/-- Directory index of the table that rows go to: the table named, or the part of a composed one. -/
def ccTarget (m : Mod) (b : Nat) : Nat :=
  match m.dirEntry (ccTable b) with
  | some e => if ccPart b = 1 then tdPartA e else if ccPart b = 2 then tdPartB e else ccTable b
  | none => ccTable b

/-- Its entry. -/
def ccEntry (m : Mod) (b : Nat) : Nat := (m.dirEntry (m.ccTarget b)).getD 0

/-- The named table is of the sparse class. -/
def ccSparse (m : Mod) (b : Nat) : Bool := match m.dirEntry (ccTable b) with | some e => tdSparse e | none => false

/-- Reserved fields, and fields that are zero for the kind (code 1). -/
def ccReservedOk (m : Mod) (b : Nat) : Bool :=
  bitsOf b 229 0 == 0 && bitsOf (ccS b) 20 18 == 0 &&
    (if ccKind b = 1 then
      ccIdx b == 0 && ccG b == 1 && ccTable b == 0 && ccVersion b == 0 && ccPart b == 0 && ccWgt b == 3 * 2 ^ 18
    else if ccKind b = 2 then
      ccDPitch b == 0 && ccCols b == 1 &&
        (match m.dirEntry (ccTable b) with
        | some e => if tdSparse e then ccDest b == 0 else ccVersion b == 0
        | none => true)
    else true)

/-- The kind and its table (code 2). -/
def ccKindOk (m : Mod) (b : Nat) : Bool :=
  if ccKind b = 1 then true
  else if ccKind b = 2 then
    ccPart b != 3 && (match m.dirEntry (ccTable b) with
      | some e => tdStored e == (ccPart b == 0)
      | none => false)
  else false

def ccFormatOk (b : Nat) : Bool :=
  crPairOk (ccFmt b) (opFmt (ccS b)) && (ccKind b != 2 || ccFmt b == 1) && !opT (ccS b)

/-- Columns of a source row. -/
def ccWidth (m : Mod) (b : Nat) : Nat := if ccKind b = 1 then ccCols b else tdDim (m.ccEntry b)

def ccSizeOk (m : Mod) (b : Nat) : Bool :=
  opPitch (ccS b) != 0 && (ccKind b != 1 || ccDPitch b != 0) &&
    (ccKind b != 2 || decide (m.ccWidth b * crBytes (opFmt (ccS b)) ≤ 64 * opPitch (ccS b)))

/-- Bytes of the destination region: of an ADDRESS, or of a dense-class buffer. -/
def ccDestBytes (m : Mod) (b : Nat) : Nat :=
  if ccKind b = 1 then ((ccRows b - 1) * ccDPitch b + ccCols b) * crBytes (ccFmt b)
  else tdRows (m.ccEntry b) * 4 * m.ccWidth b

/-- The destination as far as the sender checks it (R195, R196). -/
def ccDestOk (m : Mod) (b : Nat) : Bool :=
  let len := m.ccDestBytes b
  let inOne := inTier01 (ccDest b) len && decide (addrModule (ccDest b) = addrModule (ccDest b + len - 1))
  if ccKind b = 1 then ccDest b % crBytes (ccFmt b) == 0 && inOne
  else if m.ccSparse b then true
  else ccDest b % 4 == 0 && inOne && addrModule (ccDest b) == m.self &&
    (placeCell (placeOf m (ccDest b))).isSome && (placeCell (placeOf m (ccDest b + len - 1))).isSome

def ccRangeOk (m : Mod) (b : Nat) : Bool :=
  decide (opSpace (ccS b) ≤ 1) && rangeOk (ccS b) (opFmt (ccS b)) (ccRows b, m.ccWidth b) &&
    (ccKind b != 2 || (listOk (ccIdx b) (8 * ccRows b * ccG b) &&
      (lsSpace (ccWgt b) == 3 || listOk (ccWgt b) (4 * ccRows b * ccG b)))) &&
    listOk (ccStat b) 16 && m.ccDestOk b

/-- The first error of Table 10.4 of a contribution word and its block. -/
def contribError (m : Mod) (w b : Nat) : Nat :=
  if bitsOf w 41 0 ≠ 0 then 1
  else if 0xE0000 < 64 * bitsOf w 55 42 + 64 then 5
  else if !m.ccReservedOk b then 1
  else if !m.ccKindOk b then 2
  else if !ccFormatOk b then 3
  else if !m.ccSizeOk b then 4
  else if !m.ccRangeOk b then 5
  else 0

/-! ### Issue (R195, R196, R198, R202) -/

/-- The home of an address lies on another die than the issuing core's (R198). -/
def otherDie (m : Mod) (die a : Nat) : Bool :=
  !(addrModule a == m.self && decide (addrOffset a < tier1Base) && addrDie a == die)

/-- Bits [63:32] of the sequence of a core's contribution (Table 10.5). -/
def ccSeqHigh (n mb b : Nat) : Nat := mb % 2 ^ 16 * 2 ^ 16 + n / 8 % 12 * 2 ^ 12 + n % 8 * 2 ^ 9 + ccSite b

/-- What every row of a contribution has in common; heat and time are those of its word's issue (R33, R216). -/
def ccRow (m : Mod) (n b pos : Nat) : FarRow :=
  { table := none, row := 0, addr := 0, heat := (m.issuedWord n).heat, time := (m.issuedWord n).time, version := ccVersion b
    ordered := m.orderedMode (ccOrdered b), step := m.boundStep n % 2 ^ 32, chip := m.chip (n / 96) % 2 ^ 14
    seq := ccSeqHigh n (m.boundMb n) b * 2 ^ 32 + pos % 2 ^ 32, dfmt := ccFmt b, sfmt := opFmt (ccS b), vals := [] }

/-- The source element codes of row `r`. -/
def ccSource (mem : Memory) (m : Mod) (n b r : Nat) : List Nat :=
  let e := crBytes (opFmt (ccS b))
  let at_ := m.relocate mem n (spaceCell n (opSpace (ccS b)) + 64 * opBase (ccS b)) + r * 64 * opPitch (ccS b)
  (List.range (m.ccWidth b)).map (fun k => memNat mem (at_ + e * k) e)

/-- Rows of an ADDRESS contribution. -/
def addressRows (mem : Memory) (m : Mod) (n b : Nat) : List ContribRow :=
  (List.range (ccRows b)).map (fun r =>
    let a := ccDest b + r * ccDPitch b * crBytes (ccFmt b)
    { far := { m.ccRow n b r with addr := a, vals := m.ccSource mem n b r }, track := m.otherDie (n / 96) a })

/-- The row of list position `p`: none for padding, an empty answer where the index is out of range. -/
def tableRow (mem : Memory) (m : Mod) (n b p : Nat) : Option (Option ContribRow) :=
  let x := memNat mem (m.relocate mem n (listCell n (ccIdx b)) + 8 * p) 8
  if x = padIndex then none
  else
    let cm := tdCompM ((m.dirEntry (ccTable b)).getD 0)
    let e := m.ccEntry b
    let t := m.ccTarget b
    let key := if ccPart b = 1 then x % cm else if ccPart b = 2 then x / cm else x
    some ((mapIndex e key).map (fun row =>
      let src := (m.ccSource mem n b (p / ccG b)).map (fun c => decodeElem (opFmt (ccS b)) 0 c)
      let vs := if lsSpace (ccWgt b) = 3 then src
        else
          let w := f32Of (memNat mem (m.relocate mem n (listCell n (ccWgt b)) + 4 * p) 4)
          src.map (fun v => f32Mul w v)
      let a := if tdSparse e then (m.rowHome e t row (m.issuedWord n).heat).1 else ccDest b + row * 4 * tdDim e
      { far := { m.ccRow n b p with
          table := if tdSparse e then some t else none, row := row, addr := a, sfmt := 1, dfmt := 1
          vals := vs.map f32Enc }
        track := m.otherDie (n / 96) a, norm := some t }))

/-- A row for a module that cannot be reached ends at its request (R195). -/
def checkRow (m : Mod) (r : ContribRow) : ContribRow :=
  if addrModule r.far.addr = m.self || m.moduleReachable (addrModule r.far.addr) then r
  else { r with track := false, outcome := some stTierError }

/-- A checked contribution starts on a picker. -/
def runContribution (mem : Memory) (m : Mod) (n p wait w pos b : Nat) : Mod :=
  let all := if ccKind b = 1 then (m.addressRows mem n b).map (fun r => some (some r))
    else (List.range (ccRows b * ccG b)).map (fun k => m.tableRow mem n b k)
  let rows := (all.filterMap (fun x => x.join)).map m.checkRow
  let oor := (all.filter (fun x => x == some none)).length
  let dst := if m.ccSparse b && ccKind b == 2 then []
    else [placeSpan m (ccDest b) (m.ccDestBytes b)]
  let id := m.nextId
  let m1 := m.launch n .crucible pos w (⟨listCell n (ccStat b), 16⟩ :: dst)
  let c : Contribution := { work := id, core := n, picker := p, block := b, rows := rows, oor := oor }
  let m2 := { m1 with tables := { m1.tables with contribs := m1.tables.contribs ++ [c] } }
  let lost := (rows.filter (fun r => r.outcome.isSome)).length
  ((((((m2.addSat Reg.MEM_CR_FAIL lost).addSat (Reg.MEM_REQ_ERR (n / 96)) lost)).addSat
    (Reg.PICK_TRK_WAIT (n / 8) p) wait).addSat (Reg.MEM_TRK_WAIT (n / 96)) wait).showPicker (n / 8) p).admitRows

/-- A contribution word that its picker takes is checked and started. -/
def takeContribution (mem : Memory) (m : Mod) (n p wait w pos b : Nat) : Mod :=
  if m.contribError w b ≠ 0 then m.rejectWord n (Reg.CORE_CR_ERR n) (m.contribError w b)
  else m.runContribution mem n p wait w pos b

/-- A contribution word is taken by a picker that is free: one that is busy takes none (R198). The directory entries it names
are those of its issue. -/
def contribution (mem : Memory) (m : Mod) (n p wait : Nat) : Mod :=
  match m.issuedFor n 6 with
  | none => m
  | some (w, pos, b) =>
    if m.pickerOff (n / 8) p then m.refuseWord n
    else if m.flag (Fld.PICK_BUSY (n / 8) p) then m
    else ((m.atIssue n 0).takeContribution mem n p wait w pos b).inForce m

/-! ### Rows at their homes (R196, R199) -/

def findContrib (m : Mod) (id : Nat) : Option Contribution := m.tables.contribs.find? (·.work == id)

/-- A row of this module that has timed out may still land at its home here (R199). -/
def mayLand (m : Mod) (r : ContribRow) : Bool :=
  r.outcome == some stTierTimeout && !r.landed && r.due.isSome && addrModule r.far.addr == m.self

/-- A contribution changes; one whose work has ended goes when no row is left without an outcome, or that may land. -/
def putContrib (m : Mod) (c : Contribution) : Mod :=
  let gone := (m.findWork c.work).isNone && c.rows.all (fun r => (r.outcome.isSome || r.due.isNone) && !m.mayLand r)
  let cs := if gone then m.tables.contribs.filter (·.work != c.work)
    else m.tables.contribs.map (fun k => if k.work == c.work then c else k)
  { m with tables := { m.tables with contribs := cs } }.showPicker (c.core / 8) c.picker

/-- The statuses a row may end with. -/
def ccStatus (st : Nat) : Nat :=
  if [stOk, stVersionStale, stBusyRefused, stTierTimeout].contains st then st else stTierError

/-- Row `k` of a contribution gets its outcome. -/
def endContribRow (m : Mod) (c : Contribution) (k st : Nat) (landed : Bool) : Mod :=
  match c.rows[k]? with
  | none => m
  | some r =>
    let s := ccStatus st
    let first := r.outcome.isNone
    let m1 := m.when first (fun m => (m.when r.track (fun m => m.freeTrk (c.core / 96) 1)).countReq (c.core / 96) s)
    let m2 := m1.when (first && (s == stTierTimeout || s == stTierError)) (fun m => m.inc Reg.MEM_CR_FAIL)
    let m3 := m2.putContrib { c with rows := c.rows.zipIdx.map (fun x =>
      if x.2 == k then { x.1 with outcome := some (x.1.outcome.getD s), landed := x.1.landed || landed } else x.1) }
    (m3.ladleResume (c.core / 96)).admitRows

/-- A row of this module meets what stands at its home here: an outcome, or it goes on its way. -/
def meetHome (mem : Memory) (m : Mod) (c : Contribution) (k : Nat) (r : ContribRow) (ans : Option Answer) : Memory × Mod :=
  let x := m.homeRow mem r.far ans
  let moved := fun (far : FarRow) => { c with rows := c.rows.zipIdx.map (fun y =>
    if y.2 == k then { y.1 with landed := true, far := far } else y.1) }
  match x.2.2 with
  | .ended st => (x.1, x.2.1.endContribRow c k st true)
  | .away => (x.1, x.2.1.putContrib (moved r.far))
  | .held i a => (x.1, (x.2.1.putContrib (moved { r.far with addr := a })).holdMove i (.own c.work k))

/-- Cells that a row goes to. -/
def rowSpan (m : Mod) (r : ContribRow) : Span := placeSpan m r.far.addr (r.far.vals.length * crBytes r.far.dfmt)

/-- An earlier row of the contribution for a line of row `k` has not reached it (R247). -/
def rowBehind (m : Mod) (c : Contribution) (k : Nat) (r : ContribRow) : Bool :=
  let lines := fun (s : Span) => (⟨s.addr / 64, (s.addr + s.len + 63) / 64 - s.addr / 64⟩ : Span)
  c.rows.zipIdx.any (fun x => decide (x.2 < k) && !x.1.landed && x.1.outcome.isNone &&
    overlaps (lines (m.rowSpan x.1)) (lines (m.rowSpan r)))

/-- A row of this module that has been issued reaches a home on this module, at the latest once, in its turn at the
channel; a row that has timed out may still land. Rows of one contribution reach one line in issue order, whatever tier
holds it (R247). -/
def ownRow (mem : Memory) (m : Mod) (id k : Nat) (ans : Option Answer) : Memory × Mod :=
  match m.findContrib id with
  | none => (mem, m)
  | some c =>
    match c.rows[k]? with
    | none => (mem, m)
    | some r =>
      if r.landed || r.due.isNone || addrModule r.far.addr != m.self || m.rowBehind c k r then (mem, m)
      else
        let len := r.far.vals.length * crBytes r.far.dfmt
        let turn := if m.reach r.far.addr false ≠ stOk then some (m.leaveQueue r.far.addr len (.contrib id k))
          else m.serve r.far.addr len (.contrib id k)
        match turn with
        | none => (mem, m)
        | some m1 => m1.meetHome mem c k r ans

/-- A row of another module meets what stands at its home here; its module is told how it ended. -/
def meetFar (mem : Memory) (m : Mod) (src : Nat) (r : FarRow) (ans : Option Answer) : Memory × Mod :=
  let x := m.homeRow mem r ans
  match x.2.2 with
  | .ended st => (x.1, x.2.1.emit (.ack src st r))
  | .away => (x.1, x.2.1)
  | .held i a => (x.1, x.2.1.holdMove i (.far src { r with addr := a }))

/-- A contribution row's standing moves on. -/
def contribRow (mem : Memory) (m : Mod) (x : ContribCase) : Memory × Mod :=
  match x with
  | .own id k ans => m.ownRow mem id k ans
  | .ack id k st =>
    (mem, match m.findContrib id with
      | some c => match c.rows[k]? with
        | some r => if r.outcome.isNone && r.due.isSome && (r.landed || addrModule r.far.addr != m.self) then
            m.endContribRow c k st true
          else m
        | none => m
      | none => m)
  | .arrive src r ans => m.meetFar mem src r ans

/-- A row has had no acknowledgement for 50 microseconds. -/
def contribTimeout (m : Mod) (id k : Nat) : Mod :=
  match m.findContrib id with
  | some c => match c.rows[k]? with
    | some r => match r.outcome, r.due with
      | none, some t => m.expire t (fun m => m.endContribRow c k stTierTimeout false)
      | _, _ => m
    | none => m
  | none => m

/-! ### Completion (R199) -/

/-- The first of the statuses of R199 that a row met. -/
def contribStatus (c : Contribution) : Nat :=
  let met := fun st => c.rows.any (fun r => r.outcome == some st)
  if met stTierError then stTierError
  else if met stTierTimeout then stTierTimeout
  else if met stVersionStale then stVersionStale
  else if met stBusyRefused then stBusyRefused
  else if c.oor ≠ 0 then stMalformed
  else stOk

/-- The status record (Table 10.3). -/
def contribRecord (c : Contribution) : List Byte :=
  let cnt := fun (sts : List Nat) => (c.rows.filter (fun r => (r.outcome.map (sts.contains ·)).getD false)).length
  leBytes 4 (cnt [stOk]) ++ leBytes 4 (cnt [stVersionStale]) ++ leBytes 4 (cnt [stBusyRefused]) ++
    leBytes 2 (min (cnt [stTierTimeout, stTierError]) 65535) ++ leBytes 2 (min c.oor 65535)

/-- A contribution every row of which has an outcome leaves its status record and completes: with ACCESS_DENIED where the
record was dropped and nothing else went wrong (R51). -/
def contribDone (mem : Memory) (m : Mod) (id : Nat) : Memory × Mod :=
  match m.findContrib id, m.findWork id with
  | some c, some _ =>
    if c.rows.all (fun r => r.outcome.isSome) then
      let r := m.store mem false (listCell c.core (ccStat c.block)) (contribRecord c)
      let st := if contribStatus c = stOk ∧ r.2.2 = true then stAccessDenied else contribStatus c
      (r.1, ((r.2.1.endWork id st).putContrib c).inc (Reg.CORE_CR_OPS c.core))
    else (mem, m)
  | _, _ => (mem, m)

end Mod

def execContribution (n p wait : Nat) (s : State) : Host.Outcome State Fault Refusal :=
  nextMem s (fun mem m => (mem, m.contribution mem n p wait))
def execContributionRow (x : ContribCase) (s : State) : Host.Outcome State Fault Refusal :=
  nextMem s (fun mem m => m.contribRow mem x)
def execContributionRowTimeout (id k : Nat) (s : State) : Host.Outcome State Fault Refusal :=
  nextMod s (fun m => m.contribTimeout id k)
def execContributionComplete (id : Nat) (s : State) : Host.Outcome State Fault Refusal :=
  nextMem s (fun mem m => m.contribDone mem id)

end Sys2Proof.Machine
end

