-- ==== Sys2Proof/Machine/Optimiser.lean ====
section
/-!
DEFINITION. The optimiser (08_parameter_state.md): the apply block, the norm check, the dense apply with its audit, and
the ledger drain.
-/

namespace Sys2Proof.Machine

open Sys2Proof

/-! ### The apply block (Table 8.2), as a number of 512 bits -/

def abState (b : Nat) : Nat := bitsOf b 511 448
def abGrad (b : Nat) : Nat := bitsOf b 447 384
def abWork (b : Nat) : Nat := bitsOf b 383 320
def abGidx (b : Nat) : Nat := bitsOf b 319 256
def abCount (b : Nat) : Nat := bitsOf b 255 224
def abConv (b : Nat) : Nat := bitsOf b 223 192
def abPurpose (b : Nat) : Nat := bitsOf b 191 176
def abBucket (b : Nat) : Nat := bitsOf b 175 160
def abWatch (b : Nat) : Nat := bitsOf b 159 150
def abRule (b : Nat) : Nat := bitsOf b 149 142
def abKind (b : Nat) : Nat := bitsOf b 141 140
def abLedger (b : Nat) : Nat := bitsOf b 139 134

/-- Rules whose class is sparse (Table 8.4). -/
def ruleSparse (r : RuleVals) : Bool := r.rule == 3 || r.rule == 4

/-- Moments a rule uses. -/
def ruleMoments (r : RuleVals) : Nat := if r.rule = 1 then 1 else if r.rule = 2 then 2 else 0

/-- p to the power t by squaring, every product rounded (R158); `k` bounds the squarings. -/
def powBits : Nat → Val → Val → Nat → Val
  | 0, p, _, _ => p
  | k + 1, p, b, t => if t = 0 then p else powBits k (if t % 2 = 1 then f32Mul p b else p) (f32Mul b b) (t / 2)

/-- 2^-le as a value. -/
def scaleVal (le : Nat) : Val := .fin false 1 (-(le : Int))

/-- What a dense update leaves of one element: master and moments (R158). -/
structure Elem where
  w : Val
  m : Val
  v : Val

/-- The constants of a dense apply, rounded once per apply. -/
structure DenseConst where
  rule : Nat
  eta : Val
  lambda : Val
  beta1 : Val
  beta2 : Val
  eps : Val
  om1 : Val
  om2 : Val
  c1 : Val
  c2 : Val

def denseConst (r : RuleVals) (s : Nat) : DenseConst :=
  let t := (s + (2 ^ 32 - r.step0 % 2 ^ 32)) % 2 ^ 32 + 1
  let b1 := f32Of r.beta1
  let b2 := f32Of r.beta2
  { rule := r.rule, eta := f32Of r.eta, lambda := f32Of r.lambda, beta1 := b1, beta2 := b2, eps := f32Of r.eps
    om1 := f32Sub valOne b1, om2 := f32Sub valOne b2
    c1 := f32Div valOne (f32Sub valOne (powBits 33 valOne b1 t))
    c2 := f32Div valOne (f32Sub valOne (powBits 33 valOne b2 t)) }

/-- The update of one element by its scaled gradient (R158). -/
def denseElem (c : DenseConst) (x : Elem) (g : Val) : Elem :=
  if c.rule = 1 then
    let m := f32Fma c.beta1 x.m g
    { x with m := m, w := f32Fma c.eta.neg (f32Fma c.lambda x.w m) x.w }
  else if c.rule = 2 then
    let m := f32Fma c.beta1 x.m (f32Mul c.om1 g)
    let v := f32Fma c.beta2 x.v (f32Mul (f32Mul c.om2 g) g)
    let u := f32Div (f32Mul m c.c1) (f32Add (f32Sqrt (f32Mul v c.c2)) c.eps)
    { w := f32Fma c.eta.neg (f32Fma c.lambda x.w u) x.w, m := m, v := v }
  else { x with w := f32Fma c.eta.neg (f32Fma c.lambda x.w g) x.w }

/-- A checked outcome of R160: the status, N, LE of the step, and whether a reduction ended without its norm. -/
structure NormOut where
  status : Nat
  n : Nat
  le : Nat
  failed : Bool := false

namespace Mod

def ruleOf (m : Mod) (k : Nat) : RuleVals := tabGet (fun _ => {}) m.tables.rules k

/-! ### The checks at issue (Table 8.3) -/

/-- A region lies wholly in one mapped tier, 0 or 1, of this module. -/
def regionHere (m : Mod) (a len : Nat) : Bool :=
  addrModule a == m.self && inTier01 a len &&
    (match placeCell (placeOf m a), placeCell (placeOf m (a + len - 1)) with
    | some c, some c' => isTierCell c && isTierCell c' && c' == c + len - 1
    | _, _ => false)

/-- Reserved fields and fields that are zero for the kind. -/
def abReservedOk (m : Mod) (b : Nat) : Bool :=
  bitsOf b 133 0 == 0 &&
    (if abKind b = 1 then abPurpose b == 0 && abLedger b == 0
    else if abKind b = 2 then
      abGrad b == 0 && abWork b == 0 && abGidx b == 0 && abCount b == 0 && abBucket b == 0 &&
        ((m.ruleOf (abRule b)).rule != 3 || (abState b == 0 && abPurpose b == 0))
    else true)

def abKindOk (m : Mod) (b : Nat) : Bool :=
  (abKind b == 1 && !ruleSparse (m.ruleOf (abRule b))) || (abKind b == 2 && ruleSparse (m.ruleOf (abRule b)))

/-- Directory entry of the table a drain's slot serves. -/
def drainEntry (m : Mod) (b : Nat) : Option Nat := m.dirEntry (m.lgTable (abLedger b))

def abFormatOk (m : Mod) (b : Nat) : Bool :=
  let f := cvFmt (abConv b)
  cvOk (abConv b) &&
    (if abKind b = 1 then (f == 2 || f == 5 || f == 9) && (f != 9 || cvFit (abConv b))
    else cvRound (abConv b) == 2 &&
      (!m.lgOn (abLedger b) || (match m.drainEntry b with | some e => f == tdFormat e | none => true)))

/-- The row-state array of a drain, one value per row of the table its slot serves, lies in a memory that may hold the
table's rows: a mapped tier 0, 1 or 2 of this module (Table 8.1, R242). -/
def stateHere (m : Mod) (b : Nat) : Bool :=
  let rows := if m.lgOn (abLedger b) then (match m.drainEntry b with
      | some e => if tdStored e && tdSparse e then max 1 (tdRows e) else 1
      | none => 1) else 1
  let a := abState b
  m.regionHere a (2 * rows) ||
    (addrModule a == m.self && isTier2Offset (addrOffset a) && isTier2Offset (addrOffset a + 2 * rows - 1) &&
      decide (addrOffset a + 2 * rows ≤ 2 ^ 51))

def abRangeOk (m : Mod) (b : Nat) : Bool :=
  if abKind b = 1 then
    let n := abCount b
    let f := cvFmt (abConv b)
    n != 0 && m.regionHere (abState b) (4 * n * (1 + ruleMoments (m.ruleOf (abRule b)))) &&
      m.regionHere (abGrad b) (4 * n) && m.regionHere (abWork b) (rowBytes f n) && (f != 9 || abGidx b % 32 == 0)
  else (m.ruleOf (abRule b)).rule != 4 || m.stateHere b

def abLedgerOk (m : Mod) (b : Nat) : Bool :=
  abKind b != 2 || (m.lgOn (abLedger b) && (match m.drainEntry b with
    | some e => tdStored e && tdSparse e
    | none => false))

/-- The first error of Table 8.3 of an apply word and its block. -/
def applyError (m : Mod) (w b : Nat) : Nat :=
  if bitsOf w 41 0 ≠ 0 then 1
  else if 0xE0000 < 64 * bitsOf w 55 42 + 64 then 4
  else if !m.abReservedOk b then 1
  else if !m.abKindOk b then 2
  else if !m.abFormatOk b then 3
  else if !m.abRangeOk b then 4
  else if !m.abLedgerOk b then 5
  else 0

/-! ### The norm check (R160, Table 8.5) -/

/-- sqrt of a sum of squares times 2^-LE, in binary32. -/
def normOf (norm2 le : Nat) : Val := f32Mul (f32Sqrt (f32Of norm2)) (scaleVal le)

/-- How the instance that forms a bucket's norm ended. -/
def bucketRes (m : Mod) (bucket s : Nat) : Option BucketRes :=
  m.col.results.find? (fun r => r.bucket == bucket && r.step == s % 2 ^ 32)

def closeRes (m : Mod) (s : Nat) : Option CloseRes := m.col.closes.find? (fun c => c.step == s % 2 ^ 32)

/-- What one formed norm and its limit give. -/
def normStatus (v : Val) (limit : Nat) : Nat :=
  if !v.isFinite then stNonfiniteSkipped else if (f32Of limit).lt v then stNormLimit else stOk

/-- The outcome for a needed list of norms (how each ended, its sum of squares, its limit): the first that fails by the
order of Table 8.5. -/
def normOutcome (le : Nat) (needs : List (Nat × Nat × Nat)) : Nat :=
  match needs.find? (fun x => x.1 != stOk) with
  | some x => x.1
  | none =>
    let sts := needs.map (fun x => normStatus (normOf x.2.1 le) x.2.2)
    if sts.contains stNonfiniteSkipped then stNonfiniteSkipped
    else if sts.contains stNormLimit then stNormLimit else stOk

/-- The global norm, where the rule's limit asks for it: none while it is not formed. -/
def globalNeed (m : Mod) (r : RuleVals) (s : Nat) : Option (List (Nat × Nat × Nat)) :=
  if f32Of r.glimit = .inf false then some []
  else (m.closeRes s).map (fun c => [(c.status, c.gnorm2, r.glimit)])

/-- Some needed norm's reduction ended without it. -/
def normMissing (needs : List (Nat × Nat × Nat)) : Bool := needs.any (fun x => x.1 != stOk)

/-- The check of a dense apply: none while a verdict, the step's LE or a norm is awaited. -/
def denseCheck (m : Mod) (b : Nat) (r : RuleVals) (s : Nat) : Option NormOut :=
  let le := (m.leOf s).getD 0
  let verdict := if m.flag Fld.NUM_GUARD_EN then (m.verdictOf s).map (fun v => (v.skip, v.ended)) else some (false, stOk)
  let bucket := m.bucketRes (abBucket b) s
  let n := match bucket with | some x => f32Enc (normOf x.norm2 le) | none => 0
  if (m.leOf s).isNone then none else
  match verdict with
  | none => none
  | some (true, ended) => some ⟨if ended = stOk then stNonfiniteSkipped else ended, n, le, ended != stOk⟩
  | some (false, _) =>
    match bucket, m.globalNeed r s with
    | some x, some g =>
      let needs := (x.status, x.norm2, r.limit) :: g
      some ⟨normOutcome le needs, n, le, normMissing needs⟩
    | _, _ => none

/-- The check of a drain for one step: none while the step's LE or a norm is awaited; a table that no slot names has no
norm. -/
def drainCheck (m : Mod) (table : Nat) (r : RuleVals) (s : Nat) : Option NormOut :=
  let le := (m.leOf s).getD 0
  let own := match m.normSlot table with
    | none => some []
    | some _ => (m.closeRes s).map (fun c =>
        if c.status ≠ stOk then [(c.status, 0, r.limit)]
        else match c.tables.find? (fun t => t.1 == table) with
          | some t => [(stOk, t.2, r.limit)]
          | none => [])
  if (m.leOf s).isNone then none else
  match own, m.globalNeed r s with
  | some o, some g =>
    some ⟨normOutcome le (o ++ g), (match o with | x :: _ => f32Enc (normOf x.2.1 le) | [] => 0), le, normMissing (o ++ g)⟩
  | _, _ => none

/-- A suppression is counted, and reported once per bucket or table and step. -/
def suppressed (m : Mod) (kind index s : Nat) (o : NormOut) : Mod :=
  let m1 := if o.status = stNonfiniteSkipped then m.inc Reg.MEM_OPT_NONFINITE
    else if o.status = stNormLimit then m.inc Reg.MEM_OPT_NORMLIM else m
  if m1.tables.suppressed.contains (kind, index, s) then m1
  else
    { m1 with tables := { m1.tables with suppressed := (kind, index, s) :: m1.tables.suppressed } }.postModule 0x083
      (leBytes 4 s ++ leBytes 4 o.n ++ leBytes 1 o.status ++ leBytes 1 kind ++ leBytes 2 index)

/-! ### Issue -/

/-- An apply word is taken: checked, refused under R5, or put into flight, with the rule its slot held at the word's issue. -/
def takeApply (m : Mod) (n kind w pos b : Nat) : Mod :=
    if (abKind b == 2) != (kind == 2) then m
    else if m.applyError w b ≠ 0 then m.rejectWord n (Reg.CORE_OPT_ERR n) (m.applyError w b)
    else if kind = 2 ∧ m.lgDelay (abLedger b) ≠ 0 ∧ !m.capacityProfile then m.refuseWord n
    else
      let cells := fun (a len : Nat) => (⟨(placeCell (placeOf m a)).getD 0, len⟩ : Span)
      let dst := if kind = 1 then
          [cells (abState b) (4 * abCount b * (1 + ruleMoments (m.ruleOf (abRule b)))),
            cells (abWork b) (rowBytes (cvFmt (abConv b)) (abCount b))]
        else []
      let m1 := m.launch n .optimiser pos w dst
      let o : OptWork := { work := m.nextId, core := n, block := b, rule := m.ruleOf (abRule b), heat := (m.issuedWord n).heat }
      let m2 := { m1 with tables := { m1.tables with applies := m1.tables.applies ++ [o] } }
      if kind = 2 then
        let k := abLedger b
        let last := (m.boundStep n + (2 ^ 32 - m.lgDelay k)) % 2 ^ 32
        (m2.setLg k { drained := some last, stateBase := if o.rule.rule = 4 then some (abState b) else none }).wrN
          (Reg.MEM_LG_DRAINED k) last
      else m2

/-- The optimiser takes the apply word of a core. -/
def applyIssue (m : Mod) (n kind : Nat) : Mod :=
  match m.issuedFor n 7 with
  | none => m
  | some (w, pos, b) => ((m.atIssue n (abRule b)).takeApply n kind w pos b).inForce m

/-- Applies of a core in progress, of a kind, whose work has not been cancelled. -/
def coreApplies (m : Mod) (n kind : Nat) : List OptWork :=
  m.tables.applies.filter (fun o => o.core == n && abKind o.block == kind && (m.findWork o.work).isSome)

/-- An apply leaves: its work is over. -/
def dropApply (m : Mod) (id : Nat) : Mod :=
  { m with tables := { m.tables with applies := m.tables.applies.filter (·.work != id) } }

/-- Change an apply in progress. -/
def modApply (m : Mod) (id : Nat) (f : OptWork → OptWork) : Mod :=
  { m with tables := { m.tables with applies := m.tables.applies.map (fun o => if o.work == id then f o else o) } }

/-- An apply waits on a verdict: its own step's, or the one that gives LE to the step it needs (R114, R115, Table 5.9). -/
def awaitsVerdict (m : Mod) (o : OptWork) : Bool :=
  match m.findWork o.work with
  | none => false
  | some w =>
    if abKind o.block = 1 then
      (m.flag Fld.NUM_GUARD_EN && (m.verdictOf w.step).isNone) || (m.leOf w.step).isNone
    else o.waitsLe.any (fun s => (m.leOf s).isNone)

/-- What NUM_STATUS reads as: NUM_VERDICT_WAIT says that an apply or scaled work waits on a verdict (Table 5.9). -/
def numStatus (m : Mod) : Nat :=
  insBits (m.rdN Reg.NUM_STATUS) 0 0 (if m.tables.applies.any (fun o => m.awaitsVerdict o) then 1 else 0)

/-- An apply completes. -/
def endApply (m : Mod) (o : OptWork) (status : Nat) : Mod :=
  ((m.dropApply o.work).endWork o.work status).inc (Reg.CORE_OPT_OPS o.core)

/-! ### The dense apply (R158, R159, R161) -/

/-- Values of binary32 from a cell on. -/
def readVals (mem : Memory) (c n : Nat) : List Val := (List.range n).map (fun i => f32Of (memNat mem (c + 4 * i) 4))

/-- Group `g` of 32 elements of a shard, encoded from the master with the apply's own draws, and the bytes of the working
copy as read back (R161). -/
def auditGroup (mem : Memory) (m : Mod) (o : OptWork) (w : Work) (g : Nat) : List Byte × List Byte :=
  let b := o.block
  let conv := abConv b
  let at_ := fun a => (placeCell (placeOf m a)).getD 0
  let n := min 32 (abCount b - 32 * g)
  let cell := at_ (abWork b) + g * rowBytes (cvFmt conv) 32
  let back := memRead mem cell (rowBytes (cvFmt conv) n)
  let modes := (List.range n).map (fun i => cvMode conv (drawAt m.seed w.step (cvPurpose conv) w.mb (abGidx b + 32 * g + i)))
  ((convRun conv (readVals mem (at_ (abState b) + 128 * g) n) modes back cell).1, back)

/-- A group of an apply is audited (R161): the draw decides, the data never. The group is encoded again and compared with
what the memory gives back; `drift` says that the memory gave other bits back than it holds. -/
def audit (mem : Memory) (m : Mod) (o : OptWork) (w : Work) (drift : Bool) : Mod :=
  let k := m.rdN Reg.MEM_OPT_AUDIT_LOG2
  if k = 0 then m
  else
    let r := m.takeFree
    if r.1 % 2 ^ k ≠ 0 then r.2
    else
      let p := r.2.takeFree
      let f := cvFmt (abConv o.block)
      let g := p.1 % ((abCount o.block + 31) / 32)
      let m1 := p.2.inc Reg.MEM_OPT_AUDITED
      let x := m1.auditGroup mem o w g
      m1.when (drift || x.1 != x.2) (fun m => (m.inc Reg.MEM_OPT_DRIFT).postCluster 0x084 (o.core / 8)
        (leBytes 7 (addrOffset (abWork o.block) + g * rowBytes f 32) ++ leBytes 4 w.step))

/-- Groups of 32 elements of a dense apply. -/
def denseGroups (o : OptWork) : Nat := (abCount o.block + 31) / 32

/-- The stretches that group `g` of a dense apply reads: address and length of its masters, moments and gradients. -/
def denseReads (o : OptWork) (g : Nat) : List (Nat × Nat) :=
  let b := o.block
  let n := min 32 (abCount b - 32 * g)
  (List.range (1 + ruleMoments o.rule)).map (fun k => (abState b + 4 * abCount b * k + 128 * g, 4 * n)) ++
    [(abGrad b + 128 * g, 4 * n)]

/-- What a dense apply's reads of one stretch meet, with what came back for an address of it. -/
def denseMeet (m : Mod) (rs : Replies) (x : Nat × Nat) : Nat × Mod :=
  let c := (placeCell (placeOf m x.1)).getD 0
  match rs.find? (fun r => decide (x.1 ≤ r.1 ∧ r.1 < x.1 + x.2)) with
  | none => m.meet c x.2 (m.badIn c x.2) none
  | some r => m.meet (c + (r.1 - x.1)) (x.2 - (r.1 - x.1)) (m.badIn c x.2) (some r.2)

/-- The reads of a dense apply, group by group: how each group's ended (R227). -/
def denseRead (m : Mod) (o : OptWork) (rs : Replies) : List Nat × Mod :=
  (List.range (denseGroups o)).foldl (fun (p : List Nat × Mod) g =>
    let r := (denseReads o g).foldl (fun (q : Nat × Mod) x =>
      let y := q.2.denseMeet rs x
      (ladleWorse q.1 y.1, y.2.countReq (o.core / 96) y.1)) (stOk, p.2)
    (p.1 ++ [r.1], r.2)) ([], m)

/-- Group `g`'s part of the working copy: first cell and length. -/
def denseCopy (m : Mod) (o : OptWork) (g : Nat) : Span :=
  let f := cvFmt (abConv o.block)
  ⟨(placeCell (placeOf m (abWork o.block))).getD 0 + g * rowBytes f 32, rowBytes f (min 32 (abCount o.block - 32 * g))⟩

/-- A group can be written: its part of the working copy lies in no halted or lost die (R236), and no bad line stands under
it but such as the apply rewrites whole, `ok` telling the groups whose reads were served (R224). -/
def denseCopyOk (m : Mod) (o : OptWork) (ok : Nat → Bool) (g : Nat) : Bool :=
  let all : Span := ⟨(m.denseCopy o 0).addr, rowBytes (cvFmt (abConv o.block)) (abCount o.block)⟩
  !m.stackDown (m.denseCopy o g).addr && (linesOf (m.denseCopy o g).addr (m.denseCopy o g).len).all (fun l => m.lineState l == 0 ||
    (decide (all.addr ≤ 64 * l ∧ 64 * l + 64 ≤ all.addr + all.len) &&
      (List.range (denseGroups o)).all (fun h => ok h || !overlaps (m.denseCopy o h) ⟨64 * l, 64⟩)))

/-- Group `g` is updated: masters, moments and working copy, from the values `mem0` held. -/
def denseGroup (mem0 mem : Memory) (m : Mod) (o : OptWork) (w : Work) (le : Nat) (c : DenseConst) (g : Nat) :
    Memory × Tally :=
  let b := o.block
  let at_ := fun a => (placeCell (placeOf m a)).getD 0
  let n := min 32 (abCount b - 32 * g)
  let s := at_ (abState b) + 128 * g
  let step := 4 * abCount b
  let k := ruleMoments o.rule
  let gs := (readVals mem0 (at_ (abGrad b) + 128 * g) n).map (fun x => f32Mul x (scaleVal le))
  let ws := readVals mem0 s n
  let ms := if 1 ≤ k then readVals mem0 (s + step) n else []
  let vs := if 2 ≤ k then readVals mem0 (s + 2 * step) n else []
  let es := (List.range n).map (fun i =>
    denseElem c ⟨ws.getD i valZero, ms.getD i valZero, vs.getD i valZero⟩ (gs.getD i valZero))
  let put := fun (mem : Memory) (cell : Nat) (xs : List Val) => memWrite mem cell (xs.flatMap (fun v => leBytes 4 (f32Enc v)))
  let mem1 := put mem s (es.map (·.w))
  let mem2 := if 1 ≤ k then put mem1 (s + step) (es.map (·.m)) else mem1
  let mem3 := if 2 ≤ k then put mem2 (s + 2 * step) (es.map (·.v)) else mem2
  let conv := abConv b
  let modes := (List.range n).map (fun i => cvMode conv (drawAt m.seed w.step (cvPurpose conv) w.mb (abGidx b + 32 * g + i)))
  let d := m.denseCopy o g
  let r := convRun conv (es.map (·.w)) modes (memRead mem3 d.addr d.len) d.addr
  (memWrite mem3 d.addr r.1, r.2)

/-- A dense apply that nothing suppresses rewrites master, moments and working copy of the groups in a list. -/
def denseWrite (mem : Memory) (m : Mod) (o : OptWork) (w : Work) (le : Nat) (gs : List Nat) : Memory × Mod :=
  let c := denseConst o.rule w.step
  let r := gs.foldl (fun (p : Memory × Tally) g =>
    let x := m.denseGroup mem p.1 o w le c g
    (x.1, p.2.add x.2)) (mem, {})
  (r.1, m.account (.die (o.core / 96)) (abWatch o.block) w.step r.2)

/-- The update of a dense apply, as far as its requests are served: a group one of whose requests fails is left as it was,
and the apply completes with that status (R227, log entry 119). One that completes with OK is counted (R171) and audited
(R161). -/
def denseUpdate (mem : Memory) (m : Mod) (o : OptWork) (w : Work) (le : Nat) (rs : Replies) (drift : Bool) : Memory × Mod :=
  let rd := m.denseRead o rs
  let read := fun (g : Nat) => rd.1.getD g stTierError == stOk
  let fits := fun (g : Nat) => rd.2.denseCopyOk o read g
  let good := (List.range (denseGroups o)).filter (fun g => read g && fits g)
  let m1 := ((List.range (denseGroups o)).filter (fun g => read g && !fits g)).foldl (fun m g =>
    (m.when (!m.stackDown (m.denseCopy o g).addr) (fun m => m.countHit (m.denseCopy o g).addr)).countReq (o.core / 96) stTierError) rd.2
  let st := (List.range (denseGroups o)).foldl (fun st g =>
    ladleWorse st (if !read g then rd.1.getD g stTierError else if fits g then stOk else stTierError)) stOk
  let m2 := (good.flatMap (fun g => linesOf (m1.denseCopy o g).addr (m1.denseCopy o g).len)).foldl (fun m l => m.setLine l 0) m1
  let r := m2.denseWrite mem o w le good
  (r.1, (r.2.when (st == stOk) (fun m => (m.inc Reg.MEM_OPT_APPLIED).audit r.1 o w drift)).endApply o st)

/-- A dense apply runs as far as it can: it waits, is suppressed, or updates. -/
def denseRun (mem : Memory) (m : Mod) (o : OptWork) (rs : Replies) (drift : Bool) : Memory × Mod :=
  match m.findWork o.work with
  | none => (mem, m)
  | some w =>
    match m.denseCheck o.block o.rule w.step with
    | none => (mem, m)
    | some c =>
      let m1 := m.noteLeRead w.step
      if c.status ≠ stOk then (mem, (m1.suppressed 0 (abBucket o.block) w.step c).endApply o c.status)
      else m1.denseUpdate mem o w c.le rs drift

/-- A dense apply issues, or one that waits is tried again; not on a halted die (R370). -/
def denseApply (mem : Memory) (m : Mod) (n : Nat) (rs : Replies) (drift : Bool) : Memory × Mod :=
  if m.dieHalted (n / 96) then (mem, m) else
  let m1 := m.applyIssue n 1
  (m1.coreApplies n 1).foldl (fun (p : Memory × Mod) o => p.2.denseRun p.1 o rs drift) (mem, m1)

/-! ### The ledger drain (R165 to R168) -/

/-- Where a drain finds a row and its state: the row's home by the stamp of the drain's issue (R216), and the state beside a
moved row or in its array. -/
def drainPlace (m : Mod) (o : OptWork) (e table row : Nat) : Nat × Nat :=
  let h := m.rowHome e table row o.heat
  (h.1, if h.2 then h.1 + tdStride e else abState o.block + 2 * row)

/-- The updated row and row state (R165). -/
def drainRow (o : OptWork) (e : Nat) (state : Val) (srState : Val → Val) (xs gs : List Val) : List Val × Val :=
  let eta := f32Of o.rule.eta
  if o.rule.rule = 4 then
    let q := f32Div (treeSum (gs.map (fun g => f32Mul g g))) (valInt (tdDim e))
    let a := srState (f32Add state q)
    let h := f32Div eta (f32Add (f32Sqrt a) (f32Of o.rule.eps))
    ((xs.zip gs).map (fun p => f32Fma h.neg p.2 p.1), a)
  else ((xs.zip gs).map (fun p => f32Fma eta.neg p.2 p.1), state)

/-- An entry's read has failed: kept with its count raised, or lost at the third time. `die` is that of the drain. -/
def drainFail (mem : Memory) (m : Mod) (die k i status : Nat) : Memory × Mod :=
  let c := m.lgCell k i
  let f := leFailed mem c + 1
  let m := m.countReq die status
  if 3 ≤ f then
    let r := m.lgRelease mem k i
    (r.1, r.2.ledgerLose k (m.lgTable k) (leRow mem c) (leStep mem c) status)
  else (memWrite mem (c + 14) (leBytes 2 (insBits (leFlags mem c) 14 12 f)), m)

/-- An address lies in this module's host window. -/
def hostPlace (m : Mod) (a : Nat) : Bool := addrModule a == m.self && isTier2Offset (addrOffset a)

/-- One entry whose row has been read is drained, with the exponent of its step. -/
def drainEntryRow (mem : Memory) (m : Mod) (o : OptWork) (w : Work) (rs : Replies) (k i e le : Nat) (row state : List Byte) :
    Memory × Mod :=
  let table := m.lgTable k
  let c := m.lgCell k i
  let r := leRow mem c
  let p := m.drainPlace o e table r
  let d := tdDim e
  let xs := decodeRun (tdFormat e) 0 row d
  let gs := (readVals mem (c + 64) d).map (fun g => f32Mul g (scaleVal le))
  let sr := fun (v : Val) => decodeElem 2 0 (encodeElem 2 0 (.stochastic (drawAt m.seed w.step (abPurpose o.block) w.mb r)) v).1
  let u := drainRow o e (decodeElem 2 0 (leNat state)) sr xs gs
  let conv := insBits (abConv o.block) 7 7 0
  let modes := (List.range d).map (fun j => cvMode conv (drawAt m.seed w.step (cvPurpose conv) w.mb (r * d + j)))
  let out := convRun conv u.1 modes row (p.1 % 2 ^ 51)
  let src : WriteSrc := .drain o.work k table r (leStep mem c)
  let srOut := encodeElem 2 0 (.stochastic (drawAt m.seed w.step (abPurpose o.block) w.mb r)) (drainRow o e (decodeElem 2 0 (leNat state)) id xs gs).2
  let tally := if o.rule.rule = 4 then out.2.add (elemTally 2 0 (drainRow o e (decodeElem 2 0 (leNat state)) id xs gs).2 srOut)
    else out.2
  let m0 := m.account (.die (o.core / 96)) (abWatch o.block) w.step tally
  let yes := fun (a : Nat) => some ((replyFor rs a).getD (.data []))
  let w1 := m0.tierWrite mem p.1 out.1 src (yes p.1)
  let w2 := if o.rule.rule = 4 then
      w1.2.1.tierWrite w1.1 p.2 (leBytes 2 (encodeElem 2 0 .nearest u.2).1) src (yes p.2)
    else (w1.1, w1.2.1, some stOk)
  let st := if w1.2.2.getD stOk ≠ stOk then w1.2.2.getD stOk else w2.2.2.getD stOk
  let rel := w2.2.1.lgRelease w2.1 k i
  if w1.2.2.isNone || w2.2.2.isNone then (rel.1, rel.2.ledgerLose k table r (leStep mem c) stHostEpochChanged)
  else if st ≠ stOk then (rel.1, (rel.2.countReq (o.core / 96) st).ledgerLose k table r (leStep mem c) st)
  else
    (rel.1, ((rel.2.noteRowWrite table r).inc Reg.MEM_OPT_APPLIED).when
      (m.hostPlace p.1 || (o.rule.rule == 4 && m.hostPlace p.2)) (fun m =>
        m.modWork o.work (fun x => if m.detached then { x with retained := true } else { x with posted := true })))

/-- An entry has been met by a drain. -/
def drainMet (m : Mod) (o : OptWork) (row step : Nat) (skip : Option Nat) : Mod :=
  m.modApply o.work (fun x =>
    { x with met := (row, step) :: x.met, skipped := match skip with | some s => s :: x.skipped | none => x.skipped })

/-- A drain whose entry's step has no norm because its reduction ended without one completes with that status (R296). -/
def drainFailed (m : Mod) (o : OptWork) (n : NormOut) : Mod :=
  m.when n.failed (fun m => m.modApply o.work (fun x => { x with status := if x.status = stOk then n.status else x.status }))

/-- One entry that has been checked and not suppressed: its row and state are read, and it is drained, kept or lost. -/
def drainRead (mem : Memory) (m : Mod) (o : OptWork) (w : Work) (rs : Replies) (k i e le : Nat) : Option (Memory × Mod) :=
  let r := leRow mem (m.lgCell k i)
  let p := m.drainPlace o e (m.lgTable k) r
  let a := m.tierRead mem p.1 (rowBytes (tdFormat e) (tdDim e)) (replyFor rs p.1)
  let b := if o.rule.rule = 4 then a.2.tierRead mem p.2 2 (replyFor rs p.2) else (.done stOk [], a.2)
  match a.1, b.1 with
  | .done st1 row, .done st2 state =>
    if st1 = stOk ∧ st2 = stOk then some (b.2.drainEntryRow mem o w rs k i e le row state)
    else some (b.2.drainFail mem (o.core / 96) k i (if st1 = stOk then st2 else st1))
  | _, _ => none

/-- One due entry: unreadable, stale, suppressed, waiting (for its row's move too, R218), failed or drained. An entry that the drain cannot read, because a
line of it is released or poisoned, is lost (log entry 120). -/
def drainOne (mem : Memory) (m : Mod) (id k i : Nat) (rs : Replies) : Memory × Mod :=
  match m.tables.applies.find? (·.work == id), m.findWork id, m.dirEntry (m.lgTable k) with
  | some o, some w, some e =>
    let c := m.lgCell k i
    let r := leRow mem c
    let s := leStep mem c
    let got := m.meet c (m.lgSize k) (m.badIn c (m.lgSize k)) (replyFor rs (globalOf m c))
    if o.met.contains (r, s) || m.moveHolds (m.lgTable k) r o.heat then (mem, m)
    else if got.1 ≠ stOk then
      let x := got.2.lgRelease mem k i
      (x.1, (x.2.ledgerLose k (m.lgTable k) r s got.1).drainMet o r s none)
    else if leVersion mem c ≠ tdVersion e then
      let f := m.foldEntry mem k i
      let x := f.2.lgRelease f.1 k i
      (x.1, (x.2.inc Reg.MEM_OPT_VSTALE).drainMet o r s none)
    else match m.drainCheck (m.lgTable k) o.rule s with
      | none => (mem, if (m.leOf s).isNone then m.modApply id (fun x => { x with waitsLe := some s }) else m)
      | some n =>
        let m1 := (got.2.noteLeRead w.step).drainFailed o n
        let f := m1.foldEntry mem k i
        if n.status ≠ stOk then
          let x := f.2.lgRelease f.1 k i
          (x.1, (if o.skipped.contains s then x.2 else x.2.suppressed 1 (m.lgTable k) s n).drainMet o r s (some s))
        else match f.2.drainRead f.1 o w rs k i e n.le with
          | some x => (x.1, x.2.drainMet o r s none)
          | none => (mem, m)
  | _, _, _ => (mem, m)

/-- The entries of a slot that a drain bound to step t is to process. -/
def drainDue (mem : Memory) (m : Mod) (o : OptWork) (w : Work) : List Nat :=
  let k := abLedger o.block
  let last := (w.step + (2 ^ 32 - m.lgDelay k)) % 2 ^ 32
  (m.lgValid mem k).filter (fun i =>
    let c := m.lgCell k i
    !laterStep (leStep mem c) last && !o.met.contains (leRow mem c, leStep mem c))

/-- A drain processes the entries it can, and completes once none is left: with OK, or with the status of a step close whose
failure freed entries of it (R296). One with writes toward the host completes when the port has acknowledged them, and one with
retained writes when these are replayed (R254, R350). -/
def drainRun (mem : Memory) (m : Mod) (o : OptWork) (rs : Replies) : Memory × Mod :=
  match m.findWork o.work with
  | none => (mem, m)
  | some w =>
    let k := abLedger o.block
    let m0 := m.modApply o.work (fun x => { x with waitsLe := none })
    let r := (m0.drainDue mem o w).foldl (fun (p : Memory × Mod) i => p.2.drainOne p.1 o.work k i rs) (mem, m0)
    match r.2.tables.applies.find? (·.work == o.work) with
    | none => r
    | some o' =>
      if (r.2.drainDue r.1 o' w).isEmpty then
        (r.1, if (r.2.findWork o.work).any (fun x => x.retained || x.posted) then
            ((r.2.modWork o.work (fun x => { x with status := o'.status })).dropApply o.work).inc (Reg.CORE_OPT_OPS o.core)
          else r.2.endApply o' o'.status)
      else r

/-- The rows and row state of this module that a drain is to write, as its destination (R49). -/
def drainSpans (mem : Memory) (m : Mod) (o : OptWork) (w : Work) (e : Nat) : List Span :=
  (m.drainDue mem o w).flatMap (fun i =>
    let p := m.drainPlace o e (m.lgTable (abLedger o.block)) (leRow mem (m.lgCell (abLedger o.block) i))
    let at_ := fun (a len : Nat) => match placeCell (placeOf m a) with
      | some c => [(⟨c, len⟩ : Span)]
      | none => []
    at_ p.1 (rowBytes (tdFormat e) (tdDim e)) ++ if o.rule.rule = 4 then at_ p.2 2 else [])

/-- A drain just put into flight holds its destination, so that later words of its block wait for it (R49). -/
def drainClaim (mem : Memory) (m : Mod) (id : Nat) : Mod :=
  match m.tables.applies.find? (·.work == id) with
  | none => m
  | some o =>
    match m.dirEntry (m.lgTable (abLedger o.block)) with
    | none => m
    | some e => m.modWork id (fun w => { w with dst := m.drainSpans mem o w e })

/-- The drains of a core that have processed every entry have had their writes toward the host acknowledged (R254): they are
complete. -/
def drainsAcked (m : Mod) (n : Nat) : Mod :=
  m.works.foldl (fun m w =>
    if w.who == .core n && w.posted && !w.retained && !m.tables.applies.any (·.work == w.id) then m.endWork w.id w.status
    else m) m

/-- A drain issues, or one in progress goes on; the writes toward the host of one that has gone through its entries have been
acknowledged by then. Nothing moves on a halted die (R370). -/
def ledgerDrain (mem : Memory) (m : Mod) (n : Nat) (rs : Replies) : Memory × Mod :=
  if m.dieHalted (n / 96) then (mem, m) else
  let m0 := (m.drainsAcked n).applyIssue n 2
  let m1 := if m0.nextId = m.nextId then m0 else m0.drainClaim mem m.nextId
  (m1.coreApplies n 2).foldl (fun (p : Memory × Mod) o => p.2.drainRun p.1 o rs) (mem, m1)

end Mod

def execDenseApply (n : Nat) (rs : Replies) (drift : Bool) (s : State) : Host.Outcome State Fault Refusal :=
  nextMem s (fun mem m => m.denseApply mem n rs drift)
def execLedgerDrain (n : Nat) (rs : Replies) (s : State) : Host.Outcome State Fault Refusal :=
  nextMem s (fun mem m => m.ledgerDrain mem n rs)

end Sys2Proof.Machine
end

