-- ==== Sys2Proof/Machine/Moves.lean ====
section
/-!
DEFINITION. Moving a row's home (R215 to R218 of 10_sparse_updates_and_hot_rows.md): the copy, its landing, and an
abandoned move.
-/

namespace Sys2Proof.Machine

open Sys2Proof

namespace Mod

/-- The table and row of a moved-row entry, the directory entry at its fence, the homes the row moves between, and the
address of R174. -/
structure MoveSite where
  table : Nat
  row : Nat
  entry : Nat
  old : Nat
  new : Nat
  base : Nat

def moveSite (r : MovedRow) : MoveSite :=
  { table := mvTable r.entry, row := mvRow r.entry, entry := r.td, old := r.old, new := mvNew r.entry, base := r.base }

/-- Requests for the row are outstanding at its old home, or a drain of its slot is in progress (R217): one issued before the
fence, since a later one waits for the move (R218). -/
def moveBusy (m : Mod) (s : MoveSite) (fence : Nat) : Bool :=
  m.tables.lookups.any (fun l => l.reqs.any (fun q =>
    q.status.isNone && q.drup.isNone && q.table == s.table && q.row == s.row && canon q.addr == canon s.old)) ||
  m.tables.contribs.any (fun c => c.rows.any (fun r =>
    !r.landed && r.outcome.isNone && r.far.table == some s.table && r.far.row == s.row && canon r.far.addr == canon s.old)) ||
  (match m.lgSlot s.table with
    | some k => m.tables.applies.any (fun o => abKind o.block == 2 && abLedger o.block == k && decide (o.heat < fence) &&
        (m.findWork o.work).isSome)
    | none => false)

/-- Where the row state of a home lies: beside a moved row, else in the array the latest drain named. -/
def stateAt (m : Mod) (s : MoveSite) (a : Nat) : Option Nat :=
  if canon a ≠ canon s.base then some (a + tdStride s.entry)
  else ((m.lgSlot s.table).bind (fun k => (m.lgSt k).stateBase)).map (fun b => b + 2 * s.row)

/-- The row state at the old home; where no drain has named its array, it is not known (a free value). -/
def moveState (mem : Memory) (m : Mod) (s : MoveSite) (rs : Replies) : Nat × Mod :=
  match m.stateAt s s.old with
  | some a => match m.tierRead mem a 2 (replyFor rs a) with
    | (.done st bs, m1) => if st = stOk then (leNat bs, m1) else m1.takeFree
    | (.waiting, m1) => m1.takeFree
  | none => m.takeFree

/-- Ledger entries of a row, by number. -/
def rowEntries (mem : Memory) (m : Mod) (k row : Nat) : List Nat :=
  (m.lgValid mem k).filter (fun i => leRow mem (m.lgCell k i) == row)

/-- Rows held for a row's entries, as they travel. -/
def heldAsRow (table : Nat) (r : HeldRow) : FarRow :=
  { table := some table, row := match r.dest with | .entry _ row _ _ => row | .addr _ => 0
    addr := 0, heat := r.heat, time := r.time, version := match r.dest with | .entry _ _ _ v => v | .addr _ => 0
    ordered := true, step := r.step, chip := r.chip, seq := r.seq, dfmt := r.dfmt, sfmt := r.sfmt, vals := r.els.map (·.2) }

def heldForRow (k row : Nat) (r : HeldRow) : Bool :=
  match r.dest with
  | .entry k' row' _ _ => k' == k && row' == row
  | .addr _ => false

/-- A cell of a ledger entry of the row that a line released or poisoned keeps from being read (R224, R230). -/
def lostEntry (mem : Memory) (m : Mod) (s : MoveSite) : Option Nat :=
  if addrModule s.new = m.self then none
  else (m.lgSlot s.table).bind (fun k =>
    ((m.rowEntries mem k s.row).find? (fun i => m.badIn (m.lgCell k i) (m.lgSize k))).map (fun i => m.lgCell k i))

/-- What the copy carries. -/
def moveCopyOf (mem : Memory) (m : Mod) (s : MoveSite) (bytes : List Byte) (state : Nat) : MoveCopy :=
  match m.lgSlot s.table with
  | some k =>
    { row := bytes, state := state
      entries := (m.rowEntries mem k s.row).map (fun i => memRead mem (m.lgCell k i) (m.lgSize k))
      held := (m.tables.hold.filter (heldForRow k s.row)).map (heldAsRow s.table) }
  | none => { row := bytes, state := state, entries := [], held := [] }

/-- A move is abandoned: the entry reverts at step 2 of the next boundary; the old home reports it. -/
def moveAbandon (m : Mod) (i : Nat) (r : MovedRow) (status : Nat) : Mod :=
  let s := moveSite r
  let m1 := m.setMoved i (some { r with failed := true })
  if addrModule s.old = m.self then
    (m1.inc Reg.MEM_MV_ABANDONED).postModule 0x08C (leBytes 7 (rowKey s.table s.row) ++ leBytes 1 (status % 16))
  else m1

/-- A move is complete: the entry stays, or goes where the row is back at the address of R174; the home it left then still
sends requests on (R217). -/
def moveComplete (m : Mod) (i : Nat) (r : MovedRow) : Mod :=
  let s := moveSite r
  let back := canon s.new == canon s.base
  let m1 := m.setMoved i (if r.doomed || back then none else some { r with moving := false, copied := false, put := 0 })
  let m2 := if back && !r.doomed then
      { m1 with tables := { m1.tables with forwards := m1.tables.forwards ++ [(s.table, s.row, s.old, s.base)] } }
    else m1
  if addrModule s.old = m.self then
    (m2.inc Reg.MEM_MV_DONE).postModule 0x08B (leBytes 14 (canon s.new / 64 * 2 ^ 52 + rowKey s.table s.row))
  else m2

/-! ### Reads of other modules (R217, R218) -/

/-- Offset of an address in a home of `len` bytes. -/
def inHome (a home len : Nat) : Option Nat :=
  if canon home ≤ canon a ∧ canon a < canon home + len then some (canon a - canon home) else none

/-- Where a read of another module goes that reaches this one. A read carries no stamp: one that reaches an old home before
the row has moved is served there. -/
def readRoute (m : Mod) (a : Nat) : RowRoute :=
  let moved := m.tables.moved.findSome? (fun p => p.2.bind (fun r =>
    let len := tdStride r.td + 64
    match inHome a (mvNew r.entry) len, inHome a r.old (if canon r.old = canon r.base then tdStride r.td else len) with
    | some o, _ => some (if r.failed then .serve (r.old + o) false else if r.moving then .hold p.1 a false
        else .serve a false)
    | none, some o => some (if r.failed then .serve a false
        else if r.moving then .serve a false
        else .serve (mvNew r.entry + o) true)
    | none, none => none))
  let back := m.tables.forwards.findSome? (fun f =>
    (inHome a f.2.2.1 (m.tableStride f.1 + 64)).map (fun o => RowRoute.serve (f.2.2.2 + o) true))
  (moved <|> back).getD (.serve a false)

/-- The line a read packet asks for is read at an address, and the answer goes to the module that asked; a line of tier 2
is asked of the host, and one the host does not answer is not answered. -/
def answerRead (mem : Memory) (m : Mod) (pkt : Packet) (a : Nat) (rs : Replies) : Mod :=
  if addrModule a ≠ m.self then m.emit (.packet (addrModule a) 1 (leBytes 8 a ++ leBytes 2 pkt.src))
  else match m.tierRead mem a 64 (replyFor rs a) with
    | (.done st bytes, m2) => m2.emit (.packet pkt.src 4 (leBytes 1 st ++ bytes))
    | (.waiting, m2) => m2

/-- A read packet meets what stands at its address here. -/
def meetRead (mem : Memory) (m : Mod) (pkt : Packet) (rs : Replies) : Mod :=
  match m.readRoute (pkt.addr / 64 * 64) with
  | .serve a fwd => (m.when fwd (fun m => m.inc Reg.MEM_MV_FWD)).answerRead mem pkt a rs
  | .hold i _ _ => m.holdMove i (.read pkt)

/-- A write packet meets what stands at its address here: it is done there or where its row now is, or waits for the end of its
row's move (R217, R218); its module is told how it ended. -/
def meetWrite (mem : Memory) (m : Mod) (pkt : Packet) : Memory × Mod :=
  match m.readRoute pkt.addr with
  | .hold i _ _ => (mem, m.holdMove i (.write pkt))
  | .serve a fwd =>
    let m1 := m.when fwd (fun m => m.inc Reg.MEM_MV_FWD)
    if addrModule a ≠ m.self then (mem, m1.emit (.packet (addrModule a) 2 (leBytes 8 a ++ pkt.payload)))
    else
      let r := m1.tierWrite mem a pkt.payload .far none
      (r.1, match r.2.2 with
        | some st => r.2.1.emit (.packet pkt.src 4 (leBytes 1 st))
        | none => r.2.1)

/-! ### The end of a move -/

/-- One request that waited for the end of a move is served, or sent on (R218). -/
def releaseOne (mem : Memory) (m : Mod) (x : MoveHeld) (rs : Replies) : Memory × Mod :=
  match x with
  | .look w k => (mem, match m.findLookup w with
    | some l => match l.reqs[k]? with
      | some q => if q.status.isNone then m.routeRow mem l k q (replyFor rs q.addr) else m
      | none => m
    | none => m)
  | .own w k => match m.findContrib w with
    | some c => match c.rows[k]? with
      | some r => m.meetHome mem c k r none
      | none => (mem, m)
    | none => (mem, m)
  | .far src r => m.meetFar mem src r none
  | .read pkt => (mem, m.meetRead mem pkt rs)
  | .write pkt => m.meetWrite mem pkt

/-- The requests held for a row are served in arrival order. -/
def releaseMove (mem : Memory) (m : Mod) (i : Nat) (rs : Replies) : Memory × Mod :=
  let q := m.tables.moveQueue
  (q.filter (fun x => x.1 == i)).foldl (fun (p : Memory × Mod) x => p.2.releaseOne p.1 x.2 rs)
    (mem, { m with tables := { m.tables with moveQueue := q.filter (fun x => x.1 != i) } })

/-- The old home copies the row once nothing is on its way to it; a new home on another module gets the copy as a packet.
The row's bytes are read with the answer that came back for a row in tier 2; a read that fails abandons the move. -/
def moveCopy (mem : Memory) (m : Mod) (i : Nat) (rs : Replies) : Memory × Mod :=
  match m.movedEntry i with
  | none => (mem, m)
  | some r =>
    let s := moveSite r
    if !r.moving || r.copied || r.failed || addrModule s.old != m.self || m.moveBusy s r.fence then (mem, m)
    else
      match m.tierRead mem s.old (rowBytes (tdFormat s.entry) (tdDim s.entry)) (replyFor rs s.old) with
      | (.waiting, _) => (mem, m)
      | (.done st bytes, m1) =>
        let lost := m1.lostEntry mem s
        if st ≠ stOk then (m1.moveAbandon i r st).releaseMove mem i rs
        else if lost.isSome then
          ((m1.countHit (lost.getD 0)).moveAbandon i r stTierError).releaseMove mem i rs
        else
          let m2 := m1.setMoved i (some { r with copied := true })
          if addrModule s.new = m.self then (mem, m2)
          else
            let st := m2.moveState mem s rs
            (mem, st.2.emit (.move (addrModule s.new) (m2.moveCopyOf mem s bytes st.1)))

/-- Carried ledger entries take free entries of the new home's slot, and the carried held rows its hold: none where one
finds no room. -/
def moveLand (mem : Memory) (m : Mod) (k : Nat) (c : MoveCopy) : Option (Memory × Mod) :=
  let p := c.entries.foldl (fun (p : Option (Memory × Mod)) e =>
    p.bind (fun q => (q.2.lgFree q.1 k).map (fun i =>
      (memWrite q.1 (q.2.lgCell k i) e,
        (q.2.clearWhole (q.2.lgCell k i) e.length).wrN (Reg.MEM_LG_USED k) (q.2.rdN (Reg.MEM_LG_USED k) + 1))))) (some (mem, m))
  c.held.foldl (fun (p : Option (Memory × Mod)) r =>
    p.bind (fun q =>
      let h := q.2.holdRow (heldOf r (.entry k r.row r.step r.version) (r.vals.zipIdx.map (fun v => (v.2, v.1))))
      if h.2 = stOk then some (q.1, h.1) else none)) p

/-- The old home's ledger entries and held rows of the row are gone to the new home. -/
def moveAway (mem : Memory) (m : Mod) (k row : Nat) : Memory × Mod :=
  let r := (m.rowEntries mem k row).foldl (fun (p : Memory × Mod) i => p.2.lgRelease p.1 k i) (mem, m)
  (r.1, r.2.setHold (r.2.tables.hold.filter (fun h => !heldForRow k row h)))

/-- Write the row and its state at the new home on this module; a write toward the host that is discarded never
completes. -/
def movePut (mem : Memory) (m : Mod) (i : Nat) (s : MoveSite) (bytes : List Byte) (state : Nat) : Memory × Mod × Nat :=
  let w := m.tierWrite mem s.new bytes (.rowCopy i) (some (.data []))
  match w.2.2 with
  | some 0 =>
    (match w.2.1.stateAt s s.new with
    | some a =>
      let v := w.2.1.tierWrite w.1 a (leBytes 2 state) (.rowCopy i) (some (.data []))
      (v.1, v.2.1, v.2.2.getD stHostEpochChanged)
    | none => (w.1, w.2.1, stOk))
  | st => (mem, w.2.1, st.getD stHostEpochChanged)

/-- The row and its state have been written at the new home, or their write has failed: the move ends, or waits for the
retained write (R254). -/
def movePutEnd (mem : Memory) (m : Mod) (i : Nat) (r : MovedRow) (status : Nat) (rs : Replies) : Memory × Mod :=
  if status ≠ stOk then (m.moveAbandon i r status).releaseMove mem i rs
  else if m.detached && (m.hostPlace (mvNew r.entry) || (m.stateAt (moveSite r) (mvNew r.entry)).any m.hostPlace) then (mem, m.setMoved i (some { r with put := 1 }))
  else (m.moveComplete i r).releaseMove mem i rs

/-- The copy of a move lands, or fails. -/
def moveEnd (mem : Memory) (m : Mod) (i : Nat) (x : MoveEnd) (rs : Replies) : Memory × Mod :=
  match m.movedEntry i with
  | none => (mem, m)
  | some r =>
    let s := moveSite r
    let oldHere := addrModule s.old == m.self
    let newHere := addrModule s.new == m.self
    if !r.moving || r.failed || (oldHere && !r.copied) || r.put == 1 then (mem, m)
    else if r.put = 2 then (m.moveComplete i r).releaseMove mem i rs
    else if r.put = 3 then (m.moveAbandon i r stHostEpochChanged).releaseMove mem i rs
    else match x with
      | .failed st => (m.moveAbandon i r st).releaseMove mem i rs
      | .landed copy =>
        if oldHere && newHere then
          match m.tierRead mem s.old (rowBytes (tdFormat s.entry) (tdDim s.entry)) (replyFor rs s.old) with
          | (.waiting, _) => (mem, m)
          | (.done st bytes, m1) =>
            if st ≠ stOk then (m1.moveAbandon i r st).releaseMove mem i rs
            else
              let t := m1.moveState mem s rs
              let w := t.2.movePut mem i s bytes t.1
              w.2.1.movePutEnd w.1 i r w.2.2 rs
        else if oldHere then
          match m.lgSlot s.table with
          | some k => let a := m.moveAway mem k s.row; (a.2.moveComplete i r).releaseMove a.1 i rs
          | none => (m.moveComplete i r).releaseMove mem i rs
        else if newHere then
          match copy with
          | none => (mem, m)
          | some c =>
            let landed := match m.lgSlot s.table with
              | some k => m.moveLand mem k c
              | none => if c.entries.isEmpty then some (mem, m) else none
            match landed with
            | none => (m.moveAbandon i r stBusyRefused).releaseMove mem i rs
            | some q =>
              let w := q.2.movePut q.1 i s c.row c.state
              if w.2.2 = stOk then w.2.1.movePutEnd w.1 i r w.2.2 rs
              else (m.moveAbandon i r w.2.2).releaseMove mem i rs
        else (m.moveComplete i r).releaseMove mem i rs

end Mod

def execRowMoveCopy (i : Nat) (rs : Replies) (s : State) : Host.Outcome State Fault Refusal :=
  nextMem s (fun mem m => m.moveCopy mem i rs)
def execRowMoved (i : Nat) (x : MoveEnd) (rs : Replies) (s : State) : Host.Outcome State Fault Refusal :=
  nextMem s (fun mem m => m.moveEnd mem i x rs)

end Sys2Proof.Machine
end

