-- ==== Sys2Proof/Machine/Fabric.lean ====
section
/-!
DEFINITION. The hypercube fabric (13_hypercube_fabric.md): ports and their training, the link layer, packets and flows,
route tables, and the logical dimension map.
-/

namespace Sys2Proof.Machine

open Sys2Proof

/-! ### Ports and wiring (R255, R257, R258, R260) -/

/-- The module that port `k` of module `x` connects to (R258). -/
def partnerOf (crossed : Bool) (k x : Nat) : Nat :=
  if crossed && decide (k < 12) then
    Nat.xor (Nat.xor x (2 ^ k)) ((x &&& 0x555 &&& (2 ^ (2 * (k / 2)) - 1)) * 2)
  else Nat.xor x (2 ^ k)

/-- Link class of a port (Table 13.1): 1 centimetre, 2 metre, 3 optical, 4 pair. -/
def portClass (p : Nat) : Nat := if p < 2 then 1 else if p < 7 then 2 else if p < 12 then 3 else 4

/-- Propagation of a class in hundredths of a nanosecond per decimetre. -/
def propagation (c : Nat) : Nat := if c = 1 then 67 else if c = 2 then 44 else 49

/-- Reach of a class and accuracy of its length, in decimetres. -/
def reachOf (c : Nat) : Nat × Nat :=
  if c = 1 then (5, 5) else if c = 2 then (30, 5) else if c = 3 then (1000, 20) else (20000, 20)

/-- Loss class of a lane (R261). -/
def lossClass (db : Nat) : Nat := if db ≤ 16 then 0 else if db ≤ 24 then 1 else if db ≤ 32 then 2 else 3

/-- Loss class of lane `i` as stage 1 found it; a lane that did not lock has failed as one above 32 dB has. -/
def laneClass (loss : List (Option Nat)) (i : Nat) : Nat :=
  match loss.getD i none with | some db => lossClass db | none => 3

/-- Loss class of a port: that of its worst lane (R261). -/
def worstLane (loss : List (Option Nat)) : Nat := (List.range 8).foldl (fun w i => max w (laneClass loss i)) 0

/-- Lanes that train: all eight, or a whole group of four (R261). -/
def trainLanes (loss : List (Option Nat)) : Option Nat :=
  let whole := fun (is : List Nat) => is.all (fun i => decide (laneClass loss i < 3))
  if whole (List.range 8) then some 8
  else if whole [0, 1, 2, 3] || whole [4, 5, 6, 7] then some 4
  else none

/-! ### Packets (R264) -/

/-- A packet as received: its header's fields and its payload. -/
def parsePacket (hb payload : List Byte) : Packet :=
  let h := leNat hb
  { dst := bitsOf h 12 0, src := bitsOf h 25 13, seq := bitsOf h 223 176, hops := bitsOf h 175 168
    detour := bitsOf h 167 164, lane := bitsOf h 163 162, kind := bitsOf h 143 136, addr := bitsOf h 127 64
    msgOff := bitsOf h 51 32, msgLast := bitOf h 31, payload := payload.take (64 * bitsOf h 159 144) }

/-- A header passes its CRC and carries a listed kind. -/
def packetOk (hb : List Byte) : Bool :=
  hb.length == 32 && crc32 (hb.take 28) == leNat (hb.drop 28) &&
    decide (1 ≤ bitsOf (leNat hb) 143 136 ∧ bitsOf (leNat hb) 143 136 ≤ 8)

/-- Flits a packet takes (R266). -/
def flitCount (p : Packet) : Nat := (32 + p.payload.length + 255) / 256

/-- Flits a port's retry buffer holds. -/
def retryFlits (port : Nat) : Nat := if port = 12 then 32768 else 4096

/-- Put a packet that came early into its place in flow order. The packets missing before it were missing when the one
behind it came, and its gap closes with that one's; where none is behind it, a gap opens now and closes at `due`. -/
def insertPacket (due : Nat) (x : Packet) : List (Nat × Packet) → List (Nat × Packet)
  | [] => [(due, x)]
  | y :: ys => if x.seq < y.2.seq then (y.1, x) :: y :: ys else y :: insertPacket due x ys

/-- Put a packet among those waiting at a port: lanes are served in the order of Table 13.7, and within a lane the packet
comes last, or `ahead` of the others (R267, R271). -/
def queuePacket (ahead : Bool) (x : Packet) : List Packet → List Packet
  | [] => [x]
  | y :: ys => if x.lane < y.lane ∨ (ahead = true ∧ x.lane = y.lane) then x :: y :: ys else y :: queuePacket ahead x ys

/-! ### Shortest paths (R269) -/

/-- One level of the search: the modules one hop beyond a level, each with the first ports of its shortest paths. -/
def nextLevel (nbr : Nat → List Nat) (seen : Nat) (level : Tab Nat) : Tab Nat :=
  level.foldl (fun t e => (nbr e.1).foldl (fun t y =>
    if seen.testBit y then t else tabMod (fun _ => 0) t y (fun k => k ||| e.2)) t) []

/-- Every module reached, with its hops and the first ports of its shortest paths. -/
def searchFrom (nbr : Nat → List Nat) : Nat → Nat → Nat → Tab Nat → List (Nat × Nat × Nat) → List (Nat × Nat × Nat)
  | 0, _, _, _, acc => acc
  | fuel + 1, hops, seen, level, acc =>
    if level.isEmpty then acc
    else
      let acc' := acc ++ level.map (fun e => (e.1, hops, e.2))
      searchFrom nbr fuel (hops + 1) (level.foldl (fun s e => s ||| 2 ^ e.1) seen)
        (nextLevel nbr (level.foldl (fun s e => s ||| 2 ^ e.1) seen) level) acc'

/-- The highest and the lowest port of a mask. -/
def highPort (mask : Nat) : Option Nat := ((List.range 13).reverse).find? (fun k => bitOf mask k)
def lowPort (mask : Nat) : Option Nat := (List.range 13).find? (fun k => bitOf mask k)

/-- Primary and alternate port toward a module that differs in `diff`, given the first ports of the shortest paths and
this module's ports UP. -/
def choosePorts (crossed : Bool) (diff first up : Nat) : Nat × Nat :=
  let primary :=
    if crossed then (lowPort first).getD 15
    else match highPort (first &&& diff) with | some k => k | none => (lowPort first).getD 15
  let others := up &&& (0x1FFF - 2 ^ primary % 0x2000)
  let alt := match highPort (others &&& diff) with | some k => k | none => (lowPort others).getD 15
  (primary, alt)

namespace Mod

def portSt (m : Mod) (p : Nat) : PortSt := tabGet (fun _ => {}) m.fab.ports p
def setPort (m : Mod) (p : Nat) (x : PortSt) : Mod :=
  { m with fab := { m.fab with ports := tabPut (fun _ => {}) m.fab.ports p x } }
def modPort (m : Mod) (p : Nat) (f : PortSt → PortSt) : Mod := m.setPort p (f (m.portSt p))
def isUp (m : Mod) (p : Nat) : Bool := decide (p < 13) && m.portState p == portUp

/-- A port is in service: its dimension is one of the plane's, or the pair link is enabled (R257). -/
def portInService (m : Mod) (p : Nat) : Bool :=
  if p < 12 then decide (p < m.fget Fld.FAB_DIMS) else p == 12 && m.flag Fld.FAB_PAIR_EN

/-- FAB_CTRL as a port took it at its latest training; as it stands where the port has not trained (R276). -/
def portWord (m : Mod) (p : Nat) : Word := (tabGet (fun _ => none) m.fab.ctrl p).getD (m.rd Reg.FAB_CTRL)

/-- The wiring a port trained under. -/
def crossedWiring (m : Mod) (p : Nat) : Bool := bitOf (m.portWord p).toNat 0

/-- FAB_CTRL as the plane's ports took it: the word of the lowest-numbered port that has trained (DEDUCED, log entry
124). -/
def planeWord (m : Mod) : Word := ((m.fab.ctrl.filterMap (·.2)).head?).getD (m.rd Reg.FAB_CTRL)

/-! ### Route tables (R269, R270, R273) -/

def portsOf (m : Mod) (x : Nat) : Nat := tabGet (fun _ => 0) m.fab.topo x

/-- Port `k` of module `x` is an UP link: both its ends are UP. -/
def linkIsUp (m : Mod) (x k : Nat) : Bool :=
  bitOf (m.portsOf x) k && bitOf (m.portsOf (partnerOf (m.crossedWiring k) k x)) k

/-- Modules one UP link away. -/
def neighbours (m : Mod) (x : Nat) : List Nat :=
  ((List.range 13).filter (fun k => m.linkIsUp x k)).map (fun k => partnerOf (m.crossedWiring k) k x)

/-- A FAB_ROUTE word (Table 13.14). -/
def routeWord (hops alt primary : Nat) : Word := BitVec.ofNat 32 (2 ^ 31 + hops % 256 * 2 ^ 16 + alt * 256 + primary)

/-- The derived table: an entry for every module that can be reached. -/
def deriveTable (m : Mod) : Tab Word :=
  let me := m.self
  let ups := (List.range 13).filter (fun k => m.linkIsUp me k)
  let level := ups.foldl (fun t k => tabPut (fun _ => 0) t (partnerOf (m.crossedWiring k) k me) (2 ^ k)) []
  let found := searchFrom m.neighbours 8192 1 (2 ^ me) level []
  let mine := ups.foldl (fun u k => u + 2 ^ k) 0
  found.foldl (fun t e =>
    let ports := choosePorts (bitOf m.planeWord.toNat 0) (Nat.xor me e.1) e.2.2 mine
    tabPut (fun _ => 0) t e.1 (routeWord e.2.1 ports.2 ports.1)) [(me, routeWord 0 15 15)]

/-- The table in force. -/
def tableNow (m : Mod) : Tab Word :=
  (m.regs.filter (fun e => decide (0x58000 ≤ e.1 ∧ e.1 < 0x60000))).map (fun e => ((e.1 - 0x58000) / 4, e.2))

/-- A table takes force. -/
def putTable (m : Mod) (t : Tab Word) : Mod :=
  { m with regs := m.regs.filter (fun e => decide (e.1 < 0x58000)) ++ t.map (fun e => (0x58000 + 4 * e.1, e.2)) ++
      m.regs.filter (fun e => decide (0x60000 ≤ e.1)) }

/-- Modules of the plane, and of the partner plane where the pair link is in service. -/
def systemModules (m : Mod) : List Nat :=
  let n := 2 ^ wordBits m.planeWord 11 8
  let plane := (List.range n).map (fun x => m.self / n * n + x)
  if bitOf m.planeWord.toNat 16 then plane ++ plane.map (fun x => Nat.xor x 4096) else plane

/-- The table is derived again; a change takes force, counts, is posted, and ends what needs a module it leaves out:
channel messages and collective instances (R273). -/
def deriveRoutes (m : Mod) : Mod :=
  let t := m.deriveTable
  if t = m.tableNow then m
  else
    let cut := fun (t : Tab Word) => m.systemModules.filter (fun x => (tabFind t x).isNone)
    let before := cut m.tableNow
    let gone := cut t
    let m1 := ((m.putTable t).inc Reg.FAB_EPOCH).fput Fld.FAB_PARTITIONED (!gone.isEmpty)
    let m2 := m1.postModule 0x0A5 (leBytes 4 (m1.rdN Reg.FAB_EPOCH))
    let m3 := m2.when (gone.any (fun x => !before.contains x)) (fun m =>
      ({ m with pwr := { m.pwr with cut := true } }).postModule 0x0A7
        (leBytes 2 (min gone.length 65535) ++ leBytes 2 (gone.foldl min 8191)))
    m3.endGoneMessages.checkMembers

/-- Whether an added link waits for a boundary: only while the module takes part in the heat. -/
def routesWait (m : Mod) : Bool := m.ready && m.flag Fld.HEAT_RUNNING

/-- The ports UP of a module are now these: a lost link leaves the table at once, an added one joins at step 2. -/
def notePorts (m : Mod) (x up : Nat) : Mod :=
  let now := if m.routesWait then m.portsOf x &&& up else up
  let add := if now = up then none else some up
  let m1 := { m with fab := { m.fab with
    topo := tabPut (fun _ => 0) m.fab.topo x now, adds := tabPut (fun _ => none) m.fab.adds x add } }
  (m1.fput ⟨Reg.FAB_STATUS, 30, 30⟩ (!m1.fab.adds.isEmpty)).deriveRoutes

/-- Step 2: added links join the routes. -/
def applyLinks (m : Mod) : Mod :=
  if m.fab.adds.isEmpty then m
  else
    let topo := m.fab.adds.foldl (fun t e => match e.2 with | some up => tabPut (fun _ => 0) t e.1 up | none => t) m.fab.topo
    (({ m with fab := { m.fab with topo := topo, adds := [] } }).fput ⟨Reg.FAB_STATUS, 30, 30⟩ false).deriveRoutes

/-- A link-state notice leaves by every port UP but one. -/
def floodNotice (m : Mod) (n : LinkNotice) (from_ : Nat) : Mod :=
  ((List.range 13).filter (fun p => p != from_ && m.isUp p)).foldl (fun m p => m.emit (.linkState p n)) m

/-- The pair link's coming or going changes the plane the time master is chosen from: it is settled anew (R28). -/
def masterStale (m : Mod) : Bool :=
  m.ready && m.heat.master != electMaster (m.candidates.filter (fun x => planeOf x.1 == m.masterPlane))

/-- A port has changed state: the module's notice is flooded, its table derived again (R269) and its time master settled. -/
def ownPorts (m : Mod) : Mod :=
  let n := m.fab.noticeNo + 1
  let m1 := { m with fab := { m.fab with noticeNo := n } }
  let m2 := (m1.floodNotice ⟨m.self, n, m.fget Fld.FAB_PORTS_UP⟩ 15).notePorts m.self (m.fget Fld.FAB_PORTS_UP)
  m2.when m2.masterStale (fun m => m.settleMaster)

/-- A link-state notice is received: one not seen before is noted and flooded on. -/
def linkNotice (m : Mod) (p : Nat) (n : LinkNotice) : Mod :=
  if m.isUp p && n.src != m.self && decide (tabGet (fun _ => 0) m.fab.seen n.src < n.num) then
    let m1 := { m with fab := { m.fab with seen := tabPut (fun _ => 0) m.fab.seen n.src n.num } }
    (m1.floodNotice n p).notePorts n.src (n.up % 0x2000)
  else m

/-! ### Sending on a port, detours, and losing a link (R266, R271, R272) -/

/-- Module time by which an acknowledgement is to come, counted from now (R266): the round trip and the retry time that the
oldest flit took when it was sent (R17). -/
def ackLimit (m : Mod) (x : PortSt) : Nat := m.now + x.rtt + x.limits.headD (m.rdN Reg.FAB_RETRY_US) * 1000

/-- A packet goes into the retry buffer as its flits and leaves. -/
def intoBuffer (m : Mod) (p : Nat) (pkt : Packet) : Mod :=
  let x := m.portSt p
  let k := flitCount pkt
  let flits := (List.range k).map (fun i => ((x.txSeq + i) % 65536, if i + 1 = k then some pkt else none))
  let y := { x with txSeq := (x.txSeq + k) % 65536, unacked := x.unacked ++ flits
                    limits := x.limits ++ List.replicate k (m.rdN Reg.FAB_RETRY_US) }
  (m.setPort p { y with ackDue := if x.unacked.isEmpty then m.ackLimit y else x.ackDue }).emit (.sent p pkt)

/-- Packets that waited enter the retry buffer as room comes. -/
def drainWaiting (m : Mod) (p : Nat) : Mod :=
  (m.portSt p).waiting.foldl (fun m pkt =>
    let x := m.portSt p
    if x.waiting.head? = some pkt ∧ x.unacked.length + flitCount pkt ≤ retryFlits p then
      (m.setPort p { x with waiting := x.waiting.drop 1 }).intoBuffer p pkt
    else m) m

/-- A packet joins those waiting at a port that is UP: one hop more, and dropped where that makes 24. -/
def queueOn (m : Mod) (p : Nat) (ahead : Bool) (pkt : Packet) : Mod :=
  if 24 ≤ pkt.hops + 1 then m.inc Reg.FAB_HOP_DROP
  else m.modPort p (fun x => { x with waiting := queuePacket ahead { pkt with hops := pkt.hops + 1 } x.waiting })

/-- A packet is sent on a port that is UP; it waits while the retry buffer has no room. -/
def sendOn (m : Mod) (p : Nat) (pkt : Packet) : Mod := (m.queueOn p false pkt).drainWaiting p

/-- The lowest port UP other than two. -/
def otherPort (m : Mod) (j k : Nat) : Option Nat := (List.range 13).find? (fun p => p != j && p != k && m.isUp p)

/-- A packet is detoured around port `k`: on port `j`, with FP_DETOUR `k`. -/
def detour (m : Mod) (pkt : Packet) (k : Nat) (j : Option Nat) : Mod :=
  match j with
  | some j => (m.inc Reg.FAB_DETOURS).sendOn j { pkt with detour := k }
  | none => m.inc Reg.FAB_HOP_DROP

/-- The alternate port toward a module, where it is UP; else the lowest port UP other than the failed one. -/
def alternate (m : Mod) (dst k : Nat) : Option Nat :=
  let a := m.fget (Fld.FAB_RT_ALT dst)
  if a != k && m.isUp a then some a else m.otherPort k k

/-- A packet for another module, received on port `j` (R271, R272). -/
def forward (m : Mod) (j : Nat) (pkt : Packet) : Mod :=
  if pkt.detour ≠ 15 then
    if m.isUp pkt.detour then m.sendOn pkt.detour { pkt with detour := 15 }
    else m.detour pkt pkt.detour (m.otherPort j pkt.detour)
  else if m.flag (Fld.FAB_RT_VALID pkt.dst) = false then m.inc Reg.FAB_HOP_DROP
  else
    let k := m.fget (Fld.FAB_RT_PRIMARY pkt.dst)
    if m.isUp k then m.sendOn k pkt else m.detour pkt k (m.alternate pkt.dst k)

/-- A packet of a lost link waits at its alternate port ahead of new traffic. -/
def reinjectOne (m : Mod) (p : Nat) (pkt : Packet) : Mod :=
  match m.alternate pkt.dst p with
  | some j => (m.inc Reg.FAB_DETOURS).queueOn j true { pkt with hops := pkt.hops - 1, detour := p }
  | none => m.inc Reg.FAB_HOP_DROP

/-- Every packet a lost link held is sent around it, with its FP_SEQ, ahead of new traffic for the same lane; how many of
the module's own packets it held, which are detoured with them, is a free value (R271; log entry 78). -/
def reinject (m : Mod) (p : Nat) (x : PortSt) : Mod :=
  let own := m.takeFree
  let m1 := own.2.addSat Reg.FAB_DETOURS own.1
  let m2 := ((x.unacked.filterMap (·.2)) ++ x.waiting).reverse.foldl (fun m pkt => m.reinjectOne p pkt) m1
  (List.range 13).foldl (fun m j => if (m.portSt j).waiting.isEmpty then m else m.drainWaiting j) m2

/-- A port leaves UP for another state. -/
def leaveUp (m : Mod) (p state : Nat) : Mod :=
  let x := m.portSt p
  let m1 := ((m.fset (Fld.FAB_P_STATE p) state).fset (Fld.FAB_P_WIDTH p) 0).setPort p
    { tried := true, downAt := m.now }
  let m2 := m1.fset Fld.FAB_PORTS_UP (m1.fget Fld.FAB_PORTS_UP &&& (0x1FFF - 2 ^ p))
  (m2.reinject p x).ownPorts

/-- A link goes DOWN: cause 0 loss of lock, 1 replays (R266). -/
def linkDown (m : Mod) (p cause : Nat) : Mod :=
  if m.isUp p then
    ((m.inc (Reg.FAB_P_DOWNS p)).postModule 0x0A2 (leBytes 1 p ++ leBytes 1 cause)).leaveUp p portDown
  else m

/-- A port sends again from a flit; the eighth time without an acknowledgement the link goes DOWN. -/
def replayFrom (m : Mod) (p seq : Nat) : Mod :=
  let m1 := (m.inc (Reg.FAB_P_REPLAYS p)).modPort p (fun x => { x with replays := x.replays + 1, ackDue := m.ackLimit x })
  if 8 ≤ (m1.portSt p).replays then m1.linkDown p 1 else m1.emit (.resend p seq)

/-- Flits up to one are acknowledged: of the packets of other modules, those up to it leave the retry buffer. An acknowledgement
that the port has had before is none (R266); a new one may be of flits of the module's own packets (log entry 78). -/
def ackFlits (m : Mod) (p ack : Nat) : Mod :=
  let x := m.portSt p
  if x.unacked.any (fun f => f.1 == ack) then
    let left := (x.unacked.dropWhile (fun f => f.1 != ack)).drop 1
    let y := { x with replays := 0, lastAck := ack, unacked := left, limits := x.limits.drop (x.unacked.length - left.length) }
    (m.setPort p { y with ackDue := m.ackLimit y }).drainWaiting p
  else if ack = x.lastAck then m
  else m.setPort p { x with replays := 0, lastAck := ack, ackDue := m.ackLimit x }

/-- A flit is received (R266): one in error, or past a flit that is missing, asks for a replay. -/
def flitReceive (m : Mod) (p : Nat) (f : FlitReport) : Mod :=
  if !m.isUp p then m
  else if !f.good then (m.inc (Reg.FAB_P_FLIT_ERR p)).emit (.replay p f.seq)
  else
    let want := (m.portSt p).rxSeq
    let m1 :=
      if f.seq = want then (m.modPort p (fun x => { x with rxSeq := (want + 1) % 65536 })).emit (.flitAck p f.seq)
      else if (f.seq + 65536 - want) % 65536 < 32768 then m.emit (.replay p want)
      else m.emit (.flitAck p f.seq)
    let m2 := m1.ackFlits p f.ack
    match f.replay with
    | some q => m2.replayFrom p q
    | none => m2

/-- The oldest flit of a port that is not acknowledged: of another module's packet, or else one of the module's own behind the
last flit acknowledged (log entry 78). -/
def oldestFlit (x : PortSt) : Nat := match x.unacked with | f :: _ => f.1 | [] => (x.lastAck + 1) % 65536

/-- Flits stand unacknowledged and no acknowledgement came for the round trip plus FAB_RETRY_US: the oldest is sent again,
and what follows it. -/
def replayTimeout (m : Mod) (p : Nat) : Mod :=
  if m.isUp p then m.expire (m.portSt p).ackDue (fun m => m.replayFrom p (oldestFlit (m.portSt p))) else m

/-! ### Training (R259 to R263) -/

/-- A port that is not UP takes another state, in no training stage; a change is told by a notice (R269). -/
def portTo (m : Mod) (p state : Nat) : Mod :=
  let m1 := ((m.fset (Fld.FAB_P_STATE p) state).fset (Fld.FAB_P_WIDTH p) 0).modPort p (fun x => { x with stage := 0 })
  if m.portState p = state then m1 else m1.ownPorts

/-- A port goes DOWN from another state: from training, or enabled again. -/
def portFalls (m : Mod) (p : Nat) : Mod :=
  ((m.inc (Reg.FAB_P_DOWNS p)).modPort p (fun x => { x with tried := true, downAt := m.now })).portTo p portDown

/-- A port is held in FAULT for a reason of Table 13.4. -/
def trainFault (m : Mod) (p reason : Nat) : Mod :=
  ((m.fset (Fld.FAB_P_FAULT p) reason).postModule 0x0A4 (leBytes 1 p ++ leBytes 1 reason)).portTo p portFault

/-- Training of a port in service starts at stage 1, under FAB_CTRL as it stands now (R276). -/
def startTraining (m : Mod) (p : Nat) : Mod :=
  if m.portInService p && !m.flag (Fld.FAB_P_DISABLE p) then
    let m1 := { m with fab := { m.fab with ctrl := tabPut (fun _ => none) m.fab.ctrl p (some (m.rd Reg.FAB_CTRL)) } }
    let m2 := ((m1.fset (Fld.FAB_P_FAULT p) 0).fput (Fld.FAB_P_RETRAIN p) false).setPort p
      { tried := true, stage := 1, stageAt := m.now }
    ((m2.fset (Fld.FAB_P_STATE p) portTraining).fset (Fld.FAB_P_WIDTH p) 0).ownPorts
  else m.portTo p portDisabled

/-- Stage 7 of the bring-up begins: every port in service is DOWN and about to train, every other DISABLED (R257). -/
def fabricStart (m : Mod) : Mod :=
  (List.range 13).foldl (fun m p =>
    (m.fset (Fld.FAB_P_CLASS p) (portClass p)).fset (Fld.FAB_P_STATE p)
      (if m.portInService p && !m.flag (Fld.FAB_P_DISABLE p) then portDown else portDisabled)) m

/-- Stage 7 ends: the first table is derived from the ports UP (R418). -/
def fabricReady (m : Mod) : Mod := m.deriveRoutes

/-- The fabric works: from stage 7 of the bring-up on. -/
def fabricOn (m : Mod) : Bool := m.boot.powered && (m.fget Fld.ID_BOOT_STAGE == 7 || m.fget Fld.ID_BOOT_STAGE == 8 || m.ready)

/-- Start-up training of a port. -/
def linkTraining (m : Mod) (p : Nat) : Mod :=
  if m.fabricOn && decide (p < 13) && m.portState p == portDown && !(m.portSt p).tried then m.startTraining p else m

/-- The retrain timer of a DOWN port. -/
def retrainTimer (m : Mod) (p : Nat) : Mod :=
  if m.fabricOn && decide (p < 13) && m.portState p == portDown && (m.portSt p).tried &&
      decide ((m.portSt p).downAt + m.rdN Reg.FAB_RETRAIN_S * 1000000000 ≤ m.now) then m.startTraining p
  else m

/-- The next stage of a port's training begins. -/
def nextTrain (m : Mod) (p : Nat) : Mod :=
  m.modPort p (fun x => { x with stage := x.stage + 1, stageAt := m.now })

/-- Estimated length of a link, dm (R260). -/
def linkLength (p delay : Nat) : Nat := delay * 100 / propagation (portClass p)

/-- The checks of stage 5, first reason first; 0 where none applies (Table 13.4). -/
def faultReason (m : Mod) (p : Nat) : Nat :=
  let partner := bitsOf (m.rdN (Reg.FAB_P_PARTNER p)) 12 0
  let port := bitsOf (m.rdN (Reg.FAB_P_PARTNER p)) 19 16
  let r := reachOf (portClass p)
  if partner ≠ partnerOf (m.crossedWiring p) p m.self ∨ port ≠ p then 2
  else if m.fget (Fld.FAB_CAP_CROSSED p) ≠ wordBits (m.portWord p) 0 0 ∨
      m.fget (Fld.FAB_CAP_DIMS p) ≠ wordBits (m.portWord p) 11 8 then 3
  else if r.1 + r.2 < m.rdN (Reg.FAB_P_LENGTH p) then 4
  else if m.fget (Fld.FAB_CAP_REV p) ≠ 1 then 5
  else if p = 12 ∧ (bitOf partner 12 = bitOf m.self 12 ∨ m.flag (Fld.FAB_CAP_PAIR p) = false) then 6
  else 0

/-- Stage 6: the port is UP. -/
def trainUp (m : Mod) (p : Nat) : Mod :=
  let m1 := (m.fset (Fld.FAB_P_STATE p) portUp).modPort p (fun x => { tried := true, rtt := x.rtt })
  let m2 := m1.fset Fld.FAB_PORTS_UP (m1.fget Fld.FAB_PORTS_UP ||| 2 ^ p)
  (m2.postModule 0x0A1 (leBytes 1 p ++ leBytes 2 (bitsOf (m.rdN (Reg.FAB_P_PARTNER p)) 12 0) ++
    leBytes 1 (m.fget (Fld.FAB_P_WIDTH p)) ++ leBytes 2 (m.rdN (Reg.FAB_P_LENGTH p)))).ownPorts

/-- The capabilities a port sends in stage 4 (Table 13.9). -/
def ownCaps (m : Mod) (p : Nat) : Word :=
  BitVec.ofNat 32 (2 ^ 24 + Config.fixedLatency p % 4096 * 2 ^ 12 + wordBits (m.portWord p) 11 8 * 256 +
    (if m.capacityProfile then 128 else 0) + wordBits (m.portWord p) 0 0 * 64 + wordBits (m.portWord p) 16 16 * 32 +
    m.fget (Fld.FAB_P_WIDTH p))

/-- A training stage ends; a report of another stage than the one running is no event. Stage 4 begins with the module's
own identity. -/
def trainStageEnd (m : Mod) (p : Nat) (r : TrainReport) : Mod :=
  if m.portState p ≠ portTraining ∨ ¬ p < 13 then m
  else
    match (m.portSt p).stage, r with
    | 1, .lanes loss =>
      let m0 := m.fset (Fld.FAB_P_LOSS_CLASS p) (worstLane loss)
      match trainLanes loss with
      | none => m0.trainFault p 1
      | some w =>
        let m1 := m0.fset (Fld.FAB_P_WIDTH p) w
        (m1.when (w == 4) (fun m => m.postModule 0x0A3 (leBytes 1 p ++ leBytes 1 w))).nextTrain p
    | 2, .aligned => m.nextTrain p
    | 3, .probes rtt => ((m.modPort p (fun x => { x with rtt := rtt })).nextTrain p).emit (.identity p m.self (m.ownCaps p))
    | 4, .identity partner port caps =>
      let m1 := (m.wrN (Reg.FAB_P_PARTNER p) (port % 16 * 2 ^ 16 + partner % 8192)).wr (Reg.FAB_P_CAPS p) caps
      let delay := min (((m1.portSt p).rtt - Config.fixedLatency p - m1.fget (Fld.FAB_CAP_FIXED_NS p)) / 2) 65535
      ((m1.wrN (Reg.FAB_P_DELAY p) delay).wrN (Reg.FAB_P_LENGTH p) (min (linkLength p delay) 65535)).nextTrain p
    | 5, .checks => if m.faultReason p = 0 then m.trainUp p else m.trainFault p (m.faultReason p)
    | _, _ => m

/-- Limit of a training stage in ms (Table 13.3). -/
def trainLimit (p stage : Nat) : Nat :=
  if stage = 1 then (if p = 12 then 6000 else 2000) else if stage = 2 then 100 else if stage = 5 then 1 else 10

/-- A training stage has run to its limit. -/
def trainTimeout (m : Mod) (p : Nat) : Mod :=
  if decide (p < 13) && m.portState p == portTraining &&
      decide ((m.portSt p).stageAt + trainLimit p (m.portSt p).stage * 1000000 ≤ m.now) then m.portFalls p
  else m

/-! ### Writes of the FAB_ block (R263, R274, R276) -/

/-- Port of a register of a port's block. -/
def portOfOff (off : Nat) : Nat := (off - 0x50100) / 0x40

/-- The map a write of FAB_LDIM_HI would arm. -/
def ldimMap (m : Mod) (v : Word) : Nat := m.rdN Reg.FAB_LDIM_LO + 2 ^ 32 * wordBits v 19 0

/-- The heat it would be armed for. -/
def ldimHeat (m : Mod) : Nat := m.rdN Reg.FAB_LDIM_AT_LO + 2 ^ 32 * m.rdN Reg.FAB_LDIM_AT_HI

/-- A permutation of ports 0 to n - 1 for dimensions 0 to n - 1, with dimension 12 at port 12. -/
def ldimOk (n l : Nat) : Bool :=
  (List.range n).all (fun p => (List.range n).any (fun j => logPort l j == p)) && logPort l 12 == 12

/-- The checks of the FAB_ block. -/
def fabCheck (m : Mod) (off : Nat) (v : Word) : Nat :=
  if off = Reg.FAB_CTRL then (if wordBits v 11 8 ≤ 12 then stOk else stMalformed)
  else if off = Reg.FAB_RESEQ_TMO then (if 1 ≤ v.toNat ∧ v.toNat ≤ 1000 then stOk else stMalformed)
  else if off = Reg.FAB_RETRAIN_S then (if 1 ≤ v.toNat ∧ v.toNat ≤ 255 then stOk else stMalformed)
  else if off = Reg.FAB_RETRY_US then (if 1 ≤ v.toNat ∧ v.toNat ≤ 100 then stOk else stMalformed)
  else if off = Reg.FAB_LDIM_HI ∧ bitOf v.toNat 31 = true then
    if m.heatNo + 2 ≤ m.ldimHeat ∧ ldimOk (m.fget Fld.FAB_DIMS) (m.ldimMap v) = true then stOk else stMalformed
  else stOk

/-- A refused arm clears the arm (R274). -/
def fabRefused (m : Mod) (off : Nat) (v : Word) : Mod :=
  if off = Reg.FAB_LDIM_HI && bitOf v.toNat 31 then
    ({ m with fab := { m.fab with ldim := none } }).fput Fld.FAB_LDIM_ARM false
  else m

/-- FAB_P_DISABLE and FAB_P_RETRAIN of a port. -/
def portCtrl (m : Mod) (p : Nat) (v : Word) : Mod :=
  let was := m.flag (Fld.FAB_P_DISABLE p)
  let m1 := m.fput (Fld.FAB_P_DISABLE p) (bitOf v.toNat 0)
  if bitOf v.toNat 0 then
    if m.isUp p then m1.leaveUp p portDisabled
    else m1.portTo p portDisabled
  else
    let m2 := m1.when (was && m.portInService p) (fun m => m.portFalls p)
    if bitOf v.toNat 1 && (m2.portState p == portDown || m2.portState p == portFault) then m2.startTraining p else m2

/-- The effect of an accepted write of the FAB_ block. -/
def fabEffect (m : Mod) (off : Nat) (v : Word) : Mod :=
  if 0x50100 ≤ off ∧ off < 0x50440 then m.portCtrl (portOfOff off) v
  else if off = Reg.FAB_LDIM_HI then
    let m1 := m.regStore off v
    { m1 with fab := { m1.fab with ldim := if bitOf v.toNat 31 then some (m.ldimHeat, m.ldimMap v) else none } }
  else m.regStore off v

/-- Step 2: an armed logical dimension map takes force in its heat. -/
def applyLdim (m : Mod) : Mod :=
  match m.fab.ldim with
  | some (h, l) =>
    if h = m.heatNo then
      (((m.wrN Reg.FAB_LDIM_NOW_LO (l % 2 ^ 32)).wrN Reg.FAB_LDIM_NOW_HI (l / 2 ^ 32)).fput Fld.FAB_LDIM_ARM false)
        |> fun m => { m with fab := { m.fab with ldim := none } }
    else m
  | none => m

/-! ### Packets for this module (R265, R268) -/

def flowSt (m : Mod) (x : Nat) : FlowSt := tabGet (fun _ => {}) m.fab.flows x
def setFlow (m : Mod) (x : Nat) (f : FlowSt) : Mod :=
  { m with fab := { m.fab with flows := tabPut (fun _ => {}) m.fab.flows x f } }

/-- Core a channel message's header addresses. -/
def headerCore (h : Nat) : Nat := bitsOf h 33 19 % 4 * 96 + bitsOf h 18 15 * 8 + bitsOf h 14 12

/-- A message image is discarded whole: its sequence number counts as used and its sender is told (R265). -/
def discardImage (m : Mod) (img : List Byte) : Mod :=
  let hb := img.take 32
  let h := leNat hb
  if headerOk hb && mhKind h == msgData then
    let n := headerCore h
    let c := m.inSt n (mhDstChan h)
    ((m.inc (Reg.CORE_DISCARD n)).setIn n (mhDstChan h) (passGone { c with gone := c.gone ++ [mhSeq h] })).emit
      (.discarded (mhSrcChip h) hb)
  else m

/-- A whole message image reaches its core. -/
def imageArrived (mem : Memory) (m : Mod) (img : List Byte) : Memory × Mod :=
  let hb := img.take 32
  let n := headerCore (leNat hb)
  let k := mhKind (leNat hb)
  if k = msgGrant then (mem, m.receiveGrant mem n hb)
  else if k = msgReturn then (mem, m.receiveReturn mem n hb)
  else if k = msgBind then (mem, m.receiveBind mem n hb)
  else m.receiveData mem n hb (img.drop 64)

/-- The packets skipped since an image's last one may have been the rest of its message and the head of another whose
next packet fits behind it just the same: `have_` bytes of the image are there. -/
def mayBeMixed (img : List Byte) (skipped : Nat) : Bool :=
  let have_ := img.length
  let total := 64 + 64 * mhLength (leNat (img.take 32))
  decide ((total - have_ + 4095) / 4096 + (have_ + 4095) / 4096 ≤ skipped)

/-- A CHANNEL packet is delivered: it continues the image in progress, or begins one, or shows that one has a gap. An
image that may lack packets is discarded (R265). -/
def channelPacket (mem : Memory) (m : Mod) (pkt : Packet) : Memory × Mod :=
  let f := m.flowSt pkt.src
  let have_ := match f.image with | some i => i.length | none => 0
  let cont := pkt.msgOff * 64 == have_ && !(f.image.any (fun i => mayBeMixed i f.skipped))
  let m1 := match f.image with
    | some i => if cont then m else m.discardImage i
    | none => m
  let img := if cont then some ((f.image.getD []) ++ pkt.payload) else if pkt.msgOff = 0 then some pkt.payload else none
  let m2 := m1.setFlow pkt.src { m1.flowSt pkt.src with image := if pkt.msgLast then none else img, skipped := 0 }
  match img with
  | some i => if pkt.msgLast then m2.imageArrived mem i else (mem, m2)
  | none => (mem, m2)

/-- Cell of an address in this module's buddy area. -/
def buddyCell (m : Mod) (a : Nat) : Option Nat :=
  match placeOf m a with
  | .tier1 c => if m.inBuddyArea c 1 then some c else none
  | _ => none

/-- Modules whose restores read this module's buddy area: its buddy, and the buddy's fellow on the partner plane (Table 20.4). -/
def buddyReader (m : Mod) (x : Nat) : Bool := x == Nat.xor m.self 1 || x == Nat.xor (Nat.xor m.self 4096) 1

/-- A packet is delivered in flow order: a message, a request to this module's memory, or traffic of another unit. The
buddy area takes the drain of this module's buddy, and is read by restores (R391, R394), the other units of those modules
being denied it where they issue (R390); SRAM takes no request of another module (R243). -/
def deliver (mem : Memory) (m : Mod) (pkt : Packet) (rs : Replies) : Memory × Mod :=
  let m1 := m.emit (.handed pkt)
  if pkt.kind = 5 then m1.channelPacket mem pkt
  else if pkt.kind = 2 then
    match m1.buddyCell pkt.addr with
    | some c =>
      if pkt.src = Nat.xor m1.self 1 then
        (memWrite mem c pkt.payload, (m1.clearWhole c pkt.payload.length).emit (.packet pkt.src 4 (leBytes 1 stOk)))
      else (mem, m1.emit (.packet pkt.src 4 (leBytes 1 stTierError)))
    | none => m1.meetWrite mem pkt
  else if pkt.kind = 1 then
    match m1.buddyCell (pkt.addr / 64 * 64) with
    | some c =>
      let r := if m1.buddyReader pkt.src then m1.readLocal mem c 64 none else (.done stTierError [], m1)
      (mem, match r.1 with
        | .done st bytes => r.2.emit (.packet pkt.src 4 (leBytes 1 st ++ bytes))
        | .waiting => r.2)
    | none => (mem, m1.meetRead mem pkt rs)
  else (mem, m1)

/-- When a gap that opens now closes by itself: FAB_RESEQ_TMO as it stands (R17, R268). -/
def gapLimit (m : Mod) : Nat := m.now + m.rdN Reg.FAB_RESEQ_TMO * 1000000

/-- Packets held behind a gap that has closed are delivered, as far as they follow on; a later gap stays open for its own
time. -/
def releaseHeldPackets (mem : Memory) (m : Mod) (src : Nat) (rs : Replies) : Memory × Mod :=
  (m.flowSt src).held.foldl (fun (p : Memory × Mod) _ =>
    let f := p.2.flowSt src
    match f.held with
    | [] => p
    | x :: rest =>
      if x.2.seq = f.next then
        (p.2.setFlow src { f with next := f.next + 1, held := rest }).deliver p.1 x.2 rs
      else p) (mem, m)

/-- Bytes in the resequence buffer. -/
def reseqBytes (m : Mod) : Nat :=
  m.fab.flows.foldl (fun n e => e.2.held.foldl (fun n p => n + 32 + p.2.payload.length) n) 0

/-- A packet for this module (R268): in its turn it is delivered with what waited for it; early it is held; late it is
a duplicate. -/
def resequence (mem : Memory) (m : Mod) (pkt : Packet) (rs : Replies) : Memory × Mod :=
  let f := m.flowSt pkt.src
  if pkt.seq < f.next ∨ f.held.any (fun x => x.2.seq == pkt.seq) = true then (mem, m.inc Reg.FAB_DUP)
  else if pkt.seq = f.next then
    let r := (m.setFlow pkt.src { f with next := f.next + 1 }).deliver mem pkt rs
    r.2.releaseHeldPackets r.1 pkt.src rs
  else if 0x1000000 < m.reseqBytes + 32 + pkt.payload.length then (mem, m)
  else
    (mem, m.setFlow pkt.src { f with held := insertPacket m.gapLimit pkt f.held })

/-- A packet is received on a port (R264, R268, R271, R272). -/
def packetReceive (mem : Memory) (m : Mod) (p : Nat) (hb payload : List Byte) (rs : Replies) : Memory × Mod :=
  if !m.isUp p then (mem, m)
  else if !packetOk hb then (mem, m.inc Reg.FAB_BAD_PKT)
  else
    let pkt := parsePacket hb payload
    if pkt.kind = 7 then (mem, m.emit (.handed pkt))
    else if pkt.dst = m.self then m.resequence mem pkt rs
    else (mem, m.forward p pkt)

/-- A gap has been open for FAB_RESEQ_TMO: it is closed and what waited behind it is delivered. -/
def gapTimeout (mem : Memory) (m : Mod) (src : Nat) (rs : Replies) : Memory × Mod :=
  let f := m.flowSt src
  match f.held with
  | [] => (mem, m)
  | x :: _ =>
    if x.1 ≤ m.now then
      let m1 := (m.inc Reg.FAB_RESEQ_GAP).postModule 0x0A6 (leBytes 2 src ++ leBytes 6 f.next)
      (m1.setFlow src { f with next := x.2.seq, skipped := f.skipped + (x.2.seq - f.next) }).releaseHeldPackets mem src rs
    else (mem, m)

end Mod

def execLinkTraining (p : Nat) (s : State) : Host.Outcome State Fault Refusal := nextMod s (fun m => m.linkTraining p)
def execTrainingStageEnd (p : Nat) (r : TrainReport) (s : State) : Host.Outcome State Fault Refusal :=
  nextMod s (fun m => m.trainStageEnd p r)
def execTrainingStageTimeout (p : Nat) (s : State) : Host.Outcome State Fault Refusal :=
  nextMod s (fun m => m.trainTimeout p)
def execRetrainTimer (p : Nat) (s : State) : Host.Outcome State Fault Refusal := nextMod s (fun m => m.retrainTimer p)
def execFlitReceive (p : Nat) (f : FlitReport) (s : State) : Host.Outcome State Fault Refusal :=
  nextMod s (fun m => m.flitReceive p f)
def execReplayTimeout (p : Nat) (s : State) : Host.Outcome State Fault Refusal := nextMod s (fun m => m.replayTimeout p)
def execLossOfLock (p : Nat) (s : State) : Host.Outcome State Fault Refusal := nextMod s (fun m => m.linkDown p 0)
def execPacketReceive (p : Nat) (header : List Byte) (x : List Byte × Replies) (s : State) :
    Host.Outcome State Fault Refusal :=
  nextMem s (fun mem m => m.packetReceive mem p header x.1 x.2)
def execReseqGapTimeout (x : Nat × Replies) (s : State) : Host.Outcome State Fault Refusal :=
  nextMem s (fun mem m => m.gapTimeout mem x.1 x.2)
def execLinkStateNotice (p : Nat) (n : LinkNotice) (s : State) : Host.Outcome State Fault Refusal :=
  nextMod s (fun m => m.linkNotice p n)

end Sys2Proof.Machine
end

