-- ==== Sys2Proof/Machine/UnitLoss.lean ====
section
/-!
DEFINITION. Lost units and modules, the release of a held cluster, and functions disabled with work in flight (R401 to
R408 of 20_casts_failures_and_recovery.md).
-/

namespace Sys2Proof.Machine

open Sys2Proof

/-- Causes of UNIT_LOST (Table 20.7). -/
def causeError : Nat := 1
def causeNoLink : Nat := 2
def causeRuntime : Nat := 3
def causeTime : Nat := 4

namespace Mod

/-! ### The end of a cast (R392) -/

/-- CAST_STATUS and the reset of the machinery: a cast has ended with a status. -/
def endCast (m : Mod) (status : Nat) : Mod :=
  match m.cast.run with
  | none => m
  | some r =>
    let m1 := ({ m with cast := { m.cast with run := none } }).fset castStateField 0
    ((m1.fset castLastField status).fput castHostField false).postModule 0x101
      (leBytes 4 r.number ++ leBytes 4 (m.rdN Reg.CAST_STOP_ACT) ++ leBytes 1 status)

/-- A unit lost while a cast is QUIESCING or COPYING ends it at once. -/
def lossEndsCast (m : Mod) : Mod :=
  if m.castState = 2 ∨ m.castState = 3 then
    let m1 := m.endCast stUnitLost
    { m1 with cast := { m1.cast with stopped := m1.cast.stopped.map (fun x => (x.1, 0)) } }
  else m

/-! ### Units (R401, R402) -/

/-- UNIT_LOST: level 0 core, 1 cluster, 2 die, 3 module. -/
def unitLostData (m : Mod) (level cause die cluster core module : Nat) : List Byte :=
  leBytes 1 level ++ leBytes 1 cause ++ leBytes 1 die ++ leBytes 1 cluster ++ leBytes 1 core ++ leBytes 2 module ++
    leBytes 4 (m.rdN Reg.CAST_LAST)

/-- A core stops for good: its work ends, its messages and its pattern go, and a PATTERN_LOAD to it ends with UNIT_LOST
(R402). -/
def killCore (m : Mod) (n : Nat) : Mod :=
  let m0 := match (m.coreSt n).loading with
    | some (r, i) => (m.modCore n (fun c => { c with loading := none })).completeRing r i stUnitLost 0
    | none => m
  let m1 := m0.dropWorks (fun w => w.who == .core n)
  let m2 := { m1 with msgs := m1.msgs.filter (fun x => x.core != n) }
  ((m2.fset (Fld.CORE_STATE n) 4).fput (Fld.CORE_VALIDATING n) false).modCore n (fun c => { c with
    issued := none, choice := none, stopMalformed := false })

/-- A cluster stops for good, with its cores, captures and banks. -/
def killCluster (m : Mod) (g : Nat) : Mod :=
  let m1 := (clusterCores g).foldl (fun m n => if m.coreState n = 4 then m else m.killCore n) m
  ((m1.dropBanks g).modArr g (fun a => { a with captures := [] })).modCluster g (fun c => { c with
    lost := true, missing := false, wdogDue := false, held := false })

def loseCore (m : Mod) (n cause : Nat) : Mod :=
  if m.coreState n = 4 then m
  else
    ((m.killCore n).endGoneMessages.lossEndsCast).postDie 0x104 (n / 96)
      (m.unitLostData 0 cause (n / 96) (n / 8 % 12) (n % 8) m.self)

def loseCluster (m : Mod) (g cause : Nat) : Mod :=
  if (m.clusterSt g).lost then m
  else ((m.killCluster g).endGoneMessages.lossEndsCast).postDie 0x104 (g / 12) (m.unitLostData 1 cause (g / 12) (g % 12) 0 m.self)

def loseDie (m : Mod) (d cause : Nat) : Mod :=
  if m.dieIsLost d then m
  else
    let m1 := (List.range 12).foldl (fun m c => if (m.clusterSt (12 * d + c)).lost then m else m.killCluster (12 * d + c)) m
    let m2 := ({ m1 with dieLost := tabPut (fun _ => false) m1.dieLost d true }).wrN Reg.CAST_DIE_LOST
      (m1.rdN Reg.CAST_DIE_LOST ||| 2 ^ d)
    (m2.endGoneMessages.lossEndsCast).postDie 0x104 d (m.unitLostData 2 cause d 0 0 m.self)

/-- The module declares itself lost on a time fault (R30): its work words, the descriptors it was carrying out and its
collectives end with UNIT_LOST (R401, R402). -/
def loseSelf (m : Mod) : Mod :=
  let m1 := m.postModule 0x104 (m.unitLostData 3 causeTime 0 0 0 m.self)
  let m2 := m1.dropWorks (fun _ => true)
  let m3 := (m2.hub.rings.filter (·.started)).foldl (fun m w => m.completeRing w.ring w.index stUnitLost 0) m2
  let m4 := (List.range 384).foldl (fun m n =>
    if (m.coreSt n).loading.isSome then m.modCore n (fun c => { c with loading := none }) else m) m3
  m4.endCollectives stUnitLost

/-- A unit's logic or SRAM reports an error it cannot correct, or a die keeps no link to the hub. -/
def unitError (m : Mod) (u : FailedUnit) : Mod :=
  if !m.boot.powered || m.fget Fld.ID_BOOT_STAGE < 6 then m
  else
    match u with
    | .core n => if n < 384 then m.loseCore n causeError else m
    | .cluster g => if g < 48 then m.loseCluster g causeError else m
    | .die d => if d < 4 then m.loseDie d causeError else m
    | .link d => if d < 4 then m.loseDie d causeNoLink else m

/-- What a warm reset keeps of lost units (R421). -/
def keepLost (old m : Mod) : Mod :=
  let m1 := (List.range 384).foldl (fun m n => if old.coreState n = 4 then m.fset (Fld.CORE_STATE n) 4 else m) m
  let m2 := (List.range 48).foldl (fun m g =>
    if (old.clusterSt g).lost then m.setCluster g { lost := true } else m) m1
  ({ m2 with dieLost := old.dieLost }).wr Reg.CAST_DIE_LOST (old.rd Reg.CAST_DIE_LOST)

/-! ### The release of a held cluster (R405) -/

/-- Cores of a cluster held by the watchdog return to RUNNING. -/
def releaseCluster (m : Mod) (g : Nat) : Mod :=
  ((clusterCores g).foldl (fun m n => if m.coreState n = 2 then m.fset (Fld.CORE_STATE n) 1 else m) m).modCluster g
    (fun c => { c with held := false, wdogDue := false, missing := false, missedTicks := 0 })
    |>.fset (Fld.HEAT_CM_CONSEC g) 0

/-! ### Modules (R403, R377) -/

/-- A module is a member of this module's job: it differs only in ports the job mask names. -/
def inJob (m : Mod) (x : Nat) : Bool :=
  let ports := (maskDims (m.fget Fld.COL_JOB_MASK)).foldl (fun k p => k ||| 2 ^ logPort m.ldimNow p.1) 0
  Nat.xor x m.self &&& (0x1FFF - ports % 0x2000) == 0

/-- The requests that are open to a module declared lost end with TIER_ERROR, and their tracker entries with them: of ladles, of
lookups and of contributions (R402, R403). -/
def endModuleRequests (m : Mod) (y : Nat) : Mod :=
  let m1 := m.endPort (y + 2)
  let m2 := m1.tables.lookups.foldl (fun m l => (List.range l.reqs.length).foldl (fun m k =>
    match m.findLookup l.work with
    | some l => match l.reqs[k]? with
      | some q =>
        if q.status.isNone && q.due.isSome && addrModule q.addr == y then
          m.endRow l k stTierError (List.replicate (tdDim (reqEntry l q)) .nan)
        else m
      | none => m
    | none => m) m) m1
  m2.tables.contribs.foldl (fun m c => (List.range c.rows.length).foldl (fun m k =>
    match m.findContrib c.work with
    | some c => match c.rows[k]? with
      | some r =>
        if r.outcome.isNone && r.due.isSome && addrModule r.far.addr == y then m.endContribRow c k stTierError false else m
      | none => m
    | none => m) m) m2

/-- Another module is declared lost. -/
def declareModule (m : Mod) (y : Nat) : Mod :=
  if bitOf (m.rdN (Reg.CAST_ML_MAP (y / 32))) (y % 32) then m
  else
    let m1 := m.wrN (Reg.CAST_ML_MAP (y / 32)) (m.rdN (Reg.CAST_ML_MAP (y / 32)) ||| 2 ^ (y % 32))
    let m2 := m1.postModule 0x104 (m.unitLostData 3 causeRuntime 0 0 0 y)
    let m3 := m2.when (m.inJob y) (fun m => { m with pwr := { m.pwr with cut := true } })
    (m3.endModuleRequests y).endGoneMessages.checkMembers

/-- A lost module rejoins. -/
def clearModule (m : Mod) (y : Nat) : Mod :=
  m.wrN (Reg.CAST_ML_MAP (y / 32)) (m.rdN (Reg.CAST_ML_MAP (y / 32)) &&& (2 ^ 32 - 1 - 2 ^ (y % 32)))

/-! ### Functions (R406 to R408) -/

/-- The selection of CAST_DIS_SEL: function, die, cluster, picker. -/
def disSel (m : Mod) : Nat × Nat × Nat × Nat :=
  let v := m.rdN Reg.CAST_DIS_SEL
  (bitsOf v 27 24, bitsOf v 13 12, bitsOf v 11 8, bitsOf v 0 0)

def disSelKey (m : Mod) : Nat := let s := m.disSel; fnKey s.1 s.2.1 s.2.2.1 s.2.2.2

/-- Works of a function: pickers and contributions by lookup, arrays and die ladles by unit, hub ladles by ring. -/
def fnWork (m : Mod) (f d c p : Nat) (w : Work) : Bool :=
  let onCluster := match w.who with | .core n => n / 8 == 12 * d + c | .ring _ _ => false
  if f = 1 then
    onCluster && (m.tables.lookups.any (fun l => l.work == w.id && l.picker == p) ||
      m.tables.contribs.any (fun l => l.work == w.id && l.picker == p))
  else if f = 2 then onCluster && w.unit == .array
  else if f = 3 then (match w.who with | .core n => n / 96 == d && w.unit == .ladle | .ring _ _ => false)
  else if f = 4 then (match w.who with | .ring _ _ => true | .core _ => false)
  else false

/-- Tracker entries still held for a function. -/
def fnTracked (m : Mod) (f d c p : Nat) : Bool :=
  let g := 12 * d + c
  if f = 1 then
    m.tables.lookups.any (fun l => l.core / 8 == g && l.picker == p && l.reqs.any (fun q => q.status.isNone)) ||
      m.tables.contribs.any (fun l => l.core / 8 == g && l.picker == p && l.rows.any (fun r => r.outcome.isNone))
  else if f = 3 then m.tables.orphans.any (fun o => o.2.1 == d)
  else if f = 5 then !m.col.insts.isEmpty
  else false

/-- Work of one disabled function ends with CANCELLED. -/
def cancelFunction (m : Mod) (f d c p : Nat) : Nat × Mod :=
  let k := (m.works.filter (m.fnWork f d c p)).length
  if f = 4 then
    let rings := m.hub.rings
    let m1 := m.dropWorks (m.fnWork f d c p)
    let m2 := rings.foldl (fun m w => m.completeRing w.ring w.index (if w.refused then stBusyRefused else stCancelled) 0) m1
    let m3 := (List.range 384).foldl (fun m n =>
      if ((m.coreSt n).loading).isSome then m.modCore n (fun c => { c with loading := none }) else m) m2
    ((rings.filter (fun w => !w.refused)).length, m3)
  else if f = 5 then (m.col.insts.length + m.col.starts.length, m.cancelCollectives)
  else (k, m.dropWorks (m.fnWork f d c p))

/-- Selections, in the order of their codes. -/
def allFunctions : List (Nat × Nat × Nat × Nat) :=
  (List.range 4).flatMap (fun d => (List.range 12).flatMap (fun c => [(1, d, c, 0), (1, d, c, 1), (2, d, c, 0)])) ++
    (List.range 4).flatMap (fun d => [(3, d, 0, 0), (6, d, 0, 0)]) ++ [(4, 0, 0, 0), (5, 0, 0, 0)]

/-- Step 1 of the boundary after a disable (R407). -/
def cancelDisabled (m : Mod) : Mod :=
  if m.disabled.isEmpty then m
  else allFunctions.foldl (fun m s =>
    let key := fnKey s.1 s.2.1 s.2.2.1 s.2.2.2
    let d := m.disSt key
    if d.on && d.draining && !d.closed then
      let r := m.cancelFunction s.1 s.2.1 s.2.2.1 s.2.2.2
      r.2.setDis key { d with closed := true, cancelled := min (d.cancelled + r.1) 65535 }
    else m) m

/-- The last tracker entry of a disabled function is gone (R408). -/
def disableDone (m : Mod) (f d c p : Nat) : Mod :=
  let key := fnKey f d c p
  let x := m.disSt key
  if x.on && !x.done && !m.works.any (m.fnWork f d c p) && !m.fnTracked f d c p &&
      !(f == 4 && !m.hub.rings.isEmpty) && !(f == 5 && !m.col.starts.isEmpty) then
    (m.setDis key { x with done := true, draining := false, closed := true }).postModule 0x106
      (leBytes 1 f ++ leBytes 1 d ++ leBytes 1 c ++ leBytes 4 x.cancelled)
  else m

/-- What CAST_DIS_STATE reads as. -/
def disView (m : Mod) : Nat :=
  let x := m.disSt m.disSelKey
  x.cancelled * 2 ^ 16 + (if x.on then 4 else 0) + (if x.draining then 2 else 0) + (if x.done then 1 else 0)

/-- A selection names a function of Table 20.6. -/
def disSelOk (v : Nat) : Bool := decide (1 ≤ bitsOf v 27 24 ∧ bitsOf v 27 24 ≤ 6 ∧ bitsOf v 11 8 ≤ 11)

/-- The status of a write of CAST_DIS_CMD: an enable waits for the end of the draining. -/
def disCmdStatus (m : Mod) (v : Word) : Nat :=
  if !bitOf v.toNat 31 then stOk
  else if !disSelOk (m.rdN Reg.CAST_DIS_SEL) then stMalformed
  else
    let x := m.disSt m.disSelKey
    if !bitOf v.toNat 30 && x.on && !x.done then stAccessDenied else stOk

/-- An accepted disable or enable. -/
def disCmd (m : Mod) (v : Word) : Mod :=
  if bitOf v.toNat 31 then
    if bitOf v.toNat 30 then
      if (m.disSt m.disSelKey).on then m else m.setDis m.disSelKey { on := true, draining := true }
    else m.setDis m.disSelKey {}
  else m

/-- What CAST_CLUSTER_STATE of a cluster reads as. -/
def clusterView (m : Mod) (g : Nat) : Nat :=
  let bits := fun (s : Nat) => (List.range 8).foldl (fun k i => if m.coreState (8 * g + i) = s then k + 2 ^ i else k) 0
  (if (m.clusterSt g).lost then 2 ^ 16 else 0) + bits 4 * 256 + bits 2

/-! ### Commands on units and modules -/

/-- The status of a write of CAST_UNIT_CMD (R401, R405). -/
def unitCmdStatus (m : Mod) (v : Word) : Nat :=
  let x := v.toNat
  if !bitOf x 31 then stOk
  else if bitsOf x 25 24 = 3 ∨ 11 < bitsOf x 11 8 then stMalformed
  else if bitOf x 30 then stOk
  else if bitsOf x 25 24 ≠ 1 then stMalformed
  else if (m.clusterSt (12 * bitsOf x 13 12 + bitsOf x 11 8)).held then stOk else stAccessDenied

/-- An accepted write of CAST_UNIT_CMD. -/
def unitCmd (m : Mod) (v : Word) : Mod :=
  let x := v.toNat
  let d := bitsOf x 13 12
  let g := 12 * d + bitsOf x 11 8
  if !bitOf x 31 then m
  else if bitOf x 30 then
    if bitsOf x 25 24 = 0 then m.loseCore (8 * g + bitsOf x 2 0) causeRuntime
    else if bitsOf x 25 24 = 1 then m.loseCluster g causeRuntime
    else m.loseDie d causeRuntime
  else m.releaseCluster g

end Mod

def execUncorrectableUnitError (u : FailedUnit) (s : State) : Host.Outcome State Fault Refusal :=
  nextMod s (fun m => m.unitError u)
def execDisableDone (f die cluster picker : Nat) (s : State) : Host.Outcome State Fault Refusal :=
  nextMod s (fun m => m.disableDone f die cluster picker)

end Sys2Proof.Machine
end

