-- ==== Sys2Proof/Machine/Casts.lean ====
section
/-!
DEFINITION. Casts and restores (R380 to R400 of 20_casts_failures_and_recovery.md), and the writes of the CAST_ block.
-/

namespace Sys2Proof.Machine

open Sys2Proof

/-- Object indices of the automatic objects (R381). -/
def ledgerObject : Nat := 1024
def holdObject : Nat := 1088

/-- Bytes before the objects of a slot (R391). -/
def slotHeader : Nat := 0x20000

namespace Mod

/-! ### The object table (R380, R381) -/

def objAddr (m : Mod) (k : Nat) : Nat := m.rd64 (Reg.CAST_OBJ_ADDR_LO k)
def objBytes (m : Mod) (k : Nat) : Nat := m.rdN (Reg.CAST_OBJ_SIZE k) * 64
def objValid (m : Mod) (k : Nat) : Bool := bitOf (m.rdN (Reg.CAST_OBJ_SETS k)) 31
def objIn (m : Mod) (set k : Nat) : Bool := m.objValid k && bitOf (m.rdN (Reg.CAST_OBJ_SETS k)) set

/-- Valid entries of the table, and those of a set. -/
def validObjects (m : Mod) : List Nat := (List.range 1024).filter (fun k => m.objValid k)
def setObjects (m : Mod) (set : Nat) : List Nat := (List.range 1024).filter (fun k => m.objIn set k)

/-- The cells of an object, where R380 lets it lie. -/
def objSpan (m : Mod) (k : Nat) : Option Span :=
  if m.objAddr k % 64 = 0 then (m.ownRegion (m.objAddr k) (m.objBytes k) false).map (fun c => ⟨c, m.objBytes k⟩) else none

/-- Every valid object lies where R380 says and apart from every other. -/
def objectsOk (m : Mod) : Bool :=
  let spans := m.validObjects.map (fun k => m.objSpan k)
  spans.all (·.isSome) &&
    spans.zipIdx.all (fun a => (spans.drop (a.2 + 1)).all (fun b => match a.1, b with
      | some x, some y => !overlaps x y
      | _, _ => false))

def objTier (m : Mod) (k : Nat) : Nat := if addrOffset (m.objAddr k) < tier1Base then 0 else 1

/-- Bytes in use of the ledger slots enabled, and of the ordered hold. -/
def autoBytes (mem : Memory) (m : Mod) : Nat :=
  (List.range 64).foldl (fun n k => if m.lgOn k then n + (m.lgValid mem k).length * m.lgSize k else n) 0 + m.heldBytes

/-- Bytes of a set's registered objects that meet a condition. -/
def setBytes (m : Mod) (set : Nat) (p : Nat → Bool) : Nat :=
  ((m.setObjects set).filter p).foldl (fun n k => n + m.objBytes k) 0

/-! ### The estimate (R383) -/

/-- CAST_EST_US of a set. -/
def castEstimate (mem : Memory) (m : Mod) (set : Nat) : Nat :=
  let b0 := m.setBytes set (fun k => m.objTier k == 0)
  let b1 := m.setBytes set (fun k => m.objTier k == 1) + m.autoBytes mem
  (1500 * 12000000 + b0 + 6 * b1 + 11999999) / 12000000

/-- The stated stop in microseconds: the estimate in whole heats. -/
def statedStop (mem : Memory) (m : Mod) (set : Nat) : Nat :=
  let p := m.heat.base.p
  if p = 0 then 0 else (m.castEstimate mem set + p - 1) / p * p

/-! ### Arming (R384) -/

def castSlots (m : Mod) : Nat := m.fget Fld.CAST_SLOTS

/-- Heat H as armed. -/
def castAt (m : Mod) : Nat := m.rdN Reg.CAST_AT_LO + 2 ^ 32 * bitsOf (m.rdN Reg.CAST_AT_HI) 15 0

/-- The checks of an arm of a set, in the state IDLE. -/
def castArmOk (mem : Memory) (m : Mod) (set : Nat) : Bool :=
  let n := m.rdN Reg.CAST_NUMBER
  let k := m.castSlots
  let auto := m.autoBytes mem
  let t1 := m.setBytes set (fun j => m.objTier j == 1) + auto
  let all := m.setBytes set (fun _ => true) + auto + slotHeader
  decide (m.heatNo + 2 ≤ m.castAt) && decide (m.cast.top < n) && n % k != m.rdN Reg.CAST_LAST % k && m.objectsOk &&
    (List.range 4).all (fun d => decide (m.setBytes set (fun j => m.objTier j == 0 && addrDie (m.objAddr j) == d) ≤
      bitsOf (m.rdN (Reg.CAST_RES0 d)) 21 16 * 2 ^ 30)) &&
    decide (t1 ≤ bitsOf (m.rdN Reg.CAST_RES1) 25 16 * 2 ^ 30) &&
    decide (all ≤ bitsOf (m.rdN Reg.CAST_BUDDY) 25 16 * 2 ^ 30) && decide (all ≤ m.rdN Reg.CAST_HOST_SIZE * 2 ^ 30)

/-- An accepted arm. -/
def armCast (m : Mod) : Mod :=
  let run : CastRun := {
    number := m.rdN Reg.CAST_NUMBER, heat := m.castAt, set := m.fget Fld.CAST_SET, step := m.rdN Reg.CAST_REC_STEP
    mb := bitsOf (m.rdN Reg.CAST_REC_MB) 15 0, paired := m.flag Fld.CAST_PAIRED }
  (({ m with cast := { m.cast with run := some run, top := run.number, partner := none } }).fset
    castStateField 1).fput Fld.CAST_UNCOMPARED false

/-! ### Step 2 of the boundary (R386, R387, R389) -/

/-- An armed cast meets its heat: it is admitted, or refused. -/
def admitCast (mem : Memory) (m : Mod) (tick : Nat) : Mod :=
  match m.cast.run with
  | some r =>
    if m.castState = 1 ∧ r.heat = m.heatNo then
      let l := m.statedStop mem r.set
      let t := m.resTimeNow mem
      let m1 := m.fput Fld.CAST_ARM false
      if l ≤ t ∧ m.cast.restoring.isNone = true then
        let pos := (List.range 16).map (fun p =>
          if m.laneOn p then (match m.readHeader mem p with
            | some h => h.2.2.2
            | none => m.rd64 (Reg.ING_P_CONSUME_POS_LO p)) else 0)
        let resume := (r.heat + l / m.heat.base.p) % 2 ^ 48
        let r1 := { r with
          stop := l, resume := resume, tick := tick, positions := pos
          producers := m.producers.foldl (fun k p => k + 2 ^ p) 0 }
        (({ m1 with cast := { m1.cast with run := some r1, stopped := some (tick, resume) } }).fset castStateField 2).wrN
          Reg.CAST_STOP_US l
      else
        ((({ m1 with cast := { m1.cast with run := none } }).fset castStateField 0).fset castLastField stBusyRefused).postModule
          0x102 (leBytes 4 r.number ++ leBytes 4 l ++ leBytes 4 t)
    else m
  | none => m

/-- Heat `a` is `b` or later, in serial order modulo 2^48. -/
def heatReached (a b : Nat) : Bool := decide ((a + 2 ^ 48 - b) % 2 ^ 48 < 2 ^ 47)

/-- The clusters choose again at the first boundary from the resume heat on at which the copy is in the reserve. -/
def resumeCast (m : Mod) (tick : Nat) : Mod :=
  match m.cast.stopped with
  | some (t0, resume) =>
    if m.castState ≠ 2 ∧ m.castState ≠ 3 ∧ (resume = 0 ∨ heatReached m.heatNo resume = true) then
      ({ m with cast := { m.cast with stopped := none } }).wrN Reg.CAST_STOP_ACT ((tick - t0) / 1000)
    else m
  | none => m

/-- Step 2 of a boundary for casts: the estimate, an admission, and the end of a stop. -/
def castBoundary (mem : Memory) (m : Mod) (tick : Nat) : Mod :=
  ((m.wrN Reg.CAST_EST_US (m.castEstimate mem (m.fget Fld.CAST_SET))).admitCast mem tick).resumeCast tick

/-- Clusters take no part in step 6 (R387). -/
def castStopped (m : Mod) : Bool := m.cast.stopped.isSome

/-! ### The copy (R388, R389) -/

/-- An object of a cast with the stretches it is read from: their bytes, and the worst status met (R227, R392). -/
def copyObject (mem : Memory) (p : List CastObj × Mod) (o : CastObj) (spans : List Span) : List CastObj × Mod :=
  let r := spans.foldl (fun (a : Nat × Mod) s =>
    let x := a.2.meet s.addr s.len (a.2.badIn s.addr s.len) none
    (if a.1 = stOk then x.1 else a.1, x.2)) (o.status, p.2)
  (p.1 ++ [{ o with bytes := spans.flatMap (fun s => memRead mem s.addr s.len), status := r.1 }], r.2)

/-- The objects of a cast as they stand: those of its set, the valid entries of every ledger slot, and the ordered hold
(R380, R381). -/
def castObjects (mem : Memory) (m : Mod) (set : Nat) : List CastObj × Mod :=
  let own := (m.setObjects set).foldl (fun p k => copyObject mem p
    { index := k, addr := m.objAddr k, size := m.rdN (Reg.CAST_OBJ_SIZE k), tier := m.objTier k
      status := if (m.objSpan k).isSome then stOk else stTierError }
    (m.objSpan k).toList) ([], m)
  let ledgers := ((List.range 64).filter (fun k => m.lgOn k)).foldl (fun p k =>
    let es := m.lgValid mem k
    copyObject mem p
      { index := ledgerObject + k, addr := m.rd64 (Reg.MEM_LG_BASE_LO k), size := es.length * m.lgSize k / 64, tier := 1 }
      (es.map (fun i => ⟨m.lgCell k i, m.lgSize k⟩))) own
  if m.rdN Reg.MEM_CR_HOLD_SIZE = 0 then ledgers
  else
    (ledgers.1 ++ [{ index := holdObject, addr := m.holdBase, size := m.heldBytes / 64, tier := 1
                     bytes := Config.holdImage m.tables.hold, rows := m.tables.hold }], ledgers.2)

/-- The accumulator banks of every cluster do not survive a cast (R73; they go when its copy begins: DEDUCED, log entry
125). -/
def dropAllBanks (m : Mod) : Mod := (List.range 48).foldl dropBanks m

/-- Every cluster has finished and no work word of a ladle is outstanding: the copy begins, and the record takes its
counters with it (R388, R393; DEDUCED, log entry 125). -/
def castCopy (mem : Memory) (m : Mod) : Mod :=
  match m.cast.run with
  | some r =>
    if m.castState = 2 ∧ (List.range 48).all (fun g => m.clusterFinished g) = true ∧
        m.works.any (fun w => w.unit == .ladle && (match w.who with | .core _ => true | .ring _ _ => false)) = false then
      let x := m.castObjects mem r.set
      ({ x.2 with cast := { x.2.cast with run := some { r with
        objs := x.1, le := (m.leOf r.step).getD m.latestLe.2, clean := m.num.clean, seed := m.seed } } }).dropAllBanks.fset
        castStateField 3
    else m
  | none => m

/-- An object whose copy met a failure: what stands in the reserve for it is not stated. -/
def failObject (fails : List (Nat × Answer)) (p : List CastObj × Mod) (o : CastObj) : List CastObj × Mod :=
  let st := match fails.find? (fun f => f.1 == o.index) with
    | some f => if answerStatus f.2 = stTierTimeout then stTierTimeout else stTierError
    | none => o.status
  if st = stOk then (p.1 ++ [o], p.2)
  else
    let b := p.2.freeBytes o.bytes.length
    (p.1 ++ [{ o with status := st, bytes := b.1 }], b.2)

/-- The copy and the record are in the reserve: the requests that waited are counted, and draining begins. -/
def castCopied (m : Mod) (late : Nat) (fails : List (Nat × Answer)) : Mod :=
  match m.cast.run with
  | some r =>
    if m.castState = 3 then
      let p := r.objs.foldl (failObject fails) ([], m)
      let r1 := { r with objs := p.1, late := late != 0 }
      ((({ p.2 with cast := { p.2.cast with run := some r1 } }).addSat Reg.CAST_LATE_WRITE late).fset castStateField 4).fput
        castHostField m.detached
    else m
  | none => m

/-! ### The record (Table 20.2) -/

/-- An object's entry in the record. -/
def recordEntry (o : CastObj) : List Byte :=
  leBytes 8 o.addr ++ leBytes 4 o.size ++ leBytes 2 o.index ++ leBytes 1 o.tier ++ leBytes 1 o.status ++
    List.replicate 16 0 ++ shake256 o.bytes

/-- The cast record. -/
def castRecord (m : Mod) (r : CastRun) : List Byte :=
  leBytes 4 r.number ++ leBytes 2 1 ++ leBytes 2 r.objs.length ++ leBytes 2 m.self ++ leBytes 1 r.set ++
    leBytes 1 ((if r.objs.any (fun o => o.status != stOk) then 4 else 0) + (if r.late then 2 else 0) +
      (if r.paired then 1 else 0)) ++
    leBytes 4 r.step ++ leBytes 2 r.mb ++ leBytes 2 r.producers ++ leBytes 6 r.heat ++
    leBytes 1 r.le ++ leBytes 1 0 ++ leBytes 4 r.clean ++ leBytes 8 r.tick ++
    leBytes 8 r.seed ++ List.replicate 16 0 ++ r.positions.flatMap (leBytes 8) ++
    List.replicate 64 0 ++ r.objs.flatMap recordEntry

/-- Objects at their places in a slot, with the offset after them. -/
def placeObjects (objs : List CastObj) : List (Nat × List Byte) :=
  (objs.foldl (fun (p : List (Nat × List Byte) × Nat) o =>
    (p.1 ++ [(p.2, o.bytes)], (p.2 + o.bytes.length + 63) / 64 * 64)) ([], slotHeader)).1

/-! ### Draining (R391, R392) -/

/-- Start of the slot of a cast in the buddy area of a module, and in this module's host region. -/
def buddySlot (m : Mod) (module number : Nat) : Nat :=
  let r := m.rdN Reg.CAST_BUDDY
  module * 2 ^ 51 + tier1Base + (bitsOf r 9 0 + number % m.castSlots * bitsOf r 25 16) * 2 ^ 30
def hostSlot (m : Mod) (number : Nat) : Nat :=
  m.base64 Reg.CAST_HOST_LO + number % m.castSlots * m.rdN Reg.CAST_HOST_SIZE * 2 ^ 30

/-- The status of the buddy part: the buddy is lost, or unreachable, or answered. -/
def buddyStatus (m : Mod) (ans : Answer) : Nat :=
  let b := Nat.xor m.self 1
  if bitOf (m.rdN (Reg.CAST_ML_MAP (b / 32))) (b % 32) then stUnitLost
  else if !m.flag (Fld.FAB_RT_VALID b) then stRouteLost
  else answerStatus ans

/-- The status that the objects of a cast give it (R392). -/
def copyStatus (r : CastRun) : Nat :=
  if r.objs.any (fun o => o.status == stTierError) then stTierError
  else if r.objs.any (fun o => o.status != stOk) then stTierTimeout else stOk

/-- What the drain writes to the buddy, data before record. -/
def drainBuddy (m : Mod) (r : CastRun) : Mod :=
  let base := m.buddySlot (Nat.xor m.self 1) r.number
  (placeObjects r.objs ++ [(0, m.castRecord r)]).foldl (fun m (x : Nat × List Byte) =>
    m.emit (.packet (Nat.xor m.self 1) 2 (leBytes 8 (base + x.1) ++ x.2))) m

/-- What the drain writes to the host, data before record, with the flush read behind it. -/
def drainHost (m : Mod) (r : CastRun) : Mod :=
  let base := m.hostSlot r.number
  let m1 := (placeObjects r.objs).foldl (fun m (x : Nat × List Byte) =>
    m.emit (.host ⟨base + x.1, x.2, m.flag Fld.HIF_RO_EN, .cast⟩)) m
  (m1.emit (.host ⟨base, m.castRecord r, false, .cast⟩)).emit (.hostRead base 64)

/-- The partner plane's record of a cast is compared object by object (R400). -/
def compareRecords (own other : List Byte) (m : Mod) : Mod :=
  let count := leNat ((own.drop 6).take 2)
  (List.range count).foldl (fun m j =>
    let at_ := 256 + 64 * j
    if ((own.drop (at_ + 32)).take 32) != ((other.drop (at_ + 32)).take 32) then
      (m.inc Reg.CAST_DIVERGED_COUNT).postModule 0x103 (own.take 4 ++ (own.drop (at_ + 12)).take 2)
    else m) m

/-- In paired operation the record goes to the other plane, and is compared with its record. -/
def sendRecord (m : Mod) (r : CastRun) : Mod :=
  if r.paired then
    let own := m.castRecord r
    let m1 := m.emit (.packet (Nat.xor m.self 4096) 8 own)
    match m.cast.partner with
    | some other => compareRecords own other { m1 with cast := { m1.cast with partner := none } }
    | none => { m1 with cast := { m1.cast with
        compare := m1.cast.compare ++ [(own, m.now + m.fget Fld.COL_TMO_MS * 1000000)] } }
  else m

/-- A complete cast. -/
def completeCast (m : Mod) (r : CastRun) : Mod :=
  let m1 := (r.objs.filter (fun o => o.index < 1024)).foldl (fun m o => m.wrN (Reg.CAST_OBJ_LAST o.index) r.number) m
  ((m1.sendRecord r).wrN Reg.CAST_LAST r.number).endCast stOk

/-- The buddy part of the drain ends: how, and the module with its writes gone out; a part that ended while the host part
waited has ended as it did. -/
def buddyPart (m : Mod) (r : CastRun) (buddy : Answer) : Nat × Mod :=
  match r.buddy with
  | some st => (st, m)
  | none => (m.buddyStatus buddy,
      if m.buddyStatus buddy = stUnitLost ∨ m.buddyStatus buddy = stRouteLost then m else m.drainBuddy r)

/-- Both parts of the drain have ended (R391, R392), each with what its writes and its flush read met. While the module is
detached the buddy part goes and the host part waits; a session that opened with HOST_EPOCH_CHANGED since has ended it. -/
def castDrained (m : Mod) (buddy host : Answer) : Mod :=
  match m.cast.run with
  | some r =>
    if m.castState ≠ 4 then m
    else
      let b := (m.buddyPart r buddy).1
      let m1 := (m.buddyPart r buddy).2
      if r.epochLost then m1.endCast stHostEpochChanged
      else if b ≠ stOk then (if m.detached then m1 else m1.drainHost r).endCast b
      else if m.detached then
        ({ m1 with cast := { m1.cast with run := some { r with buddy := some b } } }).fput castHostField true
      else
        let m2 := m1.drainHost r
        if answerStatus host ≠ stOk then m2.endCast (answerStatus host)
        else if copyStatus r ≠ stOk then m2.endCast (copyStatus r)
        else m2.completeCast r
  | none => m

/-- The partner plane's record arrives (R400). -/
def castCompare (m : Mod) (record : List Byte) : Mod :=
  match m.cast.compare.find? (fun c => c.1.take 4 == record.take 4) with
  | some c => compareRecords c.1 record { m with cast := { m.cast with
      compare := m.cast.compare.filter (fun x => x.1.take 4 != record.take 4) } }
  | none =>
    match m.cast.run with
    | some r =>
      if r.paired && leNat (record.take 4) == r.number then { m with cast := { m.cast with partner := some record } } else m
    | none => m

/-- The partner plane's record has not arrived within COL_TMO_MS, as a tick finds (R35, R400). -/
def compareTimeout (m : Mod) : Mod :=
  if m.cast.compare.any (fun c => decide (c.2 ≤ m.now)) && m.atTick then
    ({ m with cast := { m.cast with compare := m.cast.compare.filter (fun c => decide (m.now < c.2)) } }).fput
      Fld.CAST_UNCOMPARED true
  else m

/-! ### Restoring (R394 to R397) -/

/-- The restore ends with a status and a count of objects rejected. -/
def endRestore (m : Mod) (status rejected : Nat) : Mod :=
  ((({ m with cast := { m.cast with restoring := none } }).fput Fld.CAST_RS_ARM false).fput Fld.CAST_RS_BUSY false).wrN
    Reg.CAST_RS_STATUS (rejected * 2 ^ 16 + status)

/-- Codes of Table 20.4; PARTNER in paired operation only. -/
def sourceOk (m : Mod) (c : Nat) : Bool := c == 1 || c == 2 || (c == 3 && m.flag Fld.CAST_PAIRED)

/-- Where a restore reads the slot of its cast (Table 20.4): a buddy area, or this module's tier 2 window. -/
def slotAddr (m : Mod) (r : RestoreRun) (code : Nat) : Nat :=
  if code = 2 then m.self * 2 ^ 51 + tier2Base + (r.t2 + r.number % m.castSlots * m.rdN Reg.CAST_HOST_SIZE) * 2 ^ 30
  else m.buddySlot (if code = 3 then Nat.xor (Nat.xor r.module 4096) 1 else Nat.xor r.module 1) r.number

/-- A slot can be read: the module that holds it is reachable, or its granule of the window is (R229, R240, R310). -/
def slotReachable (m : Mod) (r : RestoreRun) (code : Nat) : Bool :=
  let a := m.slotAddr r code
  if code = 2 then m.reach a true == stOk else addrModule a == m.self || m.moduleReachable (addrModule a)

/-- The read of a record leaves: its first 256 bytes, which say how many entries follow. -/
def askRecord (m : Mod) (r : RestoreRun) (code : Nat) : Mod :=
  m.when (m.slotReachable r code) (fun m => m.askOut (m.slotAddr r code) 256)

/-- An arm of a restore (R394): the reads of both records leave. -/
def armRestore (m : Mod) : Mod :=
  let src := m.fget Fld.CAST_RS_SRC
  let repl := m.fget Fld.CAST_RS_REPL
  if !m.sourceOk src || !m.sourceOk repl || src == repl || m.fget Fld.CAST_RS_COUNT == 0 then m.endRestore stMalformed 0
  else if (m.castState ≠ 0 ∧ m.castState ≠ 4) ∨ m.noCoreBusy = false ∨ m.producers.isEmpty = false then
    m.endRestore stBusyRefused 0
  else
    let r : RestoreRun := {
      number := m.rdN Reg.CAST_RS_NUMBER, module := m.rdN Reg.CAST_RS_MODULE, src := src, repl := repl
      first := m.fget Fld.CAST_RS_FIRST, count := m.fget Fld.CAST_RS_COUNT, step := m.rdN Reg.CAST_RS_STEP
      mb := m.rdN Reg.CAST_RS_MB, mask := m.rdN Reg.CAST_RS_PMASK
      pos := (List.range 16).map (fun p => m.rd64 (Reg.CAST_RS_POS_LO p))
      t2 := m.rdN Reg.CAST_RS_T2 }
    (((({ m with cast := { m.cast with restoring := some r } }).fput Fld.CAST_RS_ARM true).fput Fld.CAST_RS_BUSY true).fput
      Fld.CAST_RS_LOCKED false).askRecord r src |>.askRecord r repl

/-- A record brought to the form in which two planes' records agree: bit 12 of the module and bit 63 of every address
are cleared, and so are the digests of objects outside the range (R395). -/
def normalRecord (r : RestoreRun) (bs : List Byte) : List Byte :=
  let bs := bs.take (256 + 64 * leNat ((bs.drop 6).take 2))
  bs.zipIdx.map (fun x =>
    let j := (x.2 - 256) / 64
    let o := (x.2 - 256) % 64
    if x.2 = 9 then x.1 &&& 0xEF
    else if x.2 < 256 then x.1
    else if o = 7 then x.1 &&& 0x7F
    else if 32 ≤ o ∧ (j < r.first ∨ r.first + r.count ≤ j) then 0
    else x.1)

/-- Format, number and module of a record agree with what is restored. -/
def recordOk (r : RestoreRun) (bs : List Byte) : Bool :=
  decide (256 ≤ bs.length) && leNat ((bs.drop 4).take 2) == 1 && leNat (bs.take 4) == r.number &&
    leNat ((bs.drop 8).take 2) % 4096 == r.module % 4096 &&
    decide (256 + 64 * leNat ((bs.drop 6).take 2) ≤ bs.length)

/-- The positions stated agree with the record's. -/
def positionsOk (r : RestoreRun) (bs : List Byte) : Bool :=
  leNat ((bs.drop 12).take 4) == r.step && leNat ((bs.drop 16).take 2) == r.mb && leNat ((bs.drop 18).take 2) == r.mask &&
    (List.range 16).all (fun p => !bitOf r.mask p || leNat ((bs.drop (64 + 8 * p)).take 8) == r.pos.getD p 0)

/-- An object entry of a record: its index, its bytes, its status and its digest. -/
def entryOf (bs : List Byte) (j : Nat) : Nat × Nat × Nat × List Byte :=
  let e := bs.drop (256 + 64 * j)
  (leNat ((e.drop 12).take 2), leNat ((e.drop 8).take 4) * 64, leNat ((e.drop 15).take 1), (e.drop 32).take 32)

/-- Ledger entries in an object's bytes name the table of the slot they go to. -/
def ledgerTableOk (m : Mod) (k : Nat) (bytes : List Byte) : Bool :=
  (List.range (bytes.length / m.lgSize k)).all (fun i =>
    leNat ((bytes.drop (i * m.lgSize k + 14)).take 2) % 4096 == m.lgTable k)

/-- An object has its destination on this module (check 4 of R395). -/
def destinationOk (m : Mod) (index bytes : Nat) (data : Option (List Byte)) : Bool :=
  if index < 1024 then m.objValid index && m.objBytes index == bytes && (m.objSpan index).isSome
  else if index < holdObject then
    let k := index - ledgerObject
    m.lgOn k && (m.lgBase k).isSome && bytes % m.lgSize k == 0 && decide (bytes ≤ m.lgCount k * m.lgSize k) &&
      (match data with | some d => m.ledgerTableOk k d | none => true)
  else index == holdObject && decide (bytes ≤ m.rdN Reg.MEM_CR_HOLD_SIZE * 2 ^ 20)

/-- First cell of an object's destination. -/
def destination (m : Mod) (index : Nat) : Nat :=
  if index < 1024 then ((m.objSpan index).map (·.addr)).getD 0
  else if index < holdObject then (m.lgBase (index - ledgerObject)).getD 0
  else match placeOf m (m.holdBase) with | .tier1 c => c | _ => 0

/-- A rejected object's destination is poisoned (R396). -/
def poisonObject (m : Mod) (cell len : Nat) : Mod := (linesOf cell len).foldl (fun m l => m.setLine l 2) m

/-- The valid entries of a ledger slot are free again. -/
def clearLedger (mem : Memory) (m : Mod) (k : Nat) : Memory :=
  (m.lgValid mem k).foldl (fun mem i => memWrite mem (m.lgCell k i + 15) [0]) mem

/-- An object's bytes reach their destination. -/
def putObject (mem : Memory) (m : Mod) (index : Nat) (bytes : List Byte) (rows : List HeldRow) : Memory × Mod :=
  let c := m.destination index
  if index < 1024 then (memWrite mem c bytes, m.clearWhole c bytes.length)
  else if index < holdObject then
    let mem1 := memWrite (m.clearLedger mem (index - ledgerObject)) c bytes
    (mem1, (m.clearWhole c bytes.length).showLedger mem1 (index - ledgerObject))
  else (mem, m.setHold rows)

/-- One object of the range is restored, or rejected; the stacks of a lost or halted die serve no write of it (R236, R402). -/
def restoreObject (replica : List Byte) (source : List Byte) (d : RestoreData) (p : Memory × Mod × List Nat)
    (j i : Nat) : Memory × Mod × List Nat :=
  let e := entryOf source j
  let bytes := ((d.objects.getD i none).map (padBytes e.2.1))
  let digest := (entryOf replica j).2.2.2
  let outcome := match bytes with
    | none => stTierError
    | some bs =>
      if e.2.2.1 ≠ stOk ∨ (decide (e.1 < holdObject) && p.2.1.stackDown (p.2.1.destination e.1)) = true then stTierError
      else if shake256 (if e.1 = holdObject then Config.holdImage d.hold else bs) ≠ digest then stDigestMismatch else stOk
  let r := if outcome = stOk then p.2.1.putObject p.1 e.1 (bytes.getD []) d.hold
    else (p.1, p.2.1.when (!p.2.1.stackDown (p.2.1.destination e.1)) (fun m => m.poisonObject (m.destination e.1) e.2.1))
  (r.1, if e.1 < 1024 then r.2.wrN (Reg.CAST_OBJ_RS e.1) outcome else r.2, p.2.2 ++ [outcome])

/-- The counters a restore writes (R397). Guard records that were taken and verdicts that were formed stay as they are
(DESIGN CHOICE, log entry 154). -/
def restoreCounters (m : Mod) (rec : List Byte) : Mod :=
  let step := leNat ((rec.drop 12).take 4)
  let mb := leNat ((rec.drop 16).take 2)
  let le := leNat ((rec.drop 26).take 1)
  let seed := leNat ((rec.drop 40).take 8)
  let m1 := m.setBase64 Reg.NUM_SEED_LO seed
  let m2 := (List.range 384).foldl (fun m n =>
    if m.coreState n = 4 then m else (m.wrN (Reg.CORE_STEP n) step).wrN (Reg.CORE_MB n) mb) m1
  let m3 := ({ m2 with num := { m2.num with
    les := [], first := some step, clean := leNat ((rec.drop 28).take 4), leRead := none } }).putLe step le
  ((m3.putLe (step + 1) le).showLe).fput Fld.CAST_RS_LOCKED true

/-- What a restore reads from a module's own buddy area. -/
def ownSlot (m : Mod) (r : RestoreRun) : Option Nat :=
  match placeOf m (m.buddySlot m.self r.number) with | .tier1 c => some c | _ => none

/-- The data of a restore whose source is this module's own buddy area is what stands there. -/
def ownData (mem : Memory) (m : Mod) (r : RestoreRun) (d : RestoreData) : RestoreData :=
  let own := fun (code : Nat) =>
    (code == 1 && Nat.xor r.module 1 == m.self) || (code == 3 && Nat.xor (Nat.xor r.module 4096) 1 == m.self)
  let slotRecord := fun (c : Nat) => memRead mem c (256 + 64 * min 1089 (memNat mem (c + 6) 2))
  let d1 := if own r.repl then { d with replica := (m.ownSlot r).map slotRecord } else d
  if own r.src then
    match m.ownSlot r with
    | some c =>
      let rec_ := slotRecord c
      let offs := (List.range (leNat ((rec_.drop 6).take 2))).foldl (fun (p : List Nat × Nat) j =>
        (p.1 ++ [p.2], p.2 + (entryOf rec_ j).2.1)) ([], slotHeader)
      { d1 with
        record := some rec_
        objects := (List.range r.count).map (fun i =>
          let at_ := c + offs.1.getD (r.first + i) 0
          let len := (entryOf rec_ (r.first + i)).2.1
          if m.badIn at_ len then none else some (memRead mem at_ len)) }
    | none => { d1 with record := none }
  else d1

/-- What the reads of a restore returned, as far as their slots can be read. -/
def slotData (m : Mod) (r : RestoreRun) (d : RestoreData) : RestoreData :=
  { d with record := if m.slotReachable r r.src then d.record else none
           replica := if m.slotReachable r r.repl then d.replica else none }

/-- The restore's checks, copies and counters (R395 to R397), on what its reads returned. -/
def restoreDone (mem : Memory) (m : Mod) (d0 : RestoreData) : Memory × Mod :=
  match m.cast.restoring with
  | none => (mem, m)
  | some r =>
    let d := m.ownData mem r (m.slotData r d0)
    match d.record, d.replica with
    | some a, some b =>
      if !recordOk r a || !recordOk r b then (mem, m.endRestore stMalformed 0)
      else if normalRecord r a != normalRecord r b then (mem, m.endRestore stDigestMismatch 0)
      else if !positionsOk r a then (mem, m.endRestore stPositionMismatch 0)
      else if leNat ((a.drop 6).take 2) < r.first + r.count ∨ (List.range r.count).all (fun i =>
          m.destinationOk (entryOf a (r.first + i)).1 (entryOf a (r.first + i)).2.1 (d.objects.getD i none)) = false then
        (mem, m.endRestore stMalformed 0)
      else
        let x := (List.range r.count).foldl (fun p i => restoreObject b a d p (r.first + i) i) (mem, m, [])
        let rejected := x.2.2.filter (· != stOk)
        let status := if rejected.contains stDigestMismatch then stDigestMismatch
          else if rejected.isEmpty then stOk else stTierError
        (x.1, ((x.2.1.restoreCounters a).endRestore status rejected.length).postModule 0x105
          (a.take 4 ++ (a.drop 12).take 6 ++ leBytes 2 rejected.length ++ leBytes 1 status))
    | _, _ => (mem, m.endRestore stTierError 0)

/-! ### Writes of the CAST_ block (R410) -/

/-- An entry of the object table. -/
def objRow (off : Nat) : Bool := decide (0x88000 ≤ off)

/-- The checks of the CAST_ block (R384, R394, R401, R403, R405, R406, R410). -/
def castCheck (mem : Memory) (m : Mod) (off : Nat) (v : Word) : Nat :=
  let x := v.toNat
  if off = Reg.CAST_CTRL then
    if bitsOf x 7 4 < 2 ∨ 8 < bitsOf x 7 4 then stMalformed
    else if !bitOf x 31 then stOk
    else if m.castState ≠ 0 then stAccessDenied
    else if (m.regStore off v).castArmOk mem (bitsOf x 3 0) then stOk else stMalformed
  else if objRow off then
    if 1 ≤ m.castState ∧ m.castState ≤ 3 then stAccessDenied else stOk
  else if off = Reg.CAST_RS_CTRL then
    if bitOf x 31 && m.cast.restoring.isSome then stAccessDenied else stOk
  else if off = Reg.CAST_RS_OBJ then
    if 1 ≤ bitsOf x 26 16 ∧ bitsOf x 26 16 ≤ 1089 then stOk else stMalformed
  else if off = Reg.CAST_UNIT_CMD then m.unitCmdStatus v
  else if off = Reg.CAST_ML_CMD then
    if bitOf x 31 && bitOf x 30 && bitsOf x 12 0 == m.self then stMalformed else stOk
  else if off = Reg.CAST_DIS_SEL then if disSelOk x then stOk else stMalformed
  else if off = Reg.CAST_DIS_CMD then m.disCmdStatus v
  else stOk

/-- A refused arm clears (R384). -/
def castRefused (m : Mod) (off : Nat) (v : Word) : Mod :=
  m.when (off == Reg.CAST_CTRL && bitOf v.toNat 31) (fun m => m.fput Fld.CAST_ARM false)

/-- The effect of an accepted write of the CAST_ block. -/
def castEffect (m : Mod) (off : Nat) (v : Word) : Mod :=
  let x := v.toNat
  if off = Reg.CAST_CTRL then
    let armed := m.flag Fld.CAST_ARM
    let m1 := (m.regStore off v).fput Fld.CAST_ARM (armed || bitOf x 31)
    (m1.fset ⟨Reg.CAST_STATUS, 25, 25⟩ (bitsOf x 30 30)).when (bitOf x 31) (fun m => m.armCast)
  else if off = Reg.CAST_HOST_HI then
    (m.regStore off v).setBase64 Reg.CAST_HOST_LO (m.rdN Reg.CAST_HOST_LO + 2 ^ 32 * x)
  else if off = Reg.CAST_RS_CTRL then
    let m1 := (m.fset Fld.CAST_RS_REPL (bitsOf x 5 4)).fset Fld.CAST_RS_SRC (bitsOf x 1 0)
    (m1.when (bitOf x 30) (fun m => m.fput Fld.CAST_RS_LOCKED false)).when (bitOf x 31) (fun m => m.armRestore)
  else if off = Reg.CAST_UNIT_CMD then m.unitCmd v
  else if off = Reg.CAST_ML_CMD then
    if !bitOf x 31 then m else if bitOf x 30 then m.declareModule (bitsOf x 12 0) else m.clearModule (bitsOf x 12 0)
  else if off = Reg.CAST_DIS_CMD then m.disCmd v
  else m.regStore off v

end Mod

def execCastCopy (s : State) : Host.Outcome State Fault Refusal := nextMod s (fun m => m.castCopy s.mem)
def execCastCopyDone (late : Nat) (fails : List (Nat × Answer)) (s : State) : Host.Outcome State Fault Refusal :=
  nextMod s (fun m => m.castCopied late fails)
def execCastDrainDone (buddy host : Answer) (s : State) : Host.Outcome State Fault Refusal :=
  nextMod s (fun m => m.castDrained buddy host)
def execCastCompare (record : List Byte) (s : State) : Host.Outcome State Fault Refusal :=
  nextMod s (fun m => m.castCompare record)
def execCastCompareTimeout (s : State) : Host.Outcome State Fault Refusal := nextMod s (fun m => m.compareTimeout)
def execRestoreDone (d : RestoreData) (s : State) : Host.Outcome State Fault Refusal :=
  nextMem s (fun mem m => m.restoreDone mem d)

end Sys2Proof.Machine
end

