-- ==== Sys2Proof/Machine/Power.lean ====
section
/-!
DEFINITION. Power, clock steps, the thermal ladder of the dies, and the power broker (19_power_and_thermal.md, with R235
and R236 of 11_memory_tiers.md).
-/

namespace Sys2Proof.Machine

open Sys2Proof

/-- Controller factor of a clock step, in 1/256 (Table 19.2). -/
def stepFactor (s : Nat) : Nat :=
  if s = 0 then 256 else if s = 1 then 206 else if s = 2 then 163 else if s = 3 then 98 else 74

/-- Fields of PWR_D_STEP (Table 19.9). -/
def stepField (d : Nat) : Field := ⟨Reg.PWR_D_STEP d, 18, 16⟩
def stackField (d : Nat) : Field := ⟨Reg.PWR_D_STEP d, 14, 12⟩
def junctionField (d : Nat) : Field := ⟨Reg.PWR_D_STEP d, 10, 8⟩
def controlField (d : Nat) : Field := ⟨Reg.PWR_D_STEP d, 6, 4⟩
def limitedField (d : Nat) : Field := ⟨Reg.PWR_D_STEP d, 0, 0⟩

/-- The clock steps a temperature demands: set from `hi` upward, a step each 2 degrees; step k is removed at
`lo + 2 (k - 1)` or below (R236, R369). -/
def thermalDemand (hi lo old t : Nat) : Nat :=
  let up := if hi ≤ t then max old (min 4 (1 + (t - hi) / 2)) else old
  (List.range 4).foldl (fun n _ => if n ≠ 0 ∧ t ≤ lo + 2 * (n - 1) then n - 1 else n) up

/-- Raise the die with the largest budgeted power, lowest first, while the prediction exceeds the cap (R368). Powers are
in units of 1/2560 W; `pa` lists each die's phase power in tenths of a watt, none for a halted die. -/
def allocSteps (cap fixed : Int) (pa : List (Option Nat)) : Nat → List Nat → List Nat
  | 0, steps => steps
  | fuel + 1, steps =>
    let power := fun (d : Nat) => match pa.getD d none with | some p => p * stepFactor (steps.getD d 0) | none => 0
    let total := fixed + (List.range 4).foldl (fun n d => n + (power d : Int)) 0
    let can := (List.range 4).filter (fun d => (pa.getD d none).isSome && decide (steps.getD d 0 < 4))
    match can with
    | [] => steps
    | c :: cs =>
      if total ≤ cap then steps
      else
        let d := cs.foldl (fun b x => if power b < power x then x else b) c
        allocSteps cap fixed pa fuel (steps.set d (steps.getD d 0 + 1))

/-- The power a step allocation predicts, 1/2560 W. -/
def predicted (fixed : Int) (pa : List (Option Nat)) (steps : List Nat) : Int :=
  fixed + (List.range 4).foldl (fun n d => match pa.getD d none with
    | some p => n + ((p * stepFactor (steps.getD d 0) : Nat) : Int)
    | none => n) 0

/-- The tokens that move between two modules (R375), seen by the first: positive it borrows, negative it lends. -/
def brokerMove (step : Nat) (a b : BrokerMsg) : Int :=
  if b.score < a.score ∧ a.limited = false then (min step (min b.spare a.room) : Nat)
  else if a.score < b.score ∧ b.limited = false then - ((min step (min a.spare b.room) : Nat) : Int)
  else if a.score = 0 ∧ b.score = 0 then
    if b.tokens + 1 < a.tokens then - ((min step (min ((a.tokens - b.tokens) / 2).toNat a.spare) : Nat) : Int)
    else if a.tokens + 1 < b.tokens then ((min step (min ((b.tokens - a.tokens) / 2).toNat b.spare) : Nat) : Int)
    else 0
  else 0

namespace Mod

def setPwr (m : Mod) (f : PwrSt → PwrSt) : Mod := { m with pwr := f m.pwr }

/-! ### Cap and tokens (R362, R377) -/

def tokens (m : Mod) : Int :=
  let v : Nat := m.rdN Reg.PWR_TOKENS % 2 ^ 16
  if v < 2 ^ 15 then (v : Int) else (v : Int) - 2 ^ 16

def setTokens (m : Mod) (t : Int) : Mod := m.wrN Reg.PWR_TOKENS (twos 16 t)

/-- cap_now in watts. -/
def capOf (m : Mod) (vin : Nat) : Nat :=
  let base := (m.rdN Reg.PWR_CAP_BASE : Int) + 10 * m.tokens
  min (if base < 1800 then 1800 else if 3600 < base then 3600 else base.toNat) (90 * vin / 1000)

def formCap (m : Mod) : Mod := m.wrN Reg.PWR_CAP_NOW (m.capOf (m.rdN Reg.PWR_VIN))

/-- Tokens at a step 2: arrivals, then a reset due, then the freeze after a partition or a lost member. -/
def tokenBoundary (m : Mod) : Mod :=
  let m1 := (m.setTokens (m.tokens + (m.pwr.credit : Int))).setPwr (fun p => { p with credit := 0 })
  let m2 := if m1.pwr.resetAt = some m.heatNo then
      (((m1.setTokens 0).fput Fld.PWR_TOKENS_FROZEN false).fput ⟨Reg.PWR_TOKEN_RESET_AT_HI, 31, 31⟩ false).setPwr
        (fun p => { p with resetAt := none })
    else m1
  if m2.pwr.cut then
    let m3 := m2.when (decide (0 < m2.tokens)) (fun m => m.setTokens 0)
    ((m3.fput Fld.PWR_TOKENS_FROZEN true).postModule 0x0E8 (leBytes 2 (m3.rdN Reg.PWR_TOKENS))).setPwr
      (fun p => { p with cut := false })
  else m2

/-! ### Phases (R367) -/

/-- EN_TAG of an entry of a core's active bank. -/
def entryTag (mem : Memory) (m : Mod) (n e : Nat) : Nat := enTag (imgSlot mem n (m.activeBank n) e)

/-- The entry a core chose, or holds. -/
def chosenEntry (m : Mod) (n : Nat) : Nat :=
  match (m.coreSt n).choice with
  | some c => c.entry
  | none => m.rdN (Reg.CORE_ENTRY n)

/-- The phase of a cluster in the heat it has just chosen for: by the core that holds the array lease, or else the
lowest running core. -/
def notePhase (mem : Memory) (m : Mod) (g : Nat) : Mod :=
  let lease := m.rdN (Reg.CORE_CL_LEASE g)
  let n := if bitOf lease 3 then some (8 * g + lease % 8) else (clusterCores g).find? (fun n => m.coreState n == 1)
  let t := match n with | some n => m.entryTag mem n (m.chosenEntry n) + 1 | none => 0
  m.setPwr (fun p => { p with phase := tabPut (fun _ => 0) p.phase g t })

/-- The phase a cluster is budgeted with at a boundary: of the entry its lowest running core is about to evaluate, or of
the entry a missing, held or stopped one holds; none for a cluster without a pattern. -/
def nextPhase (mem : Memory) (m : Mod) (g : Nat) : Option Nat :=
  let n := match (clusterCores g).find? (fun n => m.coreState n == 1) with
    | some n => some n
    | none => (clusterCores g).find? (fun n => m.coreState n == 2 || m.coreState n == 3)
  n.map (fun n => m.entryTag mem n (if (m.clusterSt g).missing then m.chosenEntry n else m.rdN (Reg.CORE_ENTRY n)))

/-- The learned value after a heat with metered power `p`, tenths of a watt, at clock step `s`. -/
def learn (l p s : Nat) : Nat :=
  let x := p * 256 / stepFactor s
  if l < x then min x 4095 else l - (l - x) / 16

/-- After a heat: the tables learn from every cluster that took part in it, and a clear due is made. -/
def learnAll (m : Mod) (meters : List Nat) : Mod :=
  let m1 := (List.range 48).foldl (fun m g =>
    match tabGet (fun _ => 0) m.pwr.phase g with
    | 0 => m
    | t + 1 =>
      let a := Reg.PWR_PHASE (g / 12) t
      m.wrN a (learn (m.rdN a) (meters.getD g 0) (m.fget (stepField (g / 12))))) m
  if m1.pwr.clear then
    ((List.range 4).foldl (fun m d => (List.range 256).foldl (fun m t =>
      m.wrN (Reg.PWR_PHASE d t) (10 * m.rdN Reg.PWR_PHASE_INIT)) m) m1).setPwr (fun p => { p with clear := false })
  else m1

/-! ### Temperature (R235, R236, R369 to R371) -/

/-- Hottest stack of a die. -/
def hotStack (m : Mod) (d : Nat) : Nat :=
  (List.range 4).foldl (fun t k => max t (m.fget (Fld.MEM_STK_TEMP d k))) 0

def junction (m : Mod) (d : Nat) : Nat := bitsOf (m.rdN (Reg.PWR_D_TJ d)) 7 0

/-- A halted die is cool enough to be released. -/
def dieCool (m : Mod) (d : Nat) : Bool := decide (m.hotStack d ≤ 90 ∧ m.junction d ≤ 95)

/-- The state a stack leaves HALT for. -/
def coolState (t : Nat) : Nat := if 92 < t then 2 else if 82 < t then 1 else 0

/-- A halted die is released: its stacks leave HALT, and it restarts at step 4. -/
def releaseDie (m : Mod) (d : Nat) : Mod :=
  let auto := m.flag (Fld.PWR_D_HALT_AUTO d)
  let asked := tabGet (fun _ => false) m.pwr.release d
  let m1 := (List.range 4).foldl (fun m k =>
    if m.fget (Fld.MEM_STK_STATE d k) = 3 then
      m.putStack (4 * d + k) (m.fget (Fld.MEM_STK_TEMP d k)) (coolState (m.fget (Fld.MEM_STK_TEMP d k)))
    else m) m
  ((m1.fput (Fld.PWR_D_HALTED d) false).setPwr (fun p => { p with release := tabPut (fun _ => false) p.release d false })).postDie
    0x0E3 d (leBytes 1 (m.hotStack d) ++ leBytes 1 (m.junction d) ++ leBytes 1 (if auto && !asked then 0 else 1))

/-- A die halts (R370). -/
def haltDie (m : Mod) (d : Nat) : Mod :=
  let stack := (List.range 4).any (fun k => m.fget (Fld.MEM_STK_STATE d k) == 3)
  (m.fput (Fld.PWR_D_HALTED d) true).postDie 0x0E2 d
    (leBytes 1 (m.hotStack d) ++ leBytes 1 (m.junction d) ++ leBytes 1 (if stack then 0 else 1))

/-- The steps a die's stacks demand, as PWR_D_STEP and each of the four MEM_STACK registers show them (R236, R238). -/
def demandStacks (m : Mod) (d n : Nat) : Mod :=
  (List.range 4).foldl (fun m k => m.fset (Fld.MEM_STK_DIE_STEPS d k) n) (m.fset (stackField d) n)

/-- A die's demands, release and halt at a step 2; the flag says that it was released now. -/
def thermalDie (m : Mod) (d : Nat) : Mod × Bool :=
  if m.dieIsLost d then (m, false)
  else
    let go := m.dieHalted d && m.dieCool d &&
      (m.flag (Fld.PWR_D_HALT_AUTO d) || tabGet (fun _ => false) m.pwr.release d)
    let m1 := m.when go (fun m => m.releaseDie d)
    let m2 := (m1.demandStacks d (thermalDemand 95 92 (m1.fget (stackField d)) (m1.hotStack d))).fset (junctionField d)
      (thermalDemand 105 102 (m1.fget (junctionField d)) (m1.junction d))
    let hot := (List.range 4).any (fun k => m2.fget (Fld.MEM_STK_STATE d k) == 3) || decide (115 ≤ m2.junction d)
    (m2.when (hot && !m2.dieHalted d) (fun m => m.haltDie d), go)

def demandOf (m : Mod) (d : Nat) : Nat := max (m.fget (stackField d)) (m.fget (junctionField d))

/-! ### Allocation (R363, R366, R368) -/

/-- Phase power of a die in tenths of a watt; none where it is halted or lost. -/
def diePower (mem : Memory) (m : Mod) (d : Nat) : Option Nat :=
  if m.dieHalted d || m.dieIsLost d then none
  else some ((List.range 12).foldl (fun n c =>
    match m.nextPhase mem (12 * d + c) with
    | some t => n + m.rdN (Reg.PWR_PHASE d t)
    | none => n) 0)

/-- A die takes its step for the heat. -/
def takeStep (m : Mod) (d new ctrl : Nat) : Mod :=
  let old := m.fget (stepField d)
  let m1 := ((m.fset (stepField d) new).fset (controlField d) ctrl).fput (limitedField d) (decide (ctrl < m.demandOf d))
  let clock := tabGet (fun _ => 0) m.pwr.clock d
  let m2 := m1.setPwr (fun p => { p with
    clock := tabPut (fun _ => 0) p.clock d (if clock ≤ new then new else clock)
    limited := p.limited || decide (ctrl < m.demandOf d) })
  if old = new then m2
  else (m2.inc (Reg.PWR_D_CHANGES d)).postDie 0x0E1 d
    (leBytes 1 old ++ leBytes 1 new ++ leBytes 1 (m.fget (stackField d)) ++ leBytes 1 (m.fget (junctionField d)) ++
      leBytes 1 ctrl)

/-- A halted die takes no step; it is thermal-limited while its stacks or its junction demand more than the controller's step
stood at (R373, Table 19.9). -/
def noteLimited (m : Mod) (d : Nat) : Mod :=
  let b := decide (m.fget (controlField d) < m.demandOf d)
  (m.fput (limitedField d) b).setPwr (fun p => { p with limited := p.limited || b })

/-- The steps of the heat: the controller's own, and those in force. -/
def allocate (mem : Memory) (m : Mod) (meters : List Nat) (released : List Nat) : Mod :=
  let pa := (List.range 4).map (fun d => m.diePower mem d)
  let sum := (List.range 48).foldl (fun n g => n + meters.getD g 0) 0
  let fixed : Int := (m.rdN Reg.PWR_PIN * 2560 : Nat) - ((sum * 256 : Nat) : Int)
  let cap : Int := (m.rdN Reg.PWR_CAP_NOW * 2560 : Nat)
  let first := (List.range 4).map (fun d =>
    if released.contains d then 4 else max (m.demandOf d) (m.fget (stepField d) - 1))
  let steps := allocSteps cap fixed pa 17 first
  let ctrl := allocSteps cap fixed pa 17 ((List.range 4).map (fun d => m.fget (controlField d) - 1))
  let peak := (predicted fixed pa steps).toNat
  let m1 := m.setPwr (fun p => { p with peak := max p.peak peak })
  (List.range 4).foldl (fun m d =>
    if m.dieIsLost d then m
    else if (pa.getD d none).isNone then m.noteLimited d
    else m.takeStep d (min 4 (steps.getD d 0 + if m.pwr.aboveCap then 1 else 0)) (ctrl.getD d 0)) m1

/-! ### Events of supplies and sensors (R364, R366, R369) -/

/-- The raised voltage of a die has been reached: its clock takes the step in force. -/
def voltageReached (m : Mod) (d : Nat) : Mod :=
  if d < 4 then m.setPwr (fun p => { p with clock := tabPut (fun _ => 0) p.clock d (m.fget (stepField d)) }) else m

/-- V_in falls below 40 V. -/
def vinLow (m : Mod) (vin : Nat) : Mod :=
  if m.ready && decide (vin < 40000) && !m.flag Fld.PWR_VIN_LOW then
    (m.fput Fld.PWR_VIN_LOW true).postModule 0x0E5 (leBytes 2 vin)
  else m

/-- The hub junction crosses 105 degrees rising or 100 falling. -/
def hubThermal (m : Mod) (tj : Nat) : Mod :=
  if !m.ready then m
  else
    let m1 := m.wrN Reg.PWR_HUB_TJ (min tj 255)
    if !m.pwr.hubHot && decide (105 ≤ tj) then
      (m1.setPwr (fun p => { p with hubHot := true })).postModule 0x0E7 (leBytes 1 tj ++ leBytes 1 1)
    else if m.pwr.hubHot && decide (tj ≤ 100) then
      (m1.setPwr (fun p => { p with hubHot := false })).postModule 0x0E7 (leBytes 1 tj ++ leBytes 1 0)
    else m1

/-- Coolant inlet or rise above its level. -/
def coolantWarn (m : Mod) (inlet outlet : Nat) : Mod :=
  if !m.ready then m
  else
    let m1 := m.wrN Reg.PWR_COOL (min outlet 255 * 256 + min inlet 255)
    if (40 < inlet ∨ inlet + 20 < outlet) ∧ m.flag Fld.PWR_COOLANT_WARN = false then
      (m1.fput Fld.PWR_COOLANT_WARN true).postModule 0x0E6 (leBytes 1 inlet ++ leBytes 1 outlet)
    else m1

/-- Coolant inlet and rise have fallen 2 degrees below their levels. -/
def coolantClear (m : Mod) (inlet outlet : Nat) : Mod :=
  if !m.ready then m
  else
    let m1 := m.wrN Reg.PWR_COOL (min outlet 255 * 256 + min inlet 255)
    if inlet ≤ 38 ∧ outlet ≤ inlet + 18 then m1.fput Fld.PWR_COOLANT_WARN false else m1

/-- What the sensors of a tick tell of the coolant and of the hub's junction, as the commands of R369 would (log entry 152). -/
def readSensors (m : Mod) (t : TickReport) : Mod :=
  let m1 := match t.coolant with
    | some (inlet, outlet) => (m.coolantWarn inlet outlet).coolantClear inlet outlet
    | none => m
  match t.hubTj with
  | some x => m1.hubThermal x
  | none => m1

/-- The power part of step 2. -/
def powerBoundary (mem : Memory) (m : Mod) (t : TickReport) : Mod :=
  let aboveCap := decide (m.rdN Reg.PWR_CAP_NOW < t.pin)
  let m1 := (m.learnAll t.meters).when aboveCap (fun m =>
    (m.inc Reg.PWR_OVERCAP).postModule 0x0E4 (leBytes 2 t.pin ++ leBytes 2 (m.rdN Reg.PWR_CAP_NOW)))
  let m2 := ((m1.wrN Reg.PWR_VIN (min t.vin 65535)).wrN Reg.PWR_PIN (min t.pin 8191)).fput ⟨Reg.PWR_STATUS, 1, 1⟩ aboveCap
  let m3 := (List.range 4).foldl (fun m d =>
    (m.wrN (Reg.PWR_D_TJ d) (min (t.tj.getD d 0) 255)).wrN (Reg.PWR_D_POWER d)
      (min ((List.range 12).foldl (fun n c => n + t.meters.getD (12 * d + c) 0) 0 / 10) 8191)) m2
  let m4 := ((if 40000 ≤ t.vin then m3.fput Fld.PWR_VIN_LOW false else m3.vinLow t.vin).readSensors t).setPwr
    (fun p => { p with aboveCap := aboveCap })
  let m5 := (m4.tokenBoundary).formCap
  let r := (List.range 4).foldl (fun (p : Mod × List Nat) d =>
    let x := p.1.thermalDie d
    (x.1, if x.2 then p.2 ++ [d] else p.2)) (m5, [])
  let m6 := r.1.allocate mem t.meters r.2
  m6.fput ⟨Reg.PWR_STATUS, 0, 0⟩ (m6.flag Fld.PWR_BROKER_EN && !m6.flag Fld.PWR_TOKENS_FROZEN)

/-! ### The broker (R373, R375) -/

/-- The partner of a period. -/
def brokerPartner (m : Mod) (k : Nat) : Option Nat :=
  match maskDims (m.fget Fld.COL_JOB_MASK) with
  | [] => none
  | ds => (ds[k % ds.length]?).map (fun p => Nat.xor m.self (2 ^ logPort m.ldimNow p.1))

def spareTokens (m : Mod) : Nat :=
  let cap := m.rdN Reg.PWR_CAP_NOW
  min (cap * 2560 - m.pwr.peak) ((cap - 1800) * 2560) / 25600

/-- A broker boundary: the period's score is formed, the exchange with the partner begins, and a new period starts. -/
def brokerBoundary (m : Mod) : Mod :=
  let h := m.fget Fld.PWR_BROKER_HEATS
  if !(m.ready && m.flag Fld.HEAT_RUNNING && m.flag Fld.PWR_BROKER_EN) || m.heatNo % h != 0 ||
      (m.pwr.sent.map (·.heat)) == some m.heatNo then m
  else
    match m.brokerPartner (m.heatNo / h) with
    | none => m
    | some x =>
      let score := min (m.pwr.missHeats * m.heat.base.p + m.pwr.lag) 0xFFFFFFFF
      let b : BrokerMsg := { src := m.self, heat := m.heatNo, score := score, limited := m.pwr.limited
                             tokens := m.tokens, spare := m.spareTokens, room := (3600 - m.rdN Reg.PWR_CAP_NOW) / 10 }
      ((m.wrN Reg.PWR_SCORE score).setPwr (fun p => { p with
        sent := some b, partner := x, waiting := true, missHeats := 0, lag := 0, peak := 0, limited := false })).emit (.broker x b)

/-- The partner's packet arrives: the lender lowers its tokens, the borrower's rise at its next step 2. -/
def brokerPacket (m : Mod) (x : BrokerMsg) : Mod :=
  match m.pwr.sent with
  | none => m
  | some own =>
    if !m.pwr.waiting || x.src != m.pwr.partner || x.heat != own.heat then m
    else
      let m1 := m.setPwr (fun p => { p with waiting := false })
      if m.flag Fld.PWR_TOKENS_FROZEN then m1
      else
        let t := brokerMove (m.fget Fld.PWR_TOKEN_STEP) own x
        if t < 0 then m1.setTokens (m1.tokens + t) else m1.setPwr (fun p => { p with credit := p.credit + t.toNat })

/-! ### Writes of the PWR_ block (R362, R371, R377, R379) -/

/-- The heat a token reset would be armed for. -/
def resetHeat (m : Mod) (v : Word) : Nat := m.rdN Reg.PWR_TOKEN_RESET_AT_LO + 2 ^ 32 * wordBits v 15 0

/-- The checks of the PWR_ block. -/
def pwrCheck (m : Mod) (off : Nat) (v : Word) : Nat :=
  let ok := fun (b : Bool) => if b then stOk else stMalformed
  if off = Reg.PWR_CAP_BASE then ok (decide (1800 ≤ v.toNat ∧ v.toNat ≤ 3600))
  else if off = Reg.PWR_BROKER_CFG then
    ok (decide (1 ≤ wordBits v 31 24 ∧ wordBits v 31 24 ≤ 100 ∧ 8 ≤ wordBits v 15 0 ∧ wordBits v 15 0 ≤ 4096))
  else if off = Reg.PWR_PHASE_INIT then ok (decide (1 ≤ v.toNat ∧ v.toNat ≤ 200))
  else if off = Reg.PWR_TOKEN_RESET_AT_HI then ok (!bitOf v.toNat 31 || decide (m.heatNo + 2 ≤ m.resetHeat v))
  else if 0x70100 ≤ off ∧ off < 0x70180 ∧ off % 0x20 = 0 ∧ bitOf v.toNat 31 = true then
    let d := (off - 0x70100) / 0x20
    if m.dieHalted d && m.dieCool d then stOk else stAccessDenied
  else stOk

/-- A refused token reset clears its arm. -/
def pwrRefused (m : Mod) (off : Nat) (v : Word) : Mod :=
  if off = Reg.PWR_TOKEN_RESET_AT_HI && bitOf v.toNat 31 then
    (m.fput ⟨Reg.PWR_TOKEN_RESET_AT_HI, 31, 31⟩ false).setPwr (fun p => { p with resetAt := none })
  else m

/-- The effect of an accepted write of the PWR_ block. -/
def pwrEffect (m : Mod) (off : Nat) (v : Word) : Mod :=
  if off = Reg.PWR_CTRL then
    let m1 := (m.regStore off v).fput Fld.PWR_PHASE_CLEAR false
    m1.when (bitOf v.toNat 1) (fun m => m.setPwr (fun p => { p with clear := true }))
  else if off = Reg.PWR_CAP_BASE ∨ off = Reg.PWR_BROKER_CFG ∨ off = Reg.PWR_PHASE_INIT then m.holdWrite off 0xFFFFFFFF v
  else if off = Reg.PWR_TOKEN_RESET_AT_HI then
    (m.regStore off v).setPwr (fun p => { p with resetAt := if bitOf v.toNat 31 then some (m.resetHeat v) else none })
  else if 0x70100 ≤ off ∧ off < 0x70180 ∧ off % 0x20 = 0 then
    let d := (off - 0x70100) / 0x20
    let m1 := (m.regStore off v).fput (Fld.PWR_D_RELEASE d) false
    m1.when (bitOf v.toNat 31) (fun m => m.setPwr (fun p => { p with release := tabPut (fun _ => false) p.release d true }))
  else m.regStore off v

end Mod

def execVoltageReached (d : Nat) (s : State) : Host.Outcome State Fault Refusal := nextMod s (fun m => m.voltageReached d)
def execVinLow (vin : Nat) (s : State) : Host.Outcome State Fault Refusal := nextMod s (fun m => m.vinLow vin)
def execHubThermal (tj : Nat) (s : State) : Host.Outcome State Fault Refusal := nextMod s (fun m => m.hubThermal tj)
def execCoolantWarn (inlet outlet : Nat) (s : State) : Host.Outcome State Fault Refusal :=
  nextMod s (fun m => m.coolantWarn inlet outlet)
def execCoolantWarnClear (inlet outlet : Nat) (s : State) : Host.Outcome State Fault Refusal :=
  nextMod s (fun m => m.coolantClear inlet outlet)
def execBrokerBoundary (s : State) : Host.Outcome State Fault Refusal := nextMod s (fun m => m.brokerBoundary)
def execBrokerPacket (x : BrokerMsg) (s : State) : Host.Outcome State Fault Refusal := nextMod s (fun m => m.brokerPacket x)

end Sys2Proof.Machine
end

