-- ==== Sys2Proof/Machine/Array.lean ====
section
/-!
DEFINITION. The matrix array of a cluster (03_matrix_array.md): pass checks, the exact sums, accumulator banks, drains,
slagged columns, and the shadow tiles of 05_numerical_guard.md (R117 to R121).
-/

namespace Sys2Proof.Machine

open Sys2Proof

/-! ### The pass block (Table 3.3), as a number of 512 bits -/

def pbM (b : Nat) : Nat := bitsOf b 7 0 + 1
def pbKt (b : Nat) : Nat := 32 * (bitsOf b 10 8 + 1)
def pbNw (b : Nat) : Nat := bitsOf b 19 11 + 1
def pbAFmt (b : Nat) : Nat := bitsOf b 29 26
def pbAT (b : Nat) : Bool := bitOf b 30
def pbAZp (b : Nat) : Nat := bitsOf b 38 31
def pbABase (b : Nat) : Nat := bitsOf b 53 39
def pbAPitch (b : Nat) : Nat := bitsOf b 63 54
def pbBFmt (b : Nat) : Nat := bitsOf b 93 90
def pbBT (b : Nat) : Bool := bitOf b 94
def pbBZp (b : Nat) : Nat := bitsOf b 102 95
def pbBBase (b : Nat) : Nat := bitsOf b 117 103
def pbBPitch (b : Nat) : Nat := bitsOf b 127 118
def pbBank (b : Nat) : Nat := bitsOf b 153 153
def pbAcc (b : Nat) : Bool := bitOf b 154
def pbFinish (b : Nat) : Bool := bitOf b 155
def pbDSpace (b : Nat) : Nat := bitsOf b 157 156
def pbDCore (b : Nat) : Nat := bitsOf b 160 158
def pbDT (b : Nat) : Bool := bitOf b 161
def pbDPitch (b : Nat) : Nat := bitsOf b 173 162
def pbDBase (b : Nat) : Nat := bitsOf b 191 174

def pbReservedOk (b : Nat) : Bool :=
  bitsOf b 511 192 == 0 && bitsOf b 152 128 == 0 && bitsOf b 89 64 == 0 && bitsOf b 25 20 == 0

/-- Element width of an operand format: 16, 8 or 4 (Table 3.1); 0 for a code that is no operand format. -/
def operandWidth (code : Nat) : Nat := if 2 ≤ code ∧ code ≤ 10 then elemBits code else 0

/-- The class of a pass: the wider of its operands (R68). -/
def passClass (b : Nat) : Nat := max (operandWidth (pbAFmt b)) (operandWidth (pbBFmt b))

/-- A zero point fits its operand (R68, R91). -/
def zpOk (fmt z : Nat) : Bool :=
  if fmt = 7 then true
  else if fmt = 8 then decide (-8 ≤ signedOf 8 z ∧ signedOf 8 z ≤ 7)
  else z == 0

/-- The formats of a pass are allowed. -/
def passFormatOk (b : Nat) : Bool :=
  operandWidth (pbAFmt b) != 0 && operandWidth (pbBFmt b) != 0 && isInt (pbAFmt b) == isInt (pbBFmt b) &&
    zpOk (pbAFmt b) (pbAZp b) && zpOk (pbBFmt b) (pbBZp b)

/-- The streamed and the stationary operand of a pass of core `n`. -/
def passA (n b : Nat) : Operand :=
  { fmt := pbAFmt b, zp := signedOf 8 (pbAZp b), t := pbAT b, tiled := true, at_ := transCell (n / 8) (64 * pbABase b)
    pitch := pbAPitch b }
def passB (n b : Nat) : Operand :=
  { fmt := pbBFmt b, zp := signedOf 8 (pbBZp b), t := pbBT b, tiled := true, at_ := transCell (n / 8) (64 * pbBBase b)
    pitch := pbBPitch b }

/-- The core whose local memory, or any core of the cluster, that a drain destination is seen from. -/
def drainSeer (n space dcore : Nat) : Nat := if space = 1 then n / 8 * 8 + dcore else n

/-- The destination of a drain, as an operand of binary32 words. -/
def drainOperand (n space dcore base pitch : Nat) (t : Bool) : Operand :=
  { fmt := 1, t := t, tiled := space == 2, at_ := spaceCell (drainSeer n space dcore) space + 64 * base, pitch := pitch }

/-- The drain region of a pass lies in its memory and its pitch holds a row (R74). -/
def drainOk (n b : Nat) : Bool :=
  let rows := if pbDT b then pbNw b else pbM b
  let cols := if pbDT b then pbM b else pbNw b
  let o := drainOperand n (pbDSpace b) (pbDCore b) (pbDBase b) (pbDPitch b) (pbDT b)
  pbDSpace b != 3 &&
    (if pbDSpace b = 2 then decide ((cols + 31) / 32 ≤ pbDPitch b) else decide (4 * cols ≤ 64 * pbDPitch b)) &&
    decide (64 * pbDBase b + storedBytes 1 o.pitch o.tiled rows cols ≤ spaceBytes (pbDSpace b))

/-- An operand's region lies in the buffer (R76). -/
def bufferOk (o : Operand) (g rows cols : Nat) : Bool :=
  decide ((o.span rows cols).addr + (o.span rows cols).len ≤ transCell g 0 + 0x200000)

/-- Presented width of a map (R83, R86). -/
def ColMap.width (c : ColMap) : Nat := if c.failed then 0 else 512 - c.slagged.length

/-- Surviving physical columns of a map, in order (R83). -/
def ColMap.columns (c : ColMap) : List Nat := (List.range 512).filter (fun j => !c.slagged.contains j)

namespace Mod

/-- The column map that the passes of a core's chosen entry run on: that of the moment of choice (R85). -/
def mapFor (m : Mod) (n : Nat) : ColMap := match (m.coreSt n).choice with | some c => c.cols | none => {}

/-- The first error of Table 3.4 that a pass word of core `n` with its block meets, 0 for none. A bank's tag is held against
the heat number alone, also after the count has begun again (DESIGN CHOICE, log entry 154). -/
def passError (m : Mod) (n w b : Nat) : Nat :=
  let g := n / 8
  let ptr := bitsOf w 55 42
  let h := m.boundHeat n
  let tag := some (⟨h, pbM b, pbNw b, isInt (pbAFmt b)⟩ : BankTag)
  if m.rdN (Reg.CORE_CL_LEASE g) ≠ 8 + n % 8 then 1
  else if bitsOf w 41 0 ≠ 0 then 2
  else if 0xE0000 < 64 * ptr + 64 then 5
  else if !pbReservedOk b then 2
  else if !passFormatOk b then 3
  else if (m.mapFor n).width < pbNw b ∨ (if passClass b = 4 then 7 else 3) < bitsOf b 10 8 ∨ pbAPitch b = 0 ∨
      pbBPitch b = 0 ∨ (pbFinish b = true ∧ pbDPitch b = 0) then 4
  else if !bufferOk (passA n b) g (pbM b) (pbKt b) ∨ !bufferOk (passB n b) g (pbKt b) (pbNw b) ∨
      (pbFinish b = true ∧ drainOk n b = false) then 5
  else if pbAcc b = true ∧ (if pbBank b = 0 then (m.arr g).tag0 else (m.arr g).tag1) ≠ tag then 6
  else 0

end Mod

/-! ### The exact sum (R70) -/

/-- The sum of products of one row and one column of a float pass. -/
def floatSum (ps : List Val) : Val :=
  if ps.any Val.isNan || (ps.any (· == .inf false) && ps.any (· == .inf true)) then .nan
  else if ps.any (· == .inf false) then .inf false
  else if ps.any (· == .inf true) then .inf true
  else
    let tops := ps.filterMap (fun p => match p with
      | .fin _ k e => if k = 0 then none else some (topExp k e)
      | _ => none)
    match tops with
    | [] => valZero
    | t :: ts =>
      let q := ts.foldl max t - 39
      let total := ps.foldl (fun (acc : Int) p => match p with
        | .fin s k e => acc + scaledTo s (roundAt .zero k e q) 0 0
        | _ => acc) 0
      f32Round (.fin (decide (total < 0)) total.natAbs q)

/-- The integer a value stands for. -/
def valToInt : Val → Int
  | .fin s k e => scaledTo s k e 0
  | _ => 0

/-- The exact sum of an integer pass. -/
def intSum (ps : List Val) : Int := ps.foldl (fun acc p => acc + valToInt p) 0

/-- The products of a streamed row and a stationary column. -/
def products (a b : List Val) : List Val := (a.zip b).map (fun p => p.1.mul p.2)

/-- The sum s of R70 as a 32-bit code. -/
def passSum (isInt : Bool) (a b : List Val) : Nat :=
  if isInt then twos 32 (intSum (products a b)) else f32Enc (floatSum (products a b))

/-- A 32-bit integer kept within its range. -/
def satInt32 (i : Int) : Int := max (-2147483648) (min 2147483647 i)

/-- Add a sum into a bank word, or start it: the new word, and whether it saturated. -/
def bankAdd (isInt acc : Bool) (old s : Nat) : Nat × Bool :=
  if !acc then (s, false)
  else if isInt then
    let t := signedOf 32 old + signedOf 32 s
    (twos 32 (satInt32 t), t != satInt32 t)
  else (f32Enc ((f32Of old).add (f32Of s)), false)

namespace Mod

/-! ### Passes (R72 to R75) -/

def bankKey (g bank r c : Nat) : Nat := ((g * 2 + bank) * 256 + r) * 512 + c
def bankWord (m : Mod) (g bank r c : Nat) : Nat := (tabGet (fun _ => (0 : Word)) m.banks (bankKey g bank r c)).toNat
def setBank (m : Mod) (g bank r c v : Nat) : Mod :=
  { m with banks := tabPut (fun _ => (0 : Word)) m.banks (bankKey g bank r c) (BitVec.ofNat 32 v) }

/-- Whether the generator of shadow tiles picks tile `i` of a pass (R117): with probability 2^-n, from a free value. -/
def tilePicked (m : Mod) (i : Nat) : Bool :=
  let k := m.fget Fld.NUM_SHADOW_LOG2
  k != 0 && (Config.freeWord (m.free + i)).toNat % 2 ^ k == 0

/-- Capture one output tile, or count it when both entries are full. -/
def captureTile (m : Mod) (g : Nat) (c : Capture) : Mod :=
  if (m.arr g).captures.length < 2 then m.modArr g (fun a => { a with captures := a.captures ++ [c] })
  else m.inc (Reg.NUM_DIE_CTR (g / 12) 9)

/-- The captures of a pass, from its operand rows, operand columns and sums. -/
def captureTiles (m : Mod) (g heat cls : Nat) (phys : List Nat) (as bs : List (List Val)) (ss : List (List Nat)) : Mod :=
  let tr := (as.length + 31) / 32
  let tc := (bs.length + 31) / 32
  let m1 := (List.range (tr * tc)).foldl (fun m' i =>
    if m.tilePicked i then
      let r0 := 32 * (i / tc)
      let c0 := 32 * (i % tc)
      m'.captureTile g
        { heat := heat, cls := cls, phys := ((phys.drop c0).take 32).take (bs.length - c0)
          a := (as.drop r0).take 32, b := (bs.drop c0).take 32
          sums := ((ss.drop r0).take 32).map (fun row => ((row.drop c0).take 32).map (BitVec.ofNat 32)) }
    else m') m
  { m1 with free := m.free + tr * tc }

/-- The class of a pass as events number it: 0 16-bit, 1 8-bit, 2 4-bit, 3 integer. -/
def classCode (b : Nat) : Nat :=
  if isInt (pbAFmt b) then 3 else if passClass b = 16 then 0 else if passClass b = 8 then 1 else 2

/-- The sums of a pass, row by row, with those of defective cells in their places. -/
def passSums (isInt : Bool) (faults : List (Nat × Nat × Word)) (as bs : List (List Val)) : List (List Nat) :=
  (List.range as.length).map (fun r => (List.range bs.length).map (fun c =>
    match faults.find? (fun f => f.1 == r && f.2.1 == c) with
    | some f => f.2.2.toNat
    | none => passSum isInt (as.getD r []) (bs.getD c [])))

/-- The sums land in their bank. -/
def landSums (m : Mod) (g bank : Nat) (isInt acc : Bool) (ss : List (List Nat)) : Mod :=
  (List.range ss.length).foldl (fun m r => (List.range (ss.getD r []).length).foldl (fun m c =>
    let x := bankAdd isInt acc (m.bankWord g bank r c) ((ss.getD r []).getD c 0)
    (m.setBank g bank r c x.1).when x.2 (fun m => m.inc (Reg.ARR_INT_SAT_COUNT g))) m) m

/-- The operands a pass's feeders read: rows of A and columns of B. -/
def passOperands (mem : Memory) (n b : Nat) : List (List Val) × List (List Val) :=
  ((passA n b).read mem (pbM b) (pbKt b), transposeGrid valZero (pbNw b) ((passB n b).read mem (pbKt b) (pbNw b)))

/-- The rows of A and columns of B of the pass its core has issued, as they stood at the issue: an access to the buffer is
ordered by issue, so no later write reaches them (R72, R79). -/
def issuedOperands (m : Mod) (n : Nat) : List (List Val) × List (List Val) :=
  match (m.coreSt n).issued with
  | some x => (x.a, x.b)
  | none => ([], [])

/-- A pass that passes its checks is issued to an array that is IDLE or in RAMP_DOWN: RAMP_UP begins (R82). -/
def rampUp (m : Mod) (n w b : Nat) : Mod :=
  let f := Fld.ARR_RAMP_STATE (n / 8)
  if !m.arrayOff (n / 8) && m.passError n w b == 0 && (m.fget f == 0 || m.fget f == 3) then m.fset f 1 else m

/-- The word that follows in a core's block, where it is a pass that waits for nothing but the array: it is in bounds, no
outstanding destination of its core lies under its sources (R49) and it passes its checks. -/
def passFollows (mem : Memory) (m : Mod) (n : Nat) : Bool :=
  match (m.coreSt n).choice with
  | none => false
  | some c =>
    let w := memNat mem (localCell n (64 * c.workPtr + 8 * c.next)) 8
    let b := memNat mem (localCell n (64 * bitsOf w 55 42)) 64
    let from_ := [(passA n b).span (pbM b) (pbKt b), (passB n b).span (pbKt b) (pbNw b)]
    !c.stopped && decide (c.next < c.workLen) && bitsOf w 63 56 == 1 && m.passError n w b == 0 &&
      !m.works.any (fun k => k.who == .core n && k.dst.any (fun d => from_.any (fun s => overlaps d s)))

/-- Another core of the cluster, or the block of core `n`, has a pass waiting for the array (R82). -/
def passWaits (mem : Memory) (m : Mod) (n : Nat) : Bool :=
  (coresOf (n / 8)).any (fun k => k != n && (m.issuedFor k 1).isSome) || m.passFollows mem n

/-- The last row of a pass has landed: with no pass waiting the array steps down (R82). -/
def passLeaves (mem : Memory) (m : Mod) (n : Nat) : Mod :=
  if m.passWaits mem n then m else m.fset (Fld.ARR_RAMP_STATE (n / 8)) 3

/-- A pass that passed its check streams its rows (R70, R80 to R82, R87). Where no pass waits behind it, the array enters
RAMP_DOWN; else it stays FULL (Table 3.5). -/
def runPass (mem : Memory) (m : Mod) (n w pos b : Nat) (rep : PassReport) : Mod :=
  let g := n / 8
  let h := m.boundHeat n
  let isI := isInt (pbAFmt b)
  let as := (m.issuedOperands n).1
  let bs := (m.issuedOperands n).2
  let ss := passSums isI rep.faults as bs
  let tag : BankTag := ⟨h, pbM b, pbNw b, isI⟩
  let m1 := m.modArr g (fun a => if pbAcc b then a else if pbBank b = 0 then { a with tag0 := some tag }
    else { a with tag1 := some tag })
  let m2 := m1.landSums g (pbBank b) isI (pbAcc b) ss
  let m3 := (m2.addSat64 (Reg.ARR_FREEZE_FEED_LO g) rep.feed).addSat64 (Reg.ARR_FREEZE_DRAIN_LO g) rep.drain
  let m4 := m3.addSat64 (Reg.ARR_STREAM_CYCLES_LO g) (pbM b * (if passClass b = 16 then 2 else 1))
  let m5 := (m4.fset (Fld.ARR_RAMP_STATE g) 2).captureTiles g m.heatNo (classCode b) (m.mapFor n).columns as bs ss
  if pbFinish b then
    let d : DrainWork :=
      { work := m5.nextId, core := n, bank := pbBank b, m := pbM b, nw := pbNw b, t := pbDT b, space := pbDSpace b
        dcore := pbDCore b, base := pbDBase b, pitch := pbDPitch b }
    let dst := (drainOperand n d.space d.dcore d.base d.pitch d.t).span (pbM b) (pbNw b)
    ((m5.modArr g (fun a => { a with drains := a.drains ++ [d] })).launch n .array pos w [dst]).passLeaves mem n
  else ((m5.takeWord n).inc (Reg.ARR_PASS_COUNT g)).passLeaves mem n

/-- The array takes the pass word its core has issued; a bank still being drained keeps it waiting in FULL (R81). -/
def arrayPass (mem : Memory) (m : Mod) (n : Nat) (rep : PassReport) : Mod :=
  match m.issuedFor n 1 with
  | none => m
  | some (w, pos, b) =>
    let g := n / 8
    if m.arrayOff g then m.refuseWord n
    else
      let e := m.passError n w b
      if e ≠ 0 then m.rejectWord n (Reg.ARR_PASS_ERR g) e
      else if (m.arr g).drains.any (fun d => d.bank == pbBank b) then m.fset (Fld.ARR_RAMP_STATE g) 2
      else m.runPass mem n w pos b rep

/-- The oldest bank to be drained of a cluster is written out, and its pass completes (R74); the array of a halted die holds its
state (R370). -/
def arrayDrain (mem : Memory) (m : Mod) (g : Nat) : Memory × Mod :=
  match (if m.dieHalted (g / 12) then [] else (m.arr g).drains) with
  | [] => (mem, m)
  | d :: ds =>
    let m1 := m.modArr g (fun a => { a with drains := ds })
    if (m.findWork d.work).isNone then (mem, m1)
    else
      let o := drainOperand d.core d.space d.dcore d.base d.pitch d.t
      let grid := (List.range d.m).map (fun r => (List.range d.nw).map (fun c => m.bankWord g d.bank r c))
      let wr : Writing := { mem := mem, m := m1 }
      let w := wr.words o d.m d.nw grid
      (w.mem, (w.m.inc (Reg.ARR_PASS_COUNT g)).endWork d.work (if w.denied then stAccessDenied else stOk))

/-- With no pass waiting the array has stepped down and is IDLE (R82); that of a halted die holds its state (R370). -/
def rampDown (m : Mod) (g : Nat) : Mod :=
  if m.dieHalted (g / 12) || (coresOf g).any (fun n => (m.issuedFor n 1).isSome) then m else m.fset (Fld.ARR_RAMP_STATE g) 0

/-! ### Slagged columns (R83 to R86) -/

/-- ARR_STATUS and ARR_SLAG_MAP show the columns slagged. -/
def showWidth (m : Mod) (g : Nat) : Mod :=
  let a := m.arr g
  let m1 := (List.range 16).foldl (fun m i => m.wrN (Reg.ARR_SLAG_MAP g i)
    ((List.range 32).foldl (fun x j => if a.slag.any (fun s => s.1 == 32 * i + j) then x + 2 ^ j else x) 0)) m
  ((m1.fset (Fld.ARR_SLAG_K g) a.slag.length).fput (Fld.ARR_FAILED g) a.failed).fset (Fld.ARR_WIDTH g)
    (if a.failed then 0 else 512 - a.slag.length)

/-- A column is slagged with its source, or, as the 33rd, fails the array. -/
def slagNow (m : Mod) (g col src : Nat) : Mod :=
  let a := m.arr g
  if a.failed || a.slag.any (fun s => s.1 == col) then m
  else if 32 ≤ a.slag.length then
    ((m.setArr g { a with failed := true, failStop := true }).showWidth g).postCluster 0x188 g (leBytes 2 col)
  else
    let slag := a.slag ++ [(col, src)]
    (((m.setArr g { a with slag := slag }).showWidth g).wrN (Reg.ARR_SLAG_LAST g) (src * 65536 + col)).postCluster 0x187 g
      (leBytes 2 col ++ leBytes 1 src ++ leBytes 2 (512 - slag.length))

/-- Slaggings found or accepted take effect in step 2 (R84). -/
def applySlags (m : Mod) (g : Nat) : Mod :=
  let a := m.arr g
  if a.slagPend.isEmpty then m
  else
    let m1 := m.setArr g { a with slagPend := [] }
    let m2 := a.slagPend.foldl (fun m p => m.slagNow g p.1 p.2) m1
    (m2.fput (Fld.ARR_SLAG_PEND g) false).fput (Fld.ARR_SLAG_ARM g) false

/-- A column is to be slagged at the next boundary. -/
def requestSlag (m : Mod) (g col src : Nat) : Mod :=
  (m.modArr g (fun a => { a with slagPend := a.slagPend ++ [(col, src)] })).fput (Fld.ARR_SLAG_PEND g) true

/-- What a power-on leaves of the arrays: the columns of source 1 (R84). -/
def otpColumns (t : Tab ArraySt) : Tab ArraySt :=
  t.foldl (fun acc e =>
    let keep := (tabGet (fun _ => {}) t e.1).slag.filter (fun s => s.2 == 1)
    tabPut (fun _ => {}) acc e.1 { slag := keep }) []

/-- What a warm reset leaves of the arrays: slagged columns and failed arrays (R421). -/
def keepColumns (t : Tab ArraySt) : Tab ArraySt :=
  t.foldl (fun acc e =>
    let a := tabGet (fun _ => {}) t e.1
    tabPut (fun _ => {}) acc e.1 { slag := a.slag, failed := a.failed }) []

def slagCount (m : Mod) (g : Nat) : Nat := (m.arr g).slag.length

/-- Captures waiting are dropped and counted (R428). -/
def dropCaptures (m : Mod) (g : Nat) : Mod :=
  (m.modArr g (fun a => { a with captures := [] })).addSat (Reg.NUM_DIE_CTR (g / 12) 9) (m.arr g).captures.length

/-- Some alternative of a core's running pattern takes the array. -/
def patternUsesArray (mem : Memory) (m : Mod) (n : Nat) : Bool :=
  let h := m.header mem n
  ((entryRange (phLast h)).map (imgSlot mem n (m.activeBank n))).any (fun e =>
    enKind e == 1 && (List.range (enAltCount e)).any (fun a => alArray (entryAlt e a)))

/-- A failed array stops the running patterns that take it, at the next step 6 (R86). -/
def failedStop (mem : Memory) (m : Mod) (g : Nat) : Mod :=
  if (m.arr g).failStop then
    ((coresOf g).foldl (fun m n =>
      if m.coreState n = 1 ∧ m.patternUsesArray mem n then m.stopPattern mem n stOk 7 else m) m).modArr g
        (fun a => { a with failStop := false })
  else m

/-! ### Shadow tiles (R118 to R121) -/

/-- Reference of one element: fused multiply-adds in k order, and the sum of magnitudes formed alongside. -/
def shadowRef (a b : List Val) : Val × Val :=
  (a.zip b).foldl (fun (p : Val × Val) x => (f32Fma x.1 x.2 p.1, f32Fma x.1.abs x.2.abs p.2)) (valZero, valZero)

/-- An element agrees under Table 5.1. -/
def shadowAgrees (cls bound : Nat) (a b : List Val) (s : Nat) : Bool :=
  if cls = 3 then intSum (products a b) == signedOf 32 s
  else
    let r := shadowRef a b
    let sv := f32Of s
    match sv, r.1 with
    | .nan, .nan => true
    | .inf x, .inf y => x == y
    | .fin _ _ _, .fin _ _ _ =>
      ((sv.add r.1.neg).abs).le ((r.2.mul (.fin false 1 (- (bound : Int)))).add (.fin false 1 (-149)))
    | _, _ => false

/-- B of a class (Table 5.11). -/
def shadowBound (m : Mod) (cls : Nat) : Nat :=
  if cls = 0 then m.fget Fld.NUM_SHADOW_B16 else if cls = 1 then m.fget Fld.NUM_SHADOW_B8
  else m.fget Fld.NUM_SHADOW_B4

/-- Tile columns of a capture that hold a disagreeing element. -/
def badColumns (m : Mod) (c : Capture) : List Nat :=
  (List.range c.b.length).filter (fun j => (List.range c.a.length).any (fun r =>
    !shadowAgrees c.cls (m.shadowBound c.cls) (c.a.getD r []) (c.b.getD j []) (((c.sums.getD r []).getD j 0).toNat)))

/-- The suspect column of a cluster and its count move with a checked tile; clearing the count leaves the column (R121). -/
def suspectStep (m : Mod) (g : Nat) (c : Capture) (bad : List Nat) : Mod :=
  let reg := Reg.NUM_SHADOW_SUSPECT g
  let sus := bitsOf (m.rdN reg) 8 0
  let cnt := bitsOf (m.rdN reg) 31 24
  match bad with
  | [] => if cnt ≠ 0 ∧ c.phys.contains sus then m.wrN reg sus else m
  | [j] =>
    let col := c.phys.getD j 0
    let k := if cnt ≠ 0 ∧ sus = col then min 255 (cnt + 1) else 1
    let lim := m.fget Fld.NUM_SHADOW_SLAG
    if lim ≠ 0 ∧ lim ≤ k then (m.wrN reg col).requestSlag g col 3 else m.wrN reg (k * 2 ^ 24 + col)
  | _ => m

/-- A disagreeing tile is counted, and reported each time the threshold is reached (R120). -/
def disagreed (m : Mod) (g : Nat) (c : Capture) (bad : List Nat) : Mod :=
  let m1 := m.inc (Reg.NUM_DIE_CTR (g / 12) 8)
  let k := (m.arr g).disagree + 1
  if m.fget Fld.NUM_SHADOW_THRESH ≤ k then
    let cols := bad.map (fun j => c.phys.getD j 0)
    (m1.modArr g (fun a => { a with disagree := 0 })).postCluster 0x125 g
      (leBytes 2 k ++ leBytes 1 c.cls ++ leBytes 2 (cols.foldl min 511) ++ leBytes 2 (cols.foldl max 0) ++
        leBytes 4 (bad.foldl (fun x j => x + 2 ^ j) 0))
  else m1.modArr g (fun a => { a with disagree := k })

/-- The oldest capture of a cluster is recomputed and compared (R118 to R121); past its last heat it is left to be
dropped. On a halted die nothing is recomputed (R370). -/
def shadowCheck (m : Mod) (g : Nat) : Mod :=
  match (if m.dieHalted (g / 12) then [] else (m.arr g).captures) with
  | [] => m
  | c :: cs =>
    if c.heat + 1 < m.heatNo then m
    else
      let bad := m.badColumns c
      let m1 := (m.modArr g (fun a => { a with captures := cs })).inc (Reg.NUM_DIE_CTR (g / 12) 7)
      (m1.when (!bad.isEmpty) (fun m => m.disagreed g c bad)).suspectStep g c bad

/-- Captures not checked by the end of the heat after that of the capture are dropped and counted (R118). -/
def shadowDrop (m : Mod) (g : Nat) : Mod :=
  let old := (m.arr g).captures.filter (fun c => decide (c.heat + 1 < m.heatNo))
  (m.modArr g (fun a => { a with captures := a.captures.filter (fun c => !decide (c.heat + 1 < m.heatNo)) })).addSat
    (Reg.NUM_DIE_CTR (g / 12) 9) old.length

/-! ### Writes of the ARR_ registers (R87) -/

/-- Cluster of an offset in a cluster's window. -/
def clusterOfOff (off : Nat) : Nat := (off - 0x1000000) / 0x400000 * 12 + (off - 0x1000000) % 0x400000 / 0x10000

def arrCheck (_ : Mod) (off : Nat) (v : Word) : Nat :=
  if off = Reg.ARR_CTRL (clusterOfOff off) ∧ wordBits v 1 0 = 3 then stMalformed else stOk

def arrEffect (m : Mod) (off : Nat) (v : Word) : Mod :=
  let g := clusterOfOff off
  if off = Reg.ARR_CTRL g then m.holdWrite off 0xFFFFFFFF v
  else
    let m1 := m.regStore off v
    if off = Reg.ARR_SLAG_REQ g ∧ bitOf v.toNat 31 = true then
      let col := wordBits v 8 0
      if (m.arr g).failed || (m.arr g).slag.any (fun s => s.1 == col) then m1.fput (Fld.ARR_SLAG_ARM g) false
      else m1.requestSlag g col 4
    else m1

end Mod

def execArrayPass (n : Nat) (rep : PassReport) (s : State) : Host.Outcome State Fault Refusal :=
  nextMod s (fun m => m.arrayPass s.mem n rep)
def execArrayRampDown (g : Nat) (s : State) : Host.Outcome State Fault Refusal := nextMod s (fun m => m.rampDown g)
def execArrayDrain (g : Nat) (s : State) : Host.Outcome State Fault Refusal :=
  nextMem s (fun mem m => m.arrayDrain mem g)
def execShadowCheck (g : Nat) (s : State) : Host.Outcome State Fault Refusal := nextMod s (fun m => m.shadowCheck g)
def execShadowCaptureDrop (g : Nat) (s : State) : Host.Outcome State Fault Refusal := nextMod s (fun m => m.shadowDrop g)

end Sys2Proof.Machine
end

