-- ==== Sys2Proof/Machine/Firmware.lean ====
section
/-!
DEFINITION. Firmware images, staging, settings and the change journal (22_firmware_and_configuration.md), with the
firmware update service of R455.
-/

namespace Sys2Proof.Machine

open Sys2Proof

/-! ### Images (R432, R445) -/

/-- Byte field of an image header (Table 22.1). -/
def hdr (img : List Byte) (at_ k : Nat) : Nat := leNat ((img.drop at_).take k)

def imgSvn (img : List Byte) : Nat := hdr img 6 1
def imgSetFmt (img : List Byte) : Nat := hdr img 7 1
def imgVersion (img : List Byte) : Nat := hdr img 8 4
def imgLength (img : List Byte) : Nat := hdr img 12 4

def asciiTag (s : List Nat) : List Byte := s.map (BitVec.ofNat 8)

def tagImage : List Byte := asciiTag [0x53, 0x4C, 0x39, 0x2D, 0x46, 0x57, 0x49, 0x4D]
def tagRevoke : List Byte := asciiTag [0x53, 0x4C, 0x39, 0x2D, 0x52, 0x56, 0x4B, 0x45]
def tagDebug : List Byte := asciiTag [0x53, 0x4C, 0x39, 0x2D, 0x44, 0x42, 0x47, 0x55]
def tagAttest : List Byte := asciiTag [0x53, 0x4C, 0x39, 0x2D, 0x41, 0x54, 0x53, 0x54]
def tagOwner : List Byte := asciiTag [0x53, 0x4C, 0x39, 0x2D, 0x4F, 0x57, 0x4E, 0x52]

def allZero (bs : List Byte) : Bool := bs.all (· == 0)

/-- The layout of an image is right (FH_MAGIC, FH_FORMAT, FH_LENGTH, reserved fields). -/
def imgFormatOk (img : List Byte) : Bool :=
  hdr img 0 4 == 0x46394C53 && hdr img 4 2 == 1 && decide (imgSvn img ≤ 64) && decide (1 ≤ imgSetFmt img) &&
    imgLength img % 4096 == 0 && decide (8192 ≤ imgLength img ∧ imgLength img ≤ 2 ^ 26) &&
    imgLength img == img.length && allZero ((img.drop 48).take 16) && allZero ((img.drop 1344).take 704) &&
    allZero ((img.drop 2048).take 2048)

/-- A signature verifies under a firmware key with an intact fuse, tried in order 0 to 3 (R445). -/
def firmwareSigned (revoked : Nat) (tag msg sig : List Byte) : Bool :=
  (List.range 4).any (fun k => !bitOf revoked k && Config.falconVerify (Config.firmwareKey k) (tag ++ msg) sig)

def imgSigned (revoked : Nat) (img : List Byte) : Bool :=
  firmwareSigned revoked tagImage (img.take 64) ((img.drop 64).take 1280)

def imgDigestOk (img : List Byte) : Bool := (img.drop 16).take 32 == shake256 (img.drop 4096)

/-- The staging result of an image as R432 judges it (Table 22.2): FORMAT, SIGNATURE, DIGEST, SVN or OK. -/
def imgCheck (nv : NvSt) (img : List Byte) : Nat :=
  if !imgFormatOk img then 2
  else if !imgSigned nv.revoked img then 3
  else if !imgDigestOk img then 4
  else if imgSvn img < nv.otpSvn then 5
  else 1

def imgValid (nv : NvSt) (img : List Byte) : Bool := imgCheck nv img == 1

/-! ### Settings (R438, R439) -/

/-- The range of a settings item (Table 22.3). -/
def settingOk (item v : Nat) : Bool :=
  match item with
  | 0 => decide (v ≤ 1)
  | 1 => decide (v ≤ 12)
  | 2 => decide (v ≤ 1)
  | 3 => decide (v ≤ 1)
  | _ => false

def settingGet (s : Settings) (item : Nat) : Nat :=
  match item with
  | 0 => s.profile
  | 1 => s.dims
  | 2 => s.wiring
  | 3 => s.pair
  | _ => 0

def settingSet (s : Settings) (item v : Nat) : Settings :=
  match item with
  | 0 => { s with profile := v }
  | 1 => { s with dims := v }
  | 2 => { s with wiring := v }
  | 3 => { s with pair := v }
  | _ => s

/-- The bytes of a settings copy, for its digest: format, then every item (log entry 15). -/
def settingBytes (s : Settings) : List Byte :=
  leBytes 4 s.fmt ++ leBytes 4 s.profile ++ leBytes 4 s.dims ++ leBytes 4 s.wiring ++ leBytes 4 s.pair

namespace Mod

/-- One item carried into a format: an item out of range takes its default, which is journalled. -/
def migrateItem (m : Mod) (c : Settings) (item : Nat) : Mod × Settings :=
  if settingOk item (settingGet c item) then (m, c)
  else (m.journal stMalformed 1 4 item (settingGet c item) 0 0, settingSet c item 0)

/-- migrate of R439. -/
def migrate (m : Mod) (c : Settings) (f : Nat) : Mod × Settings :=
  let r := (List.range 4).foldl (fun (p : Mod × Settings) i => p.1.migrateItem p.2 i) (m, { c with fmt := f })
  (r.1.journalAction stOk 4 4 c.fmt f, r.2)

/-- The settings a start chooses (R439), for firmware of settings format `f` and version `ver`. -/
def chooseSettings (m : Mod) (f ver : Nat) : Mod :=
  let c := m.nv.current
  let m1 :=
    if c.fmt = f then m
    else if c.fmt < f then
      let h := if m.nv.heldCopy.isNone then some c else m.nv.heldCopy
      let r := m.migrate c f
      ({ r.1 with nv := { r.1.nv with current := r.2, heldCopy := h } }).fput Fld.FWC_SET_MIGRATED true
    else
      match m.nv.heldCopy with
      | some h =>
        if h.fmt ≤ f then
          let r := m.migrate h f
          ({ r.1 with nv := { r.1.nv with current := r.2 } }).fput Fld.FWC_SET_MIGRATED true
        else (({ m with nv := { m.nv with current := { fmt := f } } }).fput Fld.FWC_SET_DEFAULTS true).journalAction
          stOk 4 5 0 f
      | none => (({ m with nv := { m.nv with current := { fmt := f } } }).fput Fld.FWC_SET_DEFAULTS true).journalAction
          stOk 4 5 0 f
  if ver = m1.nv.confirmedVer then { m1 with nv := { m1.nv with heldCopy := none } } else m1

/-- The registers that load from settings at a start (Table 22.3). -/
def loadSettings (m : Mod) : Mod :=
  let s := m.nv.current
  (((m.fset Fld.ID_PROFILE s.profile).fset Fld.FAB_DIMS s.dims).fset Fld.FAB_WIRING s.wiring).fset Fld.FAB_PAIR_EN s.pair

/-- The registers that show the store (Table 22.7, Table 22.9, Table 23.7, Table 23.8). -/
def showStore (m : Mod) : Mod :=
  let nv := m.nv
  let m1 := ((m.wrN Reg.FWC_OTP_SVN nv.otpSvn).wrN Reg.FWC_CONFIRMED_VER nv.confirmedVer).wrN Reg.FWC_STAGED_VER
    nv.stagedVer
  let m2 := ((m1.wrN Reg.FWC_STAGED_INFO nv.stagedInfo).wrN Reg.FWC_BOOT_COUNT nv.bootCount).fset
    Fld.FWC_STAGE_RESULT nv.stageResult
  let m3 := (m2.fput Fld.FWC_STAGE_PEND nv.stagedOk).fset Fld.SEC_KEY_REVOKED nv.revoked
  let dig := match nv.ownerKey with | some k => shake256 k | none => List.replicate 32 0
  let m4 := (List.range 8).foldl (fun m w => m.wrN (Reg.SEC_OWNER_DIGEST w) (leNat ((dig.drop (4 * w)).take 4))) m3
  let idd := shake256 Config.identityKey
  let m5 := (List.range 8).foldl (fun m w => m.wrN (Reg.SEC_ID_DIGEST w) (leNat ((idd.drop (4 * w)).take 4))) m4
  (m5.fput Fld.SEC_OWNED nv.ownerKey.isSome).wrN Reg.FWC_SET_FMT
    (nv.current.fmt + 256 * (match nv.heldCopy with | some h => h.fmt | none => 0))

/-- The selected settings item as FWC_SET_STORED and FWC_SET_HELD show it. -/
def setStored (m : Mod) : Nat := settingGet m.nv.current (m.rdN Reg.FWC_SET_SEL % 256)
def setHeld (m : Mod) : Nat :=
  match m.nv.heldCopy with
  | some h => settingGet h (m.rdN Reg.FWC_SET_SEL % 256)
  | none => 0

/-! ### The journal (R441, R442) -/

/-- Sequence number of the next entry. -/
def jnlSeq (m : Mod) : Nat := m.nv.jnlNext + m.jnlPend.length

/-- The oldest sequence still held: the ring holds 262,144 entries. -/
def jnlOldest (m : Mod) : Nat := m.jnlSeq - min 262144 (m.nv.journal.length + m.jnlPend.length)

/-- The oldest `n` pending entries reach the store, in sequence order. -/
def storeJournal (m : Mod) (n : Nat) : Mod :=
  let k := min n m.jnlPend.length
  let all := m.nv.journal ++ m.jnlPend.take k
  { m with
    nv := { m.nv with journal := all.drop (all.length - 262144), jnlNext := m.nv.jnlNext + k }
    jnlPend := m.jnlPend.drop k }

/-- Main power is lost: entries made more than 1 s before are kept, and of the later ones the oldest `extra`; the
newest are lost (R442). -/
def loseJournal (m : Mod) (extra : Nat) : Mod :=
  let old := (m.jnlPend.filter (fun e => decide (e.time + 1000000000 < m.now))).length
  { m.storeJournal (old + extra) with jnlPend := [] }

/-- The bytes of an entry (Table 22.4). -/
def jnlBytes (e : JEntry) : List Byte :=
  leBytes 8 e.time ++ leBytes 6 e.heat ++ leBytes 1 e.status ++ leBytes 1 (e.kind * 16 + e.origin) ++ leBytes 4 e.target
    ++ leBytes 4 e.old ++ leBytes 4 e.new ++ leBytes 4 e.who

/-- The entry FWC_JNL_SEL selects, if still held. -/
def jnlSelected (m : Mod) : Option JEntry :=
  let seq := m.rdN Reg.FWC_JNL_SEL
  let held := m.nv.journal ++ m.jnlPend
  let back := diff32' m.jnlSeq seq
  if 0 < back ∧ back ≤ min 262144 held.length then held[held.length - back]? else none
where
  diff32' (a b : Nat) : Nat := (a % 2 ^ 32 + 2 ^ 32 - b) % 2 ^ 32

/-- Word `w` of the selected entry; zero if not held. -/
def jnlWord (m : Mod) (w : Nat) : Nat :=
  match m.jnlSelected with
  | some e => leNat (((jnlBytes e).drop (4 * w)).take 4)
  | none => 0

/-! ### Staging (R433, R434) -/

/-- Any earlier staged image is invalidated and a staging begins. -/
def startStaging (m : Mod) (s : Staging) : Mod :=
  let m1 := { m with
    nv := { m.nv with staged := [], stagedOk := false, stagedVer := 0, stagedInfo := 0 }
    staging := some s }
  ((m1.fput Fld.FWC_STAGE_PEND false).fput Fld.FWC_STAGING true).showStore

/-- A staging ends with a result of Table 22.2 and, on OK, its image. -/
def endStaging (m : Mod) (result : Nat) (img : List Byte) : Mod :=
  let ok := result == 1
  let nv1 := { m.nv with stageResult := result }
  let nv2 := if ok then { nv1 with
    staged := img, stagedOk := true, stagedVer := imgVersion img, stagedInfo := imgSetFmt img * 256 + imgSvn img } else nv1
  let m1 := ({ m with nv := nv2, staging := none }).fput Fld.FWC_STAGING false
  let org := if m.boot.recovery then 5 else 4
  (m1.journalAction (if ok then stOk else stMalformed) org 2 (if ok then 0 else result)
    (if ok then imgVersion img else 0)).showStore

/-- Whether a source lies in tier 0 or tier 1 of the module. -/
def stageSource (m : Mod) (src len : Nat) : Option Nat :=
  match placeOf m src, placeOf m (src + len - 1) with
  | .tier0 d c, .tier0 d' _ => if d = d' then some c else none
  | .tier1 c, .tier1 _ => some c
  | _, _ => none

/-- A read of a staging's source ends with TIER_ERROR: its die is lost or halted, or a line of it is released or poisoned
(R224, R230, R236). -/
def stageUnread (m : Mod) (src len : Nat) : Bool :=
  let down := match placeOf m src with
    | .tier0 d _ => m.dieIsLost d || m.dieHalted d
    | _ => false
  down || match m.stageSource src len with
    | some c => m.badLines.any (fun e => decide (c < 64 * e.1 + 64 ∧ 64 * e.1 < c + len))
    | none => false

/-- A staging ends (R433): the image as read, unless a source read failed, and whether the store took it and its
read-back agreed. -/
def stagingDone (mem : Memory) (m : Mod) (readOk storeOk readBackOk : Bool) : Mod :=
  match m.staging with
  | none => m
  | some s =>
    let img := match s.image with
      | some i => some i
      | none => (m.stageSource s.src s.len).map (fun c => memRead mem c s.len)
    match img with
    | none => m.endStaging 6 []
    | some i =>
      if !readOk || (s.image.isNone && m.stageUnread s.src s.len) then m.endStaging 6 []
      else if imgCheck m.nv i != 1 then m.endStaging (imgCheck m.nv i) []
      else if !storeOk then m.endStaging 8 []
      else if !readBackOk then m.endStaging 4 []
      else m.endStaging 1 i

/-- A staging that has not ended within twice its estimate (R433); the timeout is unit-level (R35). -/
def stagingTimeout (m : Mod) : Mod :=
  match m.staging with
  | some s =>
    if s.started + 2 * ((s.len + 7999999) / 8000000 + 2) * 1000000000 ≤ m.now ∧ m.atTick = true then m.endStaging 9 []
    else m
  | none => m

/-! ### Writes of the FWC_ block -/

/-- The checks of the FWC_ block (R434, R438, R440). -/
def fwcCheck (m : Mod) (off : Nat) (v : Word) : Nat :=
  if off = Reg.FWC_CTRL then
    if bitOf v.toNat 31 && !m.flag Fld.FWC_UNCONFIRMED then stAccessDenied
    else if bitOf v.toNat 30 && (m.staging.isSome || m.sec.update) then stAccessDenied
    else stOk
  else if off = Reg.FWC_SET_WRITE then
    if settingOk (m.rdN Reg.FWC_SET_SEL % 256) v.toNat then stOk else stMalformed
  else if off = Reg.FWC_STAGE_SRC_LO then (if v.toNat % 4096 = 0 then stOk else stMalformed)
  else stOk

/-- A staged image whose security version or signature no longer passes is invalidated with a result. -/
def recheckStaged (m : Mod) (result : Nat) : Mod :=
  if m.nv.stagedOk && !imgValid m.nv m.nv.staged then
    ({ m with nv := { m.nv with staged := [], stagedOk := false, stageResult := result } }).showStore
  else m

/-- The running image is confirmed (R436, R440). -/
def confirm (m : Mod) (origin : Nat) : Mod :=
  let svn := min 64 (m.rdN Reg.FWC_RUN_INFO % 256)
  let old := m.nv.otpSvn
  let m1 := { m with nv := { m.nv with
    confirmedVer := m.rdN Reg.FWC_RUN_VER, heldCopy := none, otpSvn := max old svn } }
  (((m1.fput Fld.FWC_UNCONFIRMED false).journalAction stOk origin 6 old (max old svn)).recheckStaged 0x0A).showStore

/-- The effect of an accepted write of the FWC_ block; `org` is the origin a confirmation is journalled with. -/
def fwcEffect (m : Mod) (off : Nat) (v : Word) (org : Nat) : Mod :=
  if off = Reg.FWC_CTRL then
    let m1 := m.when (bitOf v.toNat 31) (fun m => m.confirm org)
    let m2 := m1.when (bitOf v.toNat 30) (fun m =>
      m.startStaging ⟨m.base64 Reg.FWC_STAGE_SRC_LO, m.rdN Reg.FWC_STAGE_LEN, m.now, false, none⟩)
    m2.when (bitOf v.toNat 29 && m.staging.isSome) (fun m => m.endStaging 7 [])
  else if off = Reg.FWC_SET_WRITE then
    ({ m with nv := { m.nv with current := settingSet m.nv.current (m.rdN Reg.FWC_SET_SEL % 256) v.toNat } }).showStore
  else if off = Reg.FWC_STAGE_SRC_HI then
    (m.regStore off v).setBase64 Reg.FWC_STAGE_SRC_LO (m.rdN Reg.FWC_STAGE_SRC_LO + 2 ^ 32 * v.toNat)
  else if off = Reg.FWC_STAGE_LEN then
    (m.regStore off v).wrN Reg.FWC_STAGE_EST_S ((v.toNat + 7999999) / 8000000 + 2)
  else m.regStore off v

/-! ### Firmware update over PLDM (R455) -/

/-- RequestUpdate: refused with UNABLE_TO_INITIATE_UPDATE (0x8A of the PLDM firmware update specification) while a
staging runs. -/
def requestUpdate (m : Mod) (eid : Nat) : Mod :=
  if m.staging.isSome || m.sec.update then m.emit (.reply eid 0x8A [])
  else ({ m with sec := { m.sec with update := true } }).emit (.reply eid stOk [])

/-- The update agent's image has been transferred into the staging path of R433, and VerifyComplete reports its
result. -/
def verifyComplete (m : Mod) (eid : Nat) (img : List Byte) (storeOk readBackOk : Bool) : Mod :=
  if m.sec.update then
    let m1 := m.startStaging ⟨0, img.length, m.now, true, some img⟩
    let m2 := m1.stagingDone [] true storeOk readBackOk
    m2.emit (.reply eid stOk [BitVec.ofNat 8 (if m2.nv.stageResult = 1 then 0 else 1)])
  else m.emit (.reply eid stAccessDenied [])

/-- ActivateFirmware: self-contained activation is not offered; a reset is needed, and the update ends. -/
def activateFirmware (m : Mod) (eid : Nat) : Mod :=
  ({ m with sec := { m.sec with update := false } }).emit (.reply eid stOk [1])

/-- CancelUpdate acts as FWC_STAGE_ABORT. -/
def cancelUpdate (m : Mod) (eid : Nat) : Mod :=
  let m1 := m.when m.staging.isSome (fun m => m.endStaging 7 [])
  ({ m1 with sec := { m1.sec with update := false } }).emit (.reply eid stOk [])

/-- Xipol answers: the module is powered and past stage 1, and some transport is enabled (R413, R449); that the transport of
a message is enabled is the message's own arrival (log entry 129). -/
def xipolUp (m : Mod) : Bool :=
  m.boot.powered && decide (2 ≤ m.fget Fld.ID_BOOT_STAGE) && m.rdN Reg.SEC_MGMT_EN % 8 != 0

end Mod

def execStagingDone (readOk storeOk readBackOk : Bool) (s : State) : Host.Outcome State Fault Refusal :=
  nextMod s (fun m => m.stagingDone s.mem readOk storeOk readBackOk)
def execStagingTimeout (s : State) : Host.Outcome State Fault Refusal := nextMod s (fun m => m.stagingTimeout)
def execJournalStore (n : Nat) (s : State) : Host.Outcome State Fault Refusal := nextMod s (fun m => m.storeJournal n)
def execRequestUpdate (eid : Nat) (s : State) : Host.Outcome State Fault Refusal :=
  nextMod s (fun m => m.when m.xipolUp (fun m => m.requestUpdate eid))
def execActivateFirmware (eid : Nat) (s : State) : Host.Outcome State Fault Refusal :=
  nextMod s (fun m => m.when m.xipolUp (fun m => m.activateFirmware eid))
def execCancelUpdate (eid : Nat) (s : State) : Host.Outcome State Fault Refusal :=
  nextMod s (fun m => m.when m.xipolUp (fun m => m.cancelUpdate eid))

end Sys2Proof.Machine
end

