-- ==== Sys2Proof/Machine/HostLoss.lean ====
section
/-!
DEFINITION. Losing the host and re-attaching (18_host_loss_and_reattach.md): the detach, the retention buffer's replay
and discard, and the end of a session's open.
-/

namespace Sys2Proof.Machine

open Sys2Proof

/-- HIF_LOSS_CAUSE of a cause (Table 18.4). -/
def lossCode : LossCause → Nat
  | .linkDown => 1
  | .hotReset => 2
  | .flr => 3
  | .d3hot => 4

/-- The host writes among what has been sent, oldest first. -/
def hostWrites : List Out → List HostWrite
  | [] => []
  | .host w :: os => w :: hostWrites os
  | _ :: os => hostWrites os

/-- The last `k` elements of a list. -/
def lastK {α : Type} (k : Nat) (xs : List α) : List α := xs.drop (xs.length - k)

/-- Each element once, at its first place. -/
def onceEach {α : Type} [DecidableEq α] (xs : List α) : List α :=
  xs.foldl (fun acc x => if x ∈ acc then acc else acc ++ [x]) []

namespace Mod

/-- The enables that the end of a session clears (R315): the doorbell, submission and event rings, and completion
rings to which nothing is due. -/
def clearEnables (m : Mod) : Mod :=
  let m1 := m.fput Fld.HIF_DB_EN false
  let m2 := (List.range 64).foldl (fun m r =>
    if m.sqOn r then
      (m.stopRing r).fput (Fld.HIF_SQ_EN r) false
    else m) m1
  let m3 := (List.range 8).foldl (fun m e => m.fput (Fld.HIF_ER_EN e) false) m2
  ((List.range 64).foldl (fun m q =>
    if m.flag (Fld.HIF_CQ_EN q) then
      { m with hub := { m.hub with cqEnded := tabPut (fun _ => false) m.hub.cqEnded q true } }
    else m) m3).settleRings

/-- Every read outstanding at the host port ends with TIER_ERROR (R229, R349): fetches of descriptor bodies (R326), those
of ladles, and rows of lookups whose home is in the host window; a load of the host map fails (R310), and so does a
probe, whose read never completes (R314). -/
def endHostReads (m : Mod) : Mod :=
  let m0 := (m.hub.rings.filter (·.body.isNone)).foldl (fun m w => m.completeRing w.ring w.index stTierError 0)
    ((List.range 8).foldl (fun m w => m.probeDone w none 0) (m.mapLoadDone none))
  let m1 := m0.endPort 1
  m1.tables.lookups.foldl (fun m l => (List.range l.reqs.length).foldl (fun m k =>
    match m.findLookup l.work with
    | some l => match l.reqs[k]? with
      | some q =>
        if m.rowAtHost q then
          m.endRow l k stTierError (List.replicate (tdDim (reqEntry l q)) .nan)
        else m
      | none => m
    | none => m) m) m1

/-- One retained write is replayed: it leaves the module, and the work waiting on it alone completes when it was its
last (R357, R359). -/
def replayOne (m : Mod) (w : HostWrite) : Mod := m.emit (.host w)

/-- The retained write of a moved row's copy has been replayed (2) or discarded (3). -/
def copyPut (m : Mod) (i k : Nat) : Mod :=
  match m.movedEntry i with
  | some r => if r.put = 1 then m.setMoved i (some { r with put := k }) else m
  | none => m

/-- The work whose retained writes have all been replayed completes with the status it had met; one that wrote to a peer
window waits for its flush read (R313). -/
def replayedWork (m : Mod) (src : WriteSrc) : Mod :=
  let one := fun (id : Nat) => match m.findWork id with
    | some w =>
      match w.flush with
      | some (p, ans) =>
        let m1 := (m.inc Reg.HIF_PEER_FLUSH).emit (.hostRead (m.base64 (Reg.HIF_PW_BASE_LO p)) 0)
        m1.modWork id (fun w => { w with flush := none, retained := false, status := ladleWorse w.status (ans.getD stOk)
                                         due := w.due ++ if ans.isSome then [] else
                                           [(m.now + m.rdN Reg.MEM_TMO_T2 * 1000, 1)] })
      | none =>
        if !w.retained then m
        else if m.tables.applies.any (·.work == id) then m.modWork id (fun w => { w with retained := false })
        else m.endWork id w.status
    | none => m
  match src with
  | .work id => one id
  | .drain id _ _ _ _ => one id
  | .rowCopy i => m.copyPut i 2
  | _ => m

/-- The requests of a core's ladle that are still open when its work ends keep their tracker entries until they are
answered or time out. -/
def orphan (m : Mod) (w : Work) : Mod :=
  match w.who with
  | .core n =>
    m.when (w.unit == .ladle && !w.due.isEmpty) (fun m =>
      { m with tables := { m.tables with orphans := m.tables.orphans ++ [(w.id, n / 96, w.due)] } })
  | .ring _ _ => m

/-- Work one of whose writes is discarded ends with HOST_EPOCH_CHANGED and is counted (R359); a ledger drain loses its
entry (R168). -/
def voidWork (m : Mod) (src : WriteSrc) : Mod :=
  let one := fun (m : Mod) (id : Nat) => match m.findWork id with
    | some w => ((m.orphan w).endWork id stHostEpochChanged).inc Reg.HIF_LOSS_VOID
    | none => m
  match src with
  | .work id => one m id
  | .drain id slot table row step => one (m.ledgerLose slot table row step stHostEpochChanged) id
  | .rowCopy i => m.copyPut i 3
  | _ => m

/-- Every retained write is sent in its original order, followed by a flush read (R357). -/
def replayAll (m : Mod) : Mod :=
  let ws := m.hub.retained
  let m1 := ws.foldl (fun m w => m.replayOne w) { m with hub := { m.hub with retained := [] } }
  let m2 := (onceEach (ws.map (·.src))).foldl (fun m s => m.replayedWork s) (m1.emit (.hostRead (m.rd64 Reg.HIF_EPOCH_ADDR_LO) 0))
  m2.showRetained.fput Fld.HIF_WAIT_HOST false

/-- Every retained write is discarded (R357 to R359). -/
def discardAll (m : Mod) : Mod :=
  let ws := m.hub.retained
  let m1 := (onceEach (ws.map (·.src))).foldl (fun m s => m.voidWork s) { m with hub := { m.hub with retained := [] } }
  m1.showRetained.fput Fld.HIF_WAIT_HOST false

/-- The read of the epoch word returns the word in force, within 50 microseconds and with the link still up. -/
def epochMatches (m : Mod) (word : Option (BitVec 64)) : Bool :=
  word.map (·.toNat) == some (m.rd64 Reg.HIF_EPOCH_LO) && decide (m.now ≤ m.hub.openDue) && m.flag Fld.HIF_LINK_UP

/-- The read of the epoch word returns (R357): none stands for a read that failed or timed out. Writes that the retention time
has discarded meanwhile (R358) leave nothing to replay or discard. -/
def epochCheck (m : Mod) (word : Option (BitVec 64)) : Mod :=
  match m.hub.opening with
  | none => m
  | some session =>
    let m1 :=
      if m.fget Fld.HIF_RETAIN_RESULT ≠ 1 then m
      else if m.epochMatches word then m.replayAll.fset Fld.HIF_RETAIN_RESULT 2
      else m.discardAll.fset Fld.HIF_RETAIN_RESULT 3
    m1.finishOpen session

/-- A work with nothing left but writes that are retained waits for them; a drain none of whose writes is retained has had
them acknowledged, and completes (R254, R350, R351). -/
def settleDetached (m : Mod) : Mod :=
  m.works.foldl (fun m w =>
    let kept := m.hub.retained.any (fun x => match x.src with
      | .work id => id == w.id
      | .drain id .. => id == w.id
      | _ => false)
    if w.posted then
      if kept then m.modWork w.id (fun w => { w with posted := false, retained := true })
      else if m.tables.applies.any (·.work == w.id) then m.modWork w.id (fun w => { w with posted := false })
      else m.endWork w.id w.status
    else if kept && w.open_ == 0 then m.modWork w.id (fun w => { w with retained := true })
    else m) m

/-- A write that the retention buffer takes: notices are not retained (R345), and neither is a cast's drain (R350). -/
def isRetained (w : HostWrite) : Bool := w.src != .notice && w.src != .cast

/-- The copy of a moved row whose unacknowledged write is kept waits for it (R254). -/
def holdCopies (m : Mod) (kept : List HostWrite) : Mod :=
  kept.foldl (fun m w => match w.src with
    | .rowCopy i => match m.movedEntry i with
      | some r => if r.moving && r.put == 0 then m.setMoved i (some { r with put := 1 }) else m
      | none => m
    | _ => m) m

/-- The module detaches (R348, R350): `kept` are the writes that the port has not had acknowledged. The host part of a cast
that drains waits (R392). -/
def startDetach (m : Mod) (cause : Nat) (kept : List HostWrite) : Mod :=
  let m1 := ((m.fput Fld.HIF_DETACHED true).fput Fld.HIF_SESSION_OPEN false).fset Fld.HIF_LOSS_CAUSE cause
  let m2 := m1.wr64 Reg.HIF_LOSS_TIME_LO m.now
  let m3 := m2.fset Fld.HIF_RETAIN_RESULT (if kept.isEmpty then 0 else 1)
  let m4 := { m3 with hub := { m3.hub with
    retained := kept, retainOver := false, detachAt := m.now, retainMs := m.fget Fld.HIF_RETAIN_MS } }
  (((m4.when (m.castState == 4) (fun m => m.fput castHostField true)).holdCopies kept).settleDetached).showRetained

/-- An event of R315: the read of an epoch word fails and its open ends (R357); the module detaches, and a loss while it is
detached ends the session's enables again. `unacked` counts the latest writes the port has not had acknowledged. -/
def detach (m : Mod) (cause unacked : Nat) : Mod :=
  let m0 := m.epochCheck none
  if m0.detached then m0.endHostReads.clearEnables
  else (m0.startDetach cause ((lastK unacked (hostWrites m.out)).filter isRetained)).endHostReads.clearEnables

/-- A change of the host link's state, rate or width is posted (R300), HIF_FLIT follows the link (Table 15.7), and the loss of
the link ends the session (R315); which writes the port has not had acknowledged then is a free value. -/
def hostLink (m : Mod) (up : Bool) (rate width : Nat) (flit : Bool) : Mod :=
  if !m.ready then m
  else
    let m0 := m.fput Fld.HIF_FLIT (up && flit)
    if m.flag Fld.HIF_LINK_UP == up && m.fget Fld.HIF_LINK_RATE == (if up then rate else 0) &&
      m.fget Fld.HIF_LINK_WIDTH == (if up then width else 0) then m0
    else
      let m1 := ((m0.fput Fld.HIF_LINK_UP up).fset Fld.HIF_LINK_RATE (if up then rate else 0)).fset Fld.HIF_LINK_WIDTH
        (if up then width else 0)
      let m2 := m1.postModule 0x041 (leBytes 1 (if up then rate else 0) ++ leBytes 1 (if up then width else 0))
      if up then m2
      else if m.detached then m2.detach 1 0
      else m2.takeFree.2.detach 1 (m2.takeFree.1 % ((hostWrites m2.out).length + 1))

/-- An event of R315 ends the session. -/
def hostLoss (m : Mod) (cause : LossCause) (unacked : Nat) : Mod :=
  if !m.ready then m
  else
    let m1 := m.detach (lossCode cause) unacked
    match cause with
    | .linkDown => m1.hostLink false 0 0 false
    | _ => m1

/-- The retention time has passed and no session has opened (R358). -/
def retentionExpiry (m : Mod) : Mod :=
  if m.detached && !m.hub.retainOver && m.flag Fld.HEAT_RUNNING &&
      decide (m.hub.detachAt + m.hub.retainMs * 1000000 ≤ m.heat.tickTime) then
    let m1 := (m.discardAll).fset Fld.HIF_RETAIN_RESULT 4
    { m1 with hub := { m1.hub with retainOver := true } }
  else m

end Mod

def execHostLink (up : Bool) (rate width : Nat) (flit : Bool) (s : State) : Host.Outcome State Fault Refusal :=
  nextMod s (fun m => m.hostLink up rate width flit)
def execHostLoss (cause : LossCause) (unacked : Nat) (s : State) : Host.Outcome State Fault Refusal :=
  nextMod s (fun m => m.hostLoss cause unacked)
def execEpochCheck (word : Option (BitVec 64)) (s : State) : Host.Outcome State Fault Refusal :=
  nextMod s (fun m => m.epochCheck word)
def execRetentionExpiry (s : State) : Host.Outcome State Fault Refusal := nextMod s (fun m => m.retentionExpiry)

end Sys2Proof.Machine
end

