-- ==== Sys2Proof/Machine/Boot.lean ====
section
/-!
DEFINITION. Power, resets, the bring-up stages and set-up (21_bringup_and_setup.md, with R458, R463 to R466 of
24_electrical_and_mechanical.md), and maintenance requests.
-/

namespace Sys2Proof.Machine

open Sys2Proof

/-- The failure codes of Table 21.5. -/
def failImage : Nat := 1
def failSupply : Nat := 2
def failCoolant : Nat := 3
def failBoardMemory : Nat := 4
def failHub : Nat := 5
def failNoDie : Nat := 6
def failTimeout : Nat := 7

namespace Mod

/-! ### Resets (R411, R421) -/

/-- The registers a warm reset keeps: the RWS bits (R10); every other bit takes its reset value. -/
def keepRws (regs : Tab Word) : Tab Word :=
  regs.foldl (fun t (e : Nat × Word) =>
    match regAt e.1 with
    | some d =>
      if d.rws = 0 then t
      else tabPut regReset t e.1
        ((regReset e.1 &&& ~~~ BitVec.ofNat 32 d.rws) ||| (tabGet regReset regs e.1 &&& BitVec.ofNat 32 d.rws))
    | none => t) []

/-- A start begins at stage 1 with module time 0 (R412). -/
def beginStart (m : Mod) (cause : Nat) : Mod :=
  let m1 := (m.wrN Reg.ID_RESET_CAUSE cause).showStore
  m1.fput Fld.ID_WARM m.boot.warm

/-- Power-on reset: everything starts over but the store, the OTP fuses and columns, the repairs in the stacks' fuses (Table 21.1,
R416) and the trip latch's record. -/
def powerOnReset (m : Mod) (cause : Nat) : Mod :=
  ({ nv := m.nv, out := m.out, free := m.free, nextId := m.nextId
     arrays := otpColumns m.arrays
     fab := { noticeNo := m.fab.noticeNo }
     boot := { powered := true, vinOk := true, thermTrip := false, spares := m.boot.spares } : Mod }).beginStart cause

/-- A staging in progress ends as ABORTED when power or a reset ends it (R434). -/
def abortStaging (m : Mod) : Mod :=
  if m.staging.isSome then { m with nv := { m.nv with stageResult := 7 }, staging := none } else m

/-- What `keepLost` keeps, seen from the new state. -/
def keepLostOf (m old : Mod) : Mod := old.keepLost m

/-- Warm reset (R421): everything in progress is abandoned; the store, RWS registers, the slag map, failed arrays,
units LOST and what stage 3 and 5 measured stay. Pending journal entries are written first (R442). -/
def warmReset (m : Mod) (cause : Nat) : Mod :=
  let m1 := (m.storeJournal m.jnlPend.length).abortStaging
  ({ nv := m1.nv, out := m1.out, free := m1.free, nextId := m1.nextId
     regs := keepRws m1.regs
     arrays := keepColumns m1.arrays
     fab := { noticeNo := m1.fab.noticeNo }
     boot := { m1.boot with warm := true, recovery := false, stageStart := 0 }
     sec := { debugNext := m1.sec.debugNext } : Mod }).keepLostOf m1 |>.beginStart cause

/-- Main power goes: every rail is off and no state is kept but the store; of the journal, what reached it. -/
def powerOff (m : Mod) (kept : Nat) (trip : Bool) (pin : Bool) (vinOk : Bool) : Mod :=
  let m1 := (m.loseJournal kept).abortStaging
  { nv := m1.nv, out := m1.out, free := m1.free, nextId := m1.nextId
    arrays := otpColumns m1.arrays
    fab := { noticeNo := m1.fab.noticeNo }
    boot := { powered := false, resetPin := pin, vinOk := vinOk, thermTrip := trip, spares := m1.boot.spares } }

/-! ### Bring-up (R412 to R420) -/

/-- The bring-up ends with a failure code (R420). -/
def failBoot (m : Mod) (code : Nat) : Mod := (m.fset Fld.ID_BOOT_FAIL code).fset Fld.ID_BOOT_STAGE 15

/-- The ROM enters recovery mode (R437); cause 1 no valid image, 2 requested. -/
def enterRecovery (m : Mod) (cause : Nat) : Mod :=
  let m1 := m.journalAction stOk 5 7 0 cause
  ({ m1 with boot := { m1.boot with recovery := true, toRecovery := false } }).failBoot failImage

/-- The running stage has ended: its length is recorded and the next begins. -/
def nextStage (m : Mod) : Mod :=
  let k := m.fget Fld.ID_BOOT_STAGE
  let m1 := (m.wrN (Reg.ID_STAGE_MS (k - 1)) ((m.now - m.boot.stageStart) / 1000000)).fset Fld.ID_BOOT_STAGE (k + 1)
  { m1 with boot := { m1.boot with stageStart := m1.now } }

/-- Stage 1: hub test, straps, and the check that some image can be started (R437, R445, R463, R466). -/
def stageRom (m : Mod) (hubOk : Bool) (modId smbAddr : Nat) : Mod :=
  let mid := if m.boot.warm then m.boot.modId else modId % 8192
  let strap := if m.boot.warm then m.boot.smbAddr else smbAddr % 8
  let m1 := ({ m with boot := { m.boot with modId := mid, smbAddr := strap } }).wrN Reg.FAB_SELF mid
  let m2 := m1.when (!m.boot.warm) (fun m => m.wrN Reg.SEC_SMBUS (0x60 + strap))
  let m3 := (m2.fput Fld.SEC_DEBUG_OPEN m.sec.debugNext).fput Fld.SEC_DEBUG_PEND false
  let m4 := { m3 with
    nv := { m3.nv with debugEver := m3.nv.debugEver || m.sec.debugNext }
    sec := { m3.sec with debugNext := false } }
  if !hubOk then m4.failBoot failHub
  else if m.boot.toRecovery then m4.enterRecovery 2
  else if imgValid m.nv m.nv.active || (m.nv.stagedOk && imgValid m.nv m.nv.staged) then m4.nextStage
  else m4.enterRecovery 1

/-- Stage 2: the copy of a staged image, and the start of the firmware (R435, R439, R440). -/
def stageFirmware (m : Mod) : Mod :=
  let m1 :=
    if m.nv.stagedOk && imgValid m.nv m.nv.staged then
      ({ m with nv := { m.nv with active := m.nv.staged, stagedOk := false } }).journalAction stOk 5 3
        (imgVersion m.nv.active) (imgVersion m.nv.staged)
    else m
  if imgValid m1.nv m1.nv.active then
    let img := m1.nv.active
    let m2 := { m1 with nv := { m1.nv with bootCount := m1.nv.bootCount + 1 } }
    let m3 := m2.journalAction stOk 4 1 0 m2.nv.bootCount
    let m4 := (m3.wrN Reg.FWC_RUN_VER (imgVersion img)).wrN Reg.FWC_RUN_INFO (imgSetFmt img * 256 + imgSvn img)
    let m5 := m4.fput Fld.FWC_UNCONFIRMED (imgVersion img != m4.nv.confirmedVer)
    (((m5.chooseSettings (imgSetFmt img) (imgVersion img)).loadSettings).showStore).nextStage
  else m1.enterRecovery 1

/-- A rail lies within 3 percent of its setting (R414); setting and measured value are in mV. -/
def railOk (r : Nat × Nat) : Bool := decide (97 * r.1 ≤ 100 * r.2 ∧ 100 * r.2 ≤ 103 * r.1)

/-- The activity meters of some clusters are calibrated against the input power measured: what they are set to is a free value
(R414, R429; log entry 153). -/
def calibrate (m : Mod) (gs : List Nat) : Mod :=
  gs.foldl (fun m g =>
    let f := m.takeFree
    { f.2 with boot := { f.2.boot with meters := tabPut (fun _ => 0) f.2.boot.meters g f.1 } }) m

/-- Stage 3 (R414): V_in and every rail, the calibration of the meters on a power-on start (R421), the inlet in degrees Celsius,
and the rise of the hottest stack in the second at full load. -/
def stageMeasure (m : Mod) (rails : List (Nat × Nat)) (vin inlet rise : Nat) : Mod :=
  let m1 := (m.wrN Reg.ID_VIN_BOOT vin).wrN Reg.PWR_VIN vin
  if !(rails.all railOk && decide (40000 ≤ vin ∧ vin ≤ 60000)) then m1.failBoot failSupply
  else
    let m2 := m1.when (!m.boot.warm) (fun m => m.calibrate (List.range 48))
    if 40 < inlet ∨ 15 < rise then m2.failBoot failCoolant else m2.nextStage

/-- Stage 4 (R415). -/
def stageBoard (m : Mod) (ok : Bool) : Mod :=
  if ok then (m.wrN Reg.MEM_T1_SIZE 256).nextStage else m.failBoot failBoardMemory

/-- Stage 5 (R416, R421): rows replaced now, on top of those replaced in the stacks' fuses before, and dies out of service, on a
power-on start; both tiers are zeroed, and released and poisoned marks clear (the cells themselves: `bootMemory`). -/
def stageStacks (m : Mod) (fresh : List Nat) (outs : List Bool) : Mod :=
  let t0Out := if m.boot.warm then m.boot.t0Out else outs
  let spares := (List.range 4).map (fun d => m.boot.spares.getD d 0 + if m.boot.warm then 0 else fresh.getD d 0)
  let m1 := (List.range 4).foldl (fun m d =>
    let out := t0Out.getD d false
    (m.wrN (Reg.MEM_T0_SIZE d) (if out then 0 else 48)).wrN (Reg.ID_DIE_BOOT d)
      (min (spares.getD d 0) 65535 * 65536 + (if out then 256 else 0))) m
  ({ m1 with
    badLines := []
    boot := { m1.boot with t0Out := t0Out, spares := spares } }).nextStage

/-- Stage 6 (R417, R421): failing columns are slagged with source 2, failing units are LOST with cause 1. -/
def stageSelfTest (m : Mod) (cols : List (Nat × Nat)) (cores clusters dies : List Nat) : Mod :=
  let m1 := if m.boot.warm then m else
    let a := cols.foldl (fun m (gc : Nat × Nat) => m.slagNow gc.1 gc.2 2) m
    let b := cores.foldl (fun m n => m.loseCore n 1) a
    let c := clusters.foldl (fun m g => m.loseCluster g 1) b
    dies.foldl (fun m d => m.loseDie d 1) c
  let m2 := (List.range 48).foldl (fun m g => m.showWidth g) m1
  let m3 := (List.range 4).foldl (fun m d =>
    m.wrN (Reg.ID_DIE_BOOT d) (m.rdN (Reg.ID_DIE_BOOT d) / 256 * 256 + (if m.dieIsLost d then 128 else 0) +
      min 63 ((List.range 12).foldl (fun k c => k + m.slagCount (12 * d + c)) 0))) m2
  if (List.range 4).all (fun d => m3.dieIsLost d) then m3.failBoot failNoDie else m3.nextStage.fabricStart

/-- The module is ready with reduced resources (R420). -/
def isDegraded (m : Mod) : Bool :=
  (List.range 4).any (fun d => m.dieIsLost d || m.rdN (Reg.MEM_T0_SIZE d) == 0) ||
    (List.range 48).any (fun g => m.slagCount g != 0 || m.flag (Fld.ARR_FAILED g) || (m.clusterSt g).lost) ||
    (List.range 384).any (fun n => m.coreState n == 4) ||
    (List.range 13).any (fun p => m.fget (Fld.FAB_P_STATE p) == portFault)

/-- Stage 8 ends: the module is ready, detached where the host link is not up (R419). -/
def becomeReady (m : Mod) (up : Bool) (rate width : Nat) (flit : Bool) : Mod :=
  let m1 := (m.nextStage).fset Fld.ID_BOOT_STAGE 9
  let m2 := (m1.fput Fld.ID_READY true).wrN Reg.ID_BOOT_TIME (m.now / 1000000)
  let m3 := m2.fput Fld.ID_DEGRADED m2.isDegraded
  let m4 := m3.settleMaster
  if up then
    ((((m4.fput Fld.HIF_LINK_UP true).fset Fld.HIF_LINK_RATE rate).fset Fld.HIF_LINK_WIDTH width).fput
      Fld.HIF_FLIT flit).fput Fld.HIF_SESSION_OPEN true
  else m4.startDetach 1 []

/-- Every port that is not DISABLED has left TRAINING at least once and is UP or in FAULT (R418). -/
def portsSettled (m : Mod) : Bool :=
  (List.range 13).all (fun p => m.portState p == portDisabled || m.portState p == portUp || m.portState p == portFault)

/-- Stage 8 has run to its limit of 7 s (R419). -/
def linkLate (m : Mod) : Bool := decide (m.boot.stageStart + 7000000000 ≤ m.now)

/-- A bring-up stage ends with what it found; a report of another stage than the one running is no event. Stage 7 ends only
with its ports settled, and stage 8 with the link up or at its limit (R418, R419). -/
def stageEnd (m : Mod) (r : StageReport) : Mod :=
  if !m.boot.powered then m
  else
    match m.fget Fld.ID_BOOT_STAGE, r with
    | 1, .rom hubOk modId smb => m.stageRom hubOk modId smb
    | 2, .firmware => m.stageFirmware
    | 3, .measurement rails vin inlet rise => m.stageMeasure rails vin inlet rise
    | 4, .boardMemory ok => m.stageBoard ok
    | 5, .stackRepair spares outs => m.stageStacks spares outs
    | 6, .selfTest cols cores clusters dies => m.stageSelfTest cols cores clusters dies
    | 7, .fabric => m.when m.portsSettled (fun m => m.fabricReady.nextStage)
    | 8, .hostLink up rate width flit => m.when (up || m.linkLate) (fun m => m.becomeReady up rate width flit)
    | _, _ => m

/-- The limit of a stage in ms (Table 21.2). -/
def stageLimit : Nat → Nat
  | 1 => 2000
  | 2 => 15000
  | 3 => 6000
  | 4 => 12000
  | 5 => 30000
  | 6 => 18000
  | 7 => 30000
  | 8 => 7000
  | _ => 0

/-- A stage has run to its limit: stages 7 and 8 end there anyway (R418, R419), any other fails (Table 21.5). -/
def stageTimeout (m : Mod) : Mod :=
  let k := m.fget Fld.ID_BOOT_STAGE
  if !m.boot.powered || k = 0 || 8 < k || decide (m.now < m.boot.stageStart + stageLimit k * 1000000) then m
  else if k = 7 then m.fabricReady.nextStage
  else if k = 8 then m.becomeReady false 0 0 false
  else m.failBoot failTimeout

/-! ### SETUP_LOCK (R423) and the ID_ block -/

/-- Two stretches of GiB or other units do not overlap; an empty one overlaps nothing. -/
def apart (a la b lb : Nat) : Bool := la == 0 || lb == 0 || decide (a + la ≤ b) || decide (b + lb ≤ a)

/-- Bytes of the ordered hold. -/
def holdSize (m : Mod) : Nat := m.rdN Reg.MEM_CR_HOLD_SIZE * 2 ^ 20

/-- Tier 1 areas fixed at the lock, in bytes from the start of tier 1, with the register that names each: the reservoir,
the ordered hold, the cast reserve, and the buddy area. -/
def tier1Areas (m : Mod) : List (Nat × Nat × Nat) :=
  let g := 2 ^ 30
  let hold := m.holdBase
  [(Reg.ING_RES_CFG, m.fget Fld.ING_RES_BASE * g, m.fget Fld.ING_RES_SIZE * g),
   (Reg.MEM_CR_HOLD_BASE_LO, addrOffset hold - tier1Base, m.holdSize),
   (Reg.CAST_RES1, bitsOf (m.rdN Reg.CAST_RES1) 9 0 * g, bitsOf (m.rdN Reg.CAST_RES1) 25 16 * g),
   (Reg.CAST_BUDDY, bitsOf (m.rdN Reg.CAST_BUDDY) 9 0 * g,
     m.castSlots * bitsOf (m.rdN Reg.CAST_BUDDY) 25 16 * g)]

/-- An area lies within tier 1 in service. -/
def inTier1 (m : Mod) (a : Nat × Nat × Nat) : Bool :=
  a.2.2 == 0 || decide (a.2.1 + a.2.2 ≤ m.rdN Reg.MEM_T1_SIZE * 2 ^ 30)

/-- The first register that fails a check of R423, if any: the reservoir first, then the other areas in the order in
which the rule names them. -/
def lockError (m : Mod) : Option Nat :=
  let areas := m.tier1Areas
  let within := areas.find? (fun a => !m.inTier1 a)
  let holdPlace := if m.holdSize = 0 then none else
    match placeOf m (m.holdBase) with
    | .tier1 _ => none
    | _ => some Reg.MEM_CR_HOLD_BASE_LO
  let order := areas.drop 1 ++ areas.take 1
  let clash := order.zipIdx.find? (fun ai =>
    (order.drop (ai.2 + 1)).any (fun b => !apart ai.1.2.1 ai.1.2.2 b.2.1 b.2.2))
  let res0 := (List.range 4).find? (fun d =>
    let r := m.rdN (Reg.CAST_RES0 d)
    bitsOf r 21 16 != 0 && decide (m.rdN (Reg.MEM_T0_SIZE d) < bitsOf r 21 16 + bitsOf r 5 0))
  let range :=
    if m.flag Fld.CAST_PAIRED && !m.flag Fld.FAB_PAIR_EN then some Reg.CAST_CTRL
    else if m.flag Fld.PWR_BROKER_EN && bitsOf (m.rdN Reg.COL_CTRL) 11 0 = 0 then some Reg.PWR_CTRL
    else if !decide (4 ≤ m.fget Fld.ING_RES_SIZE ∧ m.fget Fld.ING_RES_SIZE ≤ 32) then some Reg.ING_RES_CFG
    else if !decide (5 ≤ m.fget Fld.MEM_TRK_LADLE_PCT ∧ m.fget Fld.MEM_TRK_LADLE_PCT ≤ 75) then some Reg.MEM_CTRL
    else if !decide (2 ≤ m.castSlots ∧ m.castSlots ≤ 8) then some Reg.CAST_CTRL
    else if 16384 < m.rdN Reg.MEM_T2_SIZE then some Reg.MEM_T2_SIZE
    else if 12 < m.fget Fld.FAB_DIMS then some Reg.FAB_CTRL
    else none
  ((((within.map (·.1)).or holdPlace).or (res0.map Reg.CAST_RES0)).or (clash.map (·.1.1))).or range

/-- An accepted lock (R423): the profile takes force, trackers and credits are divided, RWL fields become read-only. -/
def setLock (m : Mod) : Mod :=
  let m1 := (m.fput Fld.ID_SETUP_LOCK true).fput Fld.MEM_RC_PROFILE (m.flag Fld.ID_PROFILE)
  let m2 := m1.setTrackers
  m2.when (!m.flag Fld.ID_PROFILE) (fun m => m.wrN Reg.MEM_T2_SIZE 0)

/-- The outcome of a maintenance request is recorded and posted (R429), at the cluster that the request names; one that there is
not presents no columns. -/
def endMaint (m : Mod) (kind die cluster status cols : Nat) (posts : Bool) : Mod :=
  let m1 := m.wrN Reg.ID_MAINT_RESULT (status * 2 ^ 24 + kind * 2 ^ 20 + cols)
  let m2 := ((m1.fput Fld.ID_MAINT_ARM false).fput Fld.ID_MAINT_PEND false).fput Fld.ID_MAINT_RUN false
  let m3 := { m2 with maint := none }
  let data := leBytes 1 kind ++ leBytes 1 die ++ leBytes 1 cluster ++ leBytes 1 status ++ leBytes 2 cols ++
    leBytes 2 (if cluster < 12 then m.fget (Fld.ARR_WIDTH (12 * die + cluster)) else 0)
  m3.when posts (fun m => if kind = 3 then m.postModule 0x001 data else m.post 0x001 (m.chip die) cluster 0 data)

/-- The request begins to run: it takes its cluster, and captures waiting there are dropped (R428). -/
def runMaint (m : Mod) (r : Maint) : Mod :=
  let m1 := ({ m with maint := some { r with running := true } }).inc Reg.ID_MAINT_COUNT
  let m2 := (m1.fput Fld.ID_MAINT_PEND false).fput Fld.ID_MAINT_RUN true
  if r.kind = 3 then m2
  else
    let g := 12 * r.die + r.cluster
    let m3 := m2.modCluster g (fun c => { c with maint := true })
    if r.kind = 1 then m3.dropCaptures g else m3

/-- A named cluster or die is LOST (R427). -/
def maintLost (m : Mod) (r : Maint) : Bool :=
  r.kind != 3 && (m.dieIsLost r.die || (m.clusterSt (12 * r.die + r.cluster)).lost)

/-- An arm of ID_MAINT_REQ (R426). -/
def armMaint (m : Mod) (v : Word) : Mod :=
  let kind := wordBits v 23 20
  let die := wordBits v 17 16
  let cluster := wordBits v 11 8
  let r : Maint := { kind := kind, die := die, cluster := cluster }
  if m.maint.isSome then m.wrN Reg.ID_MAINT_RESULT (stBusyRefused * 2 ^ 24 + kind * 2 ^ 20)
  else if kind = 0 ∨ 3 < kind ∨ (kind ≠ 3 ∧ 11 < cluster) then
    (m.regStore Reg.ID_MAINT_REQ v).endMaint kind die cluster stMalformed 0 true
  else if m.rdN Reg.ID_MAINT_N = 0 ∧ m.flag Fld.HEAT_RUN then
    (m.regStore Reg.ID_MAINT_REQ v).endMaint kind die cluster stBusyRefused 0 true
  else
    let m1 := (m.regStore Reg.ID_MAINT_REQ v).fput Fld.ID_MAINT_ARM true
    if m.flag Fld.HEAT_RUN then ({ m1 with maint := some r }).fput Fld.ID_MAINT_PEND true
    else if m.maintLost r then m1.endMaint kind die cluster stUnitLost 0 true
    else m1.runMaint r

/-- Heat n is a maintenance heat (R425). -/
def maintHeat (m : Mod) : Bool :=
  m.rdN Reg.ID_MAINT_N != 0 && m.heatNo % m.rdN Reg.ID_MAINT_N == m.rdN Reg.ID_MAINT_N - 1

/-- Step 2 of a boundary: a pending request runs or is refused in a maintenance heat (R427). -/
def maintBoundary (m : Mod) : Mod :=
  match m.maint with
  | some r =>
    if r.running || !m.maintHeat then m
    else
      let g := 12 * r.die + r.cluster
      if m.maintLost r then m.endMaint r.kind r.die r.cluster stUnitLost 0 true
      else if m.castState == 2 || m.castState == 3 || (r.kind != 3 && (m.dieHalted r.die || (m.clusterSt g).missing || (m.clusterSt g).held || m.flag Fld.HIF_HOST_HELD ||
          m.arrayOff g || (r.kind == 2 && (m.pickerOff g 0 || m.pickerOff g 1)))) then
        m.endMaint r.kind r.die r.cluster stBusyRefused 0 true
      else m.runMaint r
  | none => m

/-- The maintenance work ends (R429); `cols` are the failing columns of an ARRAY_TEST, slagged with source 2 at the
next step 2. -/
def maintEnd (m : Mod) (cols : List Nat) : Mod :=
  match m.maint with
  | some r =>
    if !r.running then m
    else
      let g := 12 * r.die + r.cluster
      let m1 := m.when (r.kind != 3) (fun m => m.modCluster g (fun c => { c with maint := false }))
      if r.kind = 1 then
        let fresh := cols.eraseDups.filter (fun c => !(m1.arr g).slag.any (fun s => s.1 == c))
        { fresh.foldl (fun m c => m.requestSlag g c 2) m1 with maint := some { r with running := false, ended := some fresh } }
      else (m1.when (r.kind == 2) (fun m => m.calibrate [g])).endMaint r.kind r.die r.cluster stOk 0 true
  | none => m

/-- Step 2 of the first boundary after an ARRAY_TEST ended: its columns have been slagged and its outcome is recorded
(R429). -/
def maintFinish (m : Mod) : Mod :=
  match m.maint with
  | some r =>
    match r.ended with
    | some cols =>
      let slag := (m.arr (12 * r.die + r.cluster)).slag
      m.endMaint r.kind r.die r.cluster stOk (cols.filter (fun c => slag.any (fun s => s.1 == c))).length true
    | none => m
  | none => m

/-- The checks of the ID_ block (R422, R423, R425). -/
def idCheck (m : Mod) (off : Nat) (v : Word) : Nat :=
  if off = Reg.ID_RESET then
    if wordBits v 31 16 = 0x5752 then stOk else stMalformed
  else if off = Reg.ID_SETUP then
    if bitOf v.toNat 31 && !m.locked then
      if !m.ready then stAccessDenied
      else if ((m.fset Fld.ID_PROFILE (v.toNat % 2)).lockError).isSome then stMalformed else stOk
    else stOk
  else if off = Reg.ID_MAINT_N then
    if v = 0 ∨ (64 ≤ v.toNat ∧ v.toNat ≤ 65535) then stOk else stMalformed
  else if off = Reg.ID_MAINT_REQ then
    if bitOf v.toNat 31 && m.maint.isSome then stBusyRefused else stOk
  else stOk

/-- A refused write of the ID_ block leaves a trace: ID_LOCK_ERR, or a maintenance outcome. -/
def idRefused (m : Mod) (off : Nat) (v : Word) : Mod :=
  if off = Reg.ID_SETUP && bitOf v.toNat 31 && !m.locked && m.ready then
    match (m.fset Fld.ID_PROFILE (v.toNat % 2)).lockError with
    | some a => m.wrN Reg.ID_LOCK_ERR a
    | none => m
  else if off = Reg.ID_MAINT_REQ && bitOf v.toNat 31 && m.maint.isSome then m.armMaint v
  else m

/-- The effect of an accepted write of the ID_ block. -/
def idEffect (m : Mod) (off : Nat) (v : Word) : Mod :=
  if off = Reg.ID_RESET then m.when (bitOf v.toNat 0) (fun m => m.warmReset 3)
  else if off = Reg.ID_SETUP then
    let m1 := m.fset Fld.ID_PROFILE (v.toNat % 2)
    m1.when (bitOf v.toNat 31 && !m.locked) (fun m => m.setLock)
  else if off = Reg.ID_MAINT_N then m.holdWrite off 0xFFFF v
  else if off = Reg.ID_MAINT_REQ then
    if bitOf v.toNat 31 then m.armMaint v
    else if m.maint.isSome then m else (m.regStore off v).fput Fld.ID_MAINT_ARM false
  else m.regStore off v

end Mod

/-- The memories after a start or a bring-up stage: stage 5 zeroes tiers 0 and 1, stage 6 every SRAM, and a start
finds nothing worth keeping (R416, R417, R421). -/
def bootMemory (mem : Memory) (before after : Mod) : Memory :=
  if before.boot.powered && before.fget Fld.ID_BOOT_STAGE == 5 && after.fget Fld.ID_BOOT_STAGE == 6 then
    mem.filter (fun c => !isTierCell c.1)
  else if before.boot.powered && before.fget Fld.ID_BOOT_STAGE == 6 && after.fget Fld.ID_BOOT_STAGE != 6 then []
  else mem

/-- Power-on: main power rises through 40 V, or MOD_RST# is released (R411, R458, R464). Both are needed: while MOD_RST# stays
asserted every rail is held off, and a release below 40 V starts nothing. -/
def execPowerOn (pin : Bool) (s : State) : Host.Outcome State Fault Refusal :=
  if s.mod.boot.powered then .next s
  else if (if pin then s.mod.boot.vinOk else !s.mod.boot.resetPin) then
    .next { s with mem := [], mod := s.mod.powerOnReset (if pin then 2 else 1) }
  else .next { s with mod := { s.mod with boot :=
    if pin then { s.mod.boot with resetPin := false } else { s.mod.boot with vinOk := true, thermTrip := false } } }

def execBringupStageEnd (r : StageReport) (s : State) : Host.Outcome State Fault Refusal :=
  .next { s with mem := bootMemory s.mem s.mod (s.mod.stageEnd r), mod := s.mod.stageEnd r }
def execBringupStageTimeout (s : State) : Host.Outcome State Fault Refusal := nextMod s (fun m => m.stageTimeout)

/-- MOD_RST# asserted for at least 1 ms (R464). -/
def execModRst (kept : Nat) (s : State) : Host.Outcome State Fault Refusal :=
  .next { s with mem := [], mod := s.mod.powerOff kept false true s.mod.boot.vinOk }

/-- V_in below 38 V or above 62 V for 100 microseconds (R458). -/
def execVinTrip (kept : Nat) (s : State) : Host.Outcome State Fault Refusal :=
  if s.mod.boot.powered then
    .next { s with mem := [], mod := s.mod.powerOff kept s.mod.boot.thermTrip s.mod.boot.resetPin false }
  else .next { s with mod := { s.mod with boot := { s.mod.boot with vinOk := false } } }

/-- A junction reached its trip level (R369): the power stages go off and no state is kept. -/
def execThermalTrip (kept : Nat) (s : State) : Host.Outcome State Fault Refusal :=
  if s.mod.boot.powered then
    .next { s with mem := [], mod := s.mod.powerOff kept true s.mod.boot.resetPin s.mod.boot.vinOk }
  else .next s

def execMaintEnd (cols : List Nat) (s : State) : Host.Outcome State Fault Refusal := nextMod s (fun m => m.maintEnd cols)

/-- VerifyComplete; in recovery mode an image staged restarts the bring-up (R437, R455). -/
def execVerifyComplete (eid : Nat) (img : List Byte) (storeOk readBackOk : Bool) (s : State) :
    Host.Outcome State Fault Refusal :=
  nextMod s (fun m => m.when m.xipolUp (fun m =>
    let m1 := m.verifyComplete eid img storeOk readBackOk
    if m.boot.recovery && m.sec.update && m1.nv.stageResult == 1 then m1.warmReset 4 else m1))

end Sys2Proof.Machine
end

