-- ==== Sys2Proof/Machine/Security.lean ====
section
/-!
DEFINITION. Identity, attestation, ownership and management messages (23_security_and_management.md).
-/

namespace Sys2Proof.Machine

open Sys2Proof

/-! ### Signed commands (R451) -/

def scCode (c : List Byte) : Nat := leNat (c.take 1)
def scSerial (c : List Byte) : Nat := leNat ((c.drop 8).take 8)
def scChallenge (c : List Byte) : List Byte := (c.drop 16).take 32
def scArg0 (c : List Byte) : Nat := leNat ((c.drop 48).take 1)
def scSigned (c : List Byte) : List Byte := c.take 112
def scSignature (c : List Byte) : List Byte := (c.drop 112).take 1280

namespace Mod

/-- The open challenge closes. -/
def closeChallenge (m : Mod) : Mod :=
  ({ m with sec := { m.sec with challenge := none } }).fput Fld.SEC_CHALLENGE_OPEN false

/-- The reserved bytes of a signed command are zero (R451). -/
def scReservedOk (c : List Byte) : Bool := allZero ((c.drop 1).take 7)

/-- The status of a signed command's checks; `signed` says whether its signature verifies under the key required. -/
def signedCheck (m : Mod) (code : Nat) (c : List Byte) (signed : Bool) : Nat :=
  if c.length ≠ 1392 ∨ !scReservedOk c then stMalformed
  else if scCode c ≠ code ∨ scSerial c ≠ m.rd64 Reg.ID_SERIAL_LO then stAccessDenied
  else if m.sec.challenge ≠ some (scChallenge c) then stAccessDenied
  else if signed then stOk else stAccessDenied

/-- A signed command is judged: it closes the challenge it names; a refusal is counted and answered (R451). -/
def judgeSigned (m : Mod) (eid code : Nat) (c : List Byte) (signed allowed : Bool) : Mod × Bool :=
  let st := m.signedCheck code c signed
  let m1 := m.when (m.sec.challenge == some (scChallenge c)) (fun m => m.closeChallenge)
  if st ≠ stOk then ((m1.inc Reg.SEC_REJECT_COUNT).emit (.reply eid st []), false)
  else if !allowed then ((m1.inc Reg.SEC_REJECT_COUNT).emit (.reply eid stAccessDenied []), false)
  else (m1.emit (.reply eid stOk []), true)

def ownerSigned (m : Mod) (tag c : List Byte) : Bool :=
  match m.nv.ownerKey with
  | some k => Config.falconVerify k (tag ++ scSigned c) (scSignature c)
  | none => false

/-- CLAIM (R452): only while unowned, signed by the key it carries. -/
def claim (m : Mod) (eid : Nat) (key c : List Byte) : Mod :=
  let r := m.judgeSigned eid 0x10 c (Config.falconVerify key (tagOwner ++ scSigned c) (scSignature c))
    m.nv.ownerKey.isNone
  if r.2 then ({ r.1 with nv := { r.1.nv with ownerKey := some key } }).showStore else r.1

/-- RELEASE (R452): the owner key is erased and a warm reset follows. -/
def release (m : Mod) (eid : Nat) (c : List Byte) : Mod :=
  let r := m.judgeSigned eid 0x11 c (m.ownerSigned tagOwner c) m.nv.ownerKey.isSome
  if r.2 then ({ r.1 with nv := { r.1.nv with ownerKey := none } }).warmReset 4 else r.1

/-- DEBUG_UNLOCK (R453). -/
def debugUnlock (m : Mod) (eid : Nat) (c : List Byte) : Mod :=
  let signed := if m.nv.ownerKey.isSome then m.ownerSigned tagDebug c
    else firmwareSigned m.nv.revoked tagDebug (scSigned c) (scSignature c)
  let r := m.judgeSigned eid 0x12 c signed true
  if r.2 then
    (({ r.1 with sec := { r.1.sec with debugNext := true } }).fput Fld.SEC_DEBUG_PEND true).warmReset 4
  else r.1

/-- RECOVERY (R437): signed by the owner where the module is owned. -/
def recovery (m : Mod) (eid : Nat) (c : List Byte) : Mod :=
  let go := fun (m : Mod) =>
    let w := m.warmReset 4
    { w with boot := { w.boot with toRecovery := true } }
  if m.nv.ownerKey.isSome then
    let r := m.judgeSigned eid 0x07 c (m.ownerSigned tagOwner c) true
    if r.2 then go r.1 else r.1
  else go (m.emit (.reply eid stOk []))

/-- An image's signature verifies only under one key. -/
def revokedStagedOnly (m : Mod) (revoked : Nat) : Bool := m.nv.stagedOk && !imgSigned revoked m.nv.staged

/-- REVOKE_KEY (R446): signed by a different firmware key that is intact; the last intact key is not revoked. -/
def revokeKey (m : Mod) (eid : Nat) (c : List Byte) : Mod :=
  let k := scArg0 c
  let others := m.nv.revoked ||| 2 ^ k
  let r := m.judgeSigned eid 0x13 c (decide (k < 4) && firmwareSigned others tagRevoke (scSigned c) (scSignature c))
    (decide (others < 15))
  if r.2 then
    let m1 := { r.1 with nv := { r.1.nv with revoked := others } }
    if m1.revokedStagedOnly others then
      ({ m1 with nv := { m1.nv with staged := [], stagedOk := false, stageResult := 3 } }).showStore
    else m1.showStore
  else r.1

/-- GET_CHALLENGE (R451): a new challenge from the hub's hardware random source voids an earlier one. -/
def getChallenge (m : Mod) (eid : Nat) : Mod :=
  let ch := (List.range 32).map (fun i => Config.randomByte (m.free + i))
  (({ m with free := m.free + 32
             sec := { m.sec with challenge := some ch, challengeAt := m.now } }).fput Fld.SEC_CHALLENGE_OPEN true).emit
    (.reply eid stOk ch)

/-- An open challenge closes 60 s after it was issued. -/
def challengeExpiry (m : Mod) : Mod :=
  if m.sec.challenge.isSome && decide (m.sec.challengeAt + 60000000000 ≤ m.now) then m.closeChallenge else m

/-! ### Attestation (R448) -/

def flagBit (b : Bool) (i : Nat) : Nat := if b then 2 ^ i else 0

/-- AR_FLAGS (Table 23.3). -/
def reportFlags (m : Mod) : Nat :=
  flagBit m.boot.recovery 8 + flagBit (m.flag Fld.ID_DEGRADED) 7 + flagBit (m.flag Fld.FWC_UNCONFIRMED) 6 +
    flagBit (m.flag Fld.ID_PROFILE) 5 + flagBit (m.flag Fld.SEC_OWNED) 4 + flagBit m.locked 3 +
    flagBit (m.flag Fld.SEC_DEBUG_PEND) 2 + flagBit (m.flag Fld.SEC_DEBUG_OPEN) 1 + flagBit m.nv.debugEver 0

/-- Bytes 0 to 255 of the report. -/
def reportBody (m : Mod) (nonce : List Byte) : List Byte :=
  leBytes 4 0x52545441 ++ leBytes 2 1 ++ leBytes 2 m.reportFlags ++ leBytes 8 (m.rd64 Reg.ID_SERIAL_LO) ++
    leBytes 4 (m.rdN Reg.ID_STEPPING) ++ leBytes 4 (m.rdN Reg.FWC_RUN_VER) ++ leBytes 1 (m.rdN Reg.FWC_RUN_INFO) ++
    leBytes 1 m.nv.otpSvn ++ leBytes 1 m.nv.revoked ++ leBytes 1 m.nv.current.fmt ++ leBytes 4 m.nv.confirmedVer ++
    leBytes 4 (if m.nv.stagedOk then m.nv.stagedVer else 0) ++ leBytes 4 m.nv.bootCount ++ leBytes 8 m.now ++
    leBytes 6 (if m.heat.everRan then m.heatNo else 2 ^ 48 - 1) ++
    leBytes 2 (if m.fget Fld.ID_BOOT_STAGE < 7 ∨ 9 < m.fget Fld.ID_BOOT_STAGE then 0xFFFF else m.self) ++
    leBytes 4 m.jnlSeq ++ leBytes 4 0 ++ padBytes 32 nonce ++ padBytes 32 Config.romDigest ++
    (m.nv.active.drop 16).take 32 ++ shake256 (settingBytes m.nv.current) ++
    (match m.nv.ownerKey with | some k => shake256 k | none => List.replicate 32 0) ++ shake256 Config.identityKey

/-- One report is signed and answered. -/
def answerReport (m : Mod) (eid : Nat) (nonce : List Byte) : Mod :=
  let b := m.reportBody nonce
  (m.inc Reg.SEC_ATTEST_COUNT).emit (.reply eid stOk (b ++ padBytes 1280 (Config.identitySign (tagAttest ++ b))))

/-- ATTEST: before the heat runs the report is taken at once; otherwise between steps 2 and 6 of a boundary window. -/
def attest (m : Mod) (eid : Nat) (nonce : List Byte) : Mod :=
  if !m.flag Fld.HEAT_RUNNING then m.answerReport eid nonce
  else if 8 ≤ m.sec.attests.length then m.emit (.reply eid stBusyRefused [])
  else { m with sec := { m.sec with attests := m.sec.attests ++ [(eid, nonce)] } }

/-- The oldest waiting report is taken in a boundary window, after step 2: reports are answered one at a time. -/
def attestBoundary (m : Mod) : Mod :=
  match m.sec.attests with
  | [] => m
  | (eid, nonce) :: rest => ({ m with sec := { m.sec with attests := rest } }).answerReport eid nonce

/-- The module leaves the heat: the reports still waiting are taken at that moment (R448). -/
def attestAll (m : Mod) : Mod :=
  m.sec.attests.foldl (fun m a => m.answerReport a.1 a.2) { m with sec := { m.sec with attests := [] } }

/-! ### Transports and sensors (R449, R454) -/

def transportBit : Transport → Nat
  | .smbus => 0
  | .i3c => 1
  | .vdm => 2

/-- The byte of SEC_EID that shows a transport's endpoint. -/
def eidField : Transport → Field
  | .vdm => ⟨Reg.SEC_EID, 7, 0⟩
  | .smbus => ⟨Reg.SEC_EID, 15, 8⟩
  | .i3c => ⟨Reg.SEC_EID, 23, 16⟩

/-- An MCTP control message from a bus owner: with an endpoint to assign, the endpoint is taken and shown. -/
def mctpControl (m : Mod) (t : Transport) (assign : Option (BitVec 8)) : Mod :=
  if m.xipolUp && bitOf (m.rdN Reg.SEC_MGMT_EN) (transportBit t) then
    match assign with
    | some e => (m.fset (eidField t) e.toNat).emit (.reply e.toNat stOk [e])
    | none => m.emit (.reply (m.fget (eidField t)) stOk [BitVec.ofNat 8 (m.fget (eidField t))])
  else m

/-- The value of a numeric sensor's source register (Table 23.5); none for a sensor the module does not have. -/
def sensorValue (m : Mod) (id : Nat) : Option Nat :=
  if id = 1 then some (m.rdN Reg.PWR_VIN)
  else if id = 2 then some (m.rdN Reg.PWR_PIN)
  else if id = 3 then some (m.rdN Reg.PWR_CAP_NOW)
  else if id = 4 then some (bitsOf (m.rdN Reg.PWR_COOL) 7 0)
  else if id = 5 then some (bitsOf (m.rdN Reg.PWR_COOL) 15 8)
  else if id = 6 then some (m.rdN Reg.PWR_HUB_TJ)
  else if 16 ≤ id ∧ id < 20 then some (m.rdN (Reg.PWR_D_TJ (id - 16)))
  else if 32 ≤ id ∧ id < 48 then some (m.fget (Fld.MEM_STK_TEMP ((id - 32) / 4) ((id - 32) % 4)))
  else if id = 64 then
    some (if m.fget Fld.ID_BOOT_STAGE = 9 ∧ m.flag Fld.ID_DEGRADED then 10 else m.fget Fld.ID_BOOT_STAGE)
  else none

/-- A PLDM sensor reading request; a sensor that does not exist is answered with MALFORMED. -/
def sensorReading (m : Mod) (eid id : Nat) : Mod :=
  match m.sensorValue id with
  | some v => m.emit (.reply eid stOk (leBytes 4 v))
  | none => m.emit (.reply eid stMalformed [])

/-- The level of a reading by the thresholds of Table 23.5: 0 normal, 1 warning, 2 critical, 3 fatal. -/
def sensorLevel (m : Mod) (id v : Nat) : Nat :=
  let steps := fun (w c f : Nat) => if f ≤ v then 3 else if c ≤ v then 2 else if w ≤ v then 1 else 0
  if id = 1 then (if v < 40000 then 1 else 0)
  else if id = 2 then (if m.rdN Reg.PWR_CAP_NOW < v then 1 else 0)
  else if id = 4 ∨ id = 5 then
    if 40 < bitsOf (m.rdN Reg.PWR_COOL) 7 0 ∨ bitsOf (m.rdN Reg.PWR_COOL) 7 0 + 20 < bitsOf (m.rdN Reg.PWR_COOL) 15 8 then 1
    else 0
  else if id = 6 then steps 105 115 115
  else if 16 ≤ id ∧ id < 20 then steps 105 115 125
  else if 32 ≤ id ∧ id < 48 then steps 85 95 105
  else 0

def levelSeen (m : Mod) (id : Nat) : Nat := tabGet (fun _ => 0) m.sec.levels id

/-- A reading has crossed a threshold: a PlatformEventMessage goes to the registered receiver, if there is one. -/
def platformEvent (m : Mod) (id : Nat) : Mod :=
  match m.sensorValue id with
  | none => m
  | some v =>
    if m.sensorLevel id v = m.levelSeen id then m
    else
      let m1 := { m with sec := { m.sec with levels := tabPut (fun _ => 0) m.sec.levels id (m.sensorLevel id v) } }
      match m.sec.receiver with
      | some r => m1.emit (.pldmEvent r id v)
      | none => m1

/-- In recovery mode only MCTP control and the firmware update are answered (R437). -/
def torvordUp (m : Mod) : Bool := m.xipolUp && !m.boot.recovery

/-- The checks of the SEC_ block: an SMBus address is 0x08 to 0x77 (Table 23.7). -/
def secCheck (_m : Mod) (off : Nat) (v : Word) : Nat :=
  if off = Reg.SEC_SMBUS ∧ ¬ (8 ≤ v.toNat ∧ v.toNat ≤ 0x77) then stMalformed else stOk

end Mod

def execGetCert (eid : Nat) (s : State) : Host.Outcome State Fault Refusal :=
  nextMod s (fun m => m.when m.torvordUp (fun m => m.emit (.reply eid stOk Config.deviceCertificate)))
def execAttest (eid : Nat) (nonce : List Byte) (s : State) : Host.Outcome State Fault Refusal :=
  nextMod s (fun m => m.when m.torvordUp (fun m => m.attest eid nonce))
def execGetChallenge (eid : Nat) (s : State) : Host.Outcome State Fault Refusal :=
  nextMod s (fun m => m.when m.torvordUp (fun m => m.getChallenge eid))
def execChallengeExpiry (s : State) : Host.Outcome State Fault Refusal := nextMod s (fun m => m.challengeExpiry)
def execWarmReset (eid : Nat) (s : State) : Host.Outcome State Fault Refusal :=
  nextMod s (fun m => m.when m.torvordUp (fun m => (m.emit (.reply eid stOk [])).warmReset 4))
def execRecovery (eid : Nat) (c : List Byte) (s : State) : Host.Outcome State Fault Refusal :=
  nextMod s (fun m => m.when m.torvordUp (fun m => m.recovery eid c))
def execClaim (eid : Nat) (key c : List Byte) (s : State) : Host.Outcome State Fault Refusal :=
  nextMod s (fun m => m.when m.torvordUp (fun m => m.claim eid key c))
def execRelease (eid : Nat) (c : List Byte) (s : State) : Host.Outcome State Fault Refusal :=
  nextMod s (fun m => m.when m.torvordUp (fun m => m.release eid c))
def execDebugUnlock (eid : Nat) (c : List Byte) (s : State) : Host.Outcome State Fault Refusal :=
  nextMod s (fun m => m.when m.torvordUp (fun m => m.debugUnlock eid c))
def execRevokeKey (eid : Nat) (c : List Byte) (s : State) : Host.Outcome State Fault Refusal :=
  nextMod s (fun m => m.when m.torvordUp (fun m => m.revokeKey eid c))
def execGetSensorReading (eid id : Nat) (s : State) : Host.Outcome State Fault Refusal :=
  nextMod s (fun m => m.when m.torvordUp (fun m => m.sensorReading eid id))
def execPlatformEventMessage (id : Nat) (s : State) : Host.Outcome State Fault Refusal :=
  nextMod s (fun m => m.when m.torvordUp (fun m => m.platformEvent id))
def execEventReceiverRegistration (eid : Nat) (s : State) : Host.Outcome State Fault Refusal :=
  nextMod s (fun m => m.when m.torvordUp (fun m =>
    ({ m with sec := { m.sec with receiver := some eid } }).emit (.reply eid stOk [])))
def execMctpControlMessage (t : Transport) (assign : Option (BitVec 8)) (s : State) :
    Host.Outcome State Fault Refusal := nextMod s (fun m => m.mctpControl t assign)

end Sys2Proof.Machine
end

