-- ==== Sys2Proof/Machine/RegAccess.lean ====
section
/-!
DEFINITION. BAR0: which block a register's offset lies in (Table 0.7), what an aligned 32-bit write or read of it does
(R6 to R8, R36, R413), and the rows of the table that are an access by address (REGISTER_WRITE, REGISTER_READ,
REG_WRITE, REG_READ).
-/

namespace Sys2Proof.Machine

open Sys2Proof

/-- Offset of the first window of a die. -/
def dieWindow : Nat := 0x1000000

namespace Mod

/-! ### Waiting on the host (R351) -/

/-- Everything a cluster has not finished is writes that are retained. -/
def waitsOnHost (m : Mod) (g : Nat) : Bool :=
  let own := m.works.filter (fun w => match w.who with | .core n => n / 8 == g | .ring _ _ => false)
  !own.isEmpty && own.all (fun w => w.retained || (w.unit == .ladle && w.open_ == 0 &&
      m.hub.retained.any (fun x => x.src == .work w.id))) &&
    (coresOf g).all (fun n => !m.wordsLeft n && (m.coreSt n).issued.isNone) &&
    !m.msgs.any (fun x => x.counts && x.core / 8 == g)

/-- HIF_LOSS_STATUS, with HIF_WAIT_HOST as it stands. -/
def lossView (m : Mod) : Word :=
  let w := m.rdN Reg.HIF_LOSS_STATUS
  BitVec.ofNat 32 (insBits w 1 1 (if (List.range 48).any (fun g => m.waitsOnHost g) then 1 else 0))

/-! ### What computed registers read as -/

/-- Module time of the next tick (HEAT_NEXT_TICK); 0 while none is due. -/
def nextTick (m : Mod) : Nat :=
  if m.flag Fld.HEAT_RUNNING then tickAt m.heat.base (m.heatNo + 1)
  else match m.heat.joinIn with
    | none => 0
    | some 0 => m.heat.base.b
    | some _ => tickAt m.heat.base (m.heatNo + 1)

/-- Half of a 64-bit value: the low half at its _LO offset, the high half above it. -/
def half (lo off v : Nat) : Word := BitVec.ofNat 32 (if off = lo then v else v / 2 ^ 32)

/-- What a register reads as where that is formed from other state. -/
def viewOf (m : Mod) (off : Nat) : Option Word :=
  if off = Reg.HEAT_COUNT_LO ∨ off = Reg.HEAT_COUNT_HI then some (half Reg.HEAT_COUNT_LO off m.heatNo)
  else if off = Reg.HEAT_TIME_LO ∨ off = Reg.HEAT_TIME_HI then some (half Reg.HEAT_TIME_LO off m.now)
  else if off = Reg.HEAT_NEXT_TICK_LO ∨ off = Reg.HEAT_NEXT_TICK_HI then some (half Reg.HEAT_NEXT_TICK_LO off m.nextTick)
  else if off = Reg.NUM_SEED_LO ∨ off = Reg.NUM_SEED_HI then some (half Reg.NUM_SEED_LO off m.seed)
  else if off = Reg.NUM_STATUS then some (BitVec.ofNat 32 m.numStatus)
  else if off = Reg.HIF_LOSS_STATUS then some m.lossView
  else if off = Reg.CAST_DIS_STATE then some (BitVec.ofNat 32 m.disView)
  else if off = Reg.FWC_SET_STORED then some (BitVec.ofNat 32 m.setStored)
  else if off = Reg.FWC_SET_HELD then some (BitVec.ofNat 32 m.setHeld)
  else if off = Reg.FWC_JNL_NEXT then some (BitVec.ofNat 32 m.jnlSeq)
  else if off = Reg.FWC_JNL_OLDEST then some (BitVec.ofNat 32 m.jnlOldest)
  else if Reg.FWC_JNL_READ 0 ≤ off ∧ off < Reg.FWC_JNL_READ 8 then
    some (BitVec.ofNat 32 (m.jnlWord ((off - Reg.FWC_JNL_READ 0) / 4)))
  else if Reg.CAST_CLUSTER_STATE 0 ≤ off ∧ off < Reg.CAST_CLUSTER_STATE 48 then
    some (BitVec.ofNat 32 (m.clusterView ((off - Reg.CAST_CLUSTER_STATE 0) / 4)))
  else if off / 0x10000 = 4 then m.memView off
  else if off / 0x10000 = 6 then m.colView off
  else none

/-- Bits of a register that a read shows: not reserved, and not WO. -/
def readableBits (d : RegDef) : Nat := d.ro ||| d.rw ||| d.w1c ||| d.rws ||| d.rwl

/-- A value with the bits no read of the register at an offset shows put to zero; an offset with no register reads 0
(R7, R8). -/
def shown (off : Nat) (v : Word) : Word :=
  match regAt off with
  | none => 0
  | some d => v &&& BitVec.ofNat 32 (readableBits d)

/-- What the register at an offset reads as: its view where it has one, else what it holds. -/
def readValue (m : Mod) (off : Nat) : Word := shown off ((m.viewOf off).getD (m.pendingRd off))

/-! ### Blocks (Table 0.7) -/

/-- The checks of the block an offset lies in. -/
def blockCheck (mem : Memory) (m : Mod) (off : Nat) (v : Word) : Nat :=
  if dieWindow ≤ off then
    if off % 0x10000 < 0x1000 then m.arrCheck off v
    else if off % 0x10000 < 0x1800 then m.coreCheck off v else stOk
  else match off / 0x10000 with
    | 0 => m.idCheck off v
    | 1 => m.heatCheck off v
    | 2 => m.hifCheck off v
    | 3 => m.ingCheck off v
    | 4 => m.memCheck off v
    | 5 => m.fabCheck off v
    | 6 => m.colCheck off v
    | 7 => m.pwrCheck off v
    | 8 => m.castCheck mem off v
    | 9 => m.numCheck off v
    | 10 => m.secCheck off v
    | 11 => m.fwcCheck off v
    | _ => stOk

/-- The origin a confirmation is journalled with. -/
def originNat : Origin → Nat
  | .host => 1
  | .mgmt _ => 2

/-- The effect of an accepted write in the block an offset lies in. -/
def blockEffect (m : Mod) (off : Nat) (v : Word) (o : Origin) : Mod :=
  if dieWindow ≤ off then
    if off % 0x10000 < 0x1000 then m.arrEffect off v
    else if off % 0x10000 < 0x1800 then m.coreEffect off v else m.regStore off v
  else match off / 0x10000 with
    | 0 => m.idEffect off v
    | 1 => m.heatEffect off v
    | 2 => m.hifEffect off v
    | 3 => m.ingEffect off v
    | 4 => m.memEffect off v o
    | 5 => m.fabEffect off v
    | 6 => m.colEffect off v o
    | 7 => m.pwrEffect off v
    | 8 => m.castEffect off v
    | 9 => m.numEffect off v
    | 11 => m.fwcEffect off v (originNat o)
    | _ => m.regStore off v

/-- What a write that its own block refused leaves behind. -/
def blockRefused (m : Mod) (off : Nat) (v : Word) : Mod :=
  match off / 0x10000 with
  | 0 => m.idRefused off v
  | 4 => m.memRefused off v
  | 5 => m.fabRefused off v
  | 6 => m.colRefused off v
  | 7 => m.pwrRefused off v
  | 8 => m.castRefused off v
  | _ => m

/-- The status of a write that reaches a register with a writable field: R7 and R8 first, then the block. -/
def writeStatus (mem : Memory) (m : Mod) (d : RegDef) (off : Nat) (v : Word) : Nat :=
  if m.commonCheck d off v = stOk then m.blockCheck mem off v else m.commonCheck d off v

/-- BAR0 serves an offset: the module is powered, and before ready only the ID_ block answers (R413). -/
def serves (m : Mod) (off : Nat) : Bool := m.boot.powered && (m.ready || decide (off < 0x10000))

/-- A write a register refuses through its own block leaves its trace. -/
def refusedTrace (mem : Memory) (m : Mod) (off : Nat) (v : Word) (after : Mod) : Mod :=
  match regAt off with
  | some d =>
    if m.serves off && writableBits d != 0 && m.commonCheck d off v == stOk && m.blockCheck mem off v != stOk then
      after.blockRefused off v
    else after
  | none => after

/-- An aligned 32-bit write of BAR0 by the host or by management; enabling a ledger shows the entries its memory holds. -/
def busWrite (mem : Memory) (m : Mod) (off : Nat) (v : Word) (o : Origin) : Memory × Mod :=
  let m1 := m.regWrite (fun m off v => m.blockCheck mem off v) (fun m off v => m.blockEffect off v o) off
    (m.readValue off) v o
  let m2 := m.refusedTrace mem off v m1
  let m3 := match rowIndex (Reg.MEM_LG_CFG 0) 0x20 64 off with
    | some k => m2.when (m2.flag (Fld.MEM_LG_EN k) && !m.flag (Fld.MEM_LG_EN k)) (fun m => m.showLedger mem k)
    | none => m2
  (ingestMemory mem m m3 off, m3)

/-- An aligned 32-bit read of BAR0: the value, and the module with the _HI half latched by a read of a _LO register
(R36). Before ready a read outside the ID_ block returns all ones (R413). -/
def busRead (m : Mod) (off : Nat) : Word × Mod :=
  if !m.serves off then (0xFFFFFFFF, m)
  else match tabGet (fun _ => none) m.latch off with
    | some v => (shown off v, { m with latch := tabPut (fun _ => none) m.latch off none })
    | none =>
      let isLo := match regAt off with
        | some d => loBases.contains d.base
        | none => false
      (m.readValue off, m.when isLo (fun m =>
        { m with latch := tabPut (fun _ => none) m.latch (off + 4) (some (m.readValue (off + 4))) }))

/-- Offsets of the MSI-X table and pending-bit array, which also take aligned 64-bit accesses (R6). -/
def wideOk (off : Nat) : Bool := decide (0x24000 ≤ off ∧ off < 0x24400) || decide (0x25000 ≤ off ∧ off < 0x25008)

/-- The aligned 32-bit accesses an access of some size is made of; none where BAR0 does not take it (R6). -/
def accessWords (off size : Nat) : Option (List Nat) :=
  if size = 4 ∧ off % 4 = 0 then some [off]
  else if size = 8 ∧ off % 8 = 0 ∧ wideOk off = true then some [off, off + 4]
  else none

/-- The status a write of a register completes with: that of its drop where it is dropped with an entry in the journal
(R4, R7, R8), OK otherwise. -/
def completionStatus (mem : Memory) (m : Mod) (off : Nat) (v : Word) : Nat :=
  match regAt off with
  | some d => if m.serves off && writableBits d != 0 then m.writeStatus mem d off v else stOk
  | none => stOk

/-- A register write of any size and origin; management writes reach the module while Xipol answers, and are
answered with the status they complete with (R4; DEDUCED for other drops, log entry 20). -/
def commandWrite (mem : Memory) (m : Mod) (off : Nat) (v : Word) (o : Origin) : Memory × Mod :=
  match o with
  | .host => m.busWrite mem off v o
  | .mgmt e =>
    if m.torvordUp then
      ((m.busWrite mem off v o).1, (m.busWrite mem off v o).2.emit (.reply e (m.completionStatus mem off v) []))
    else (mem, m)

/-- A host write of `size` bytes: dropped where BAR0 does not take it. -/
def hostWrite (mem : Memory) (m : Mod) (off size : Nat) (v : BitVec 64) : Memory × Mod :=
  match accessWords off size with
  | some [a] => m.commandWrite mem a (v.setWidth 32) .host
  | some [a, b] =>
    let p := m.commandWrite mem a (v.setWidth 32) .host
    p.2.commandWrite p.1 b ((v >>> 32).setWidth 32) .host
  | _ => (mem, m)

/-- A host read of `size` bytes: all ones in every 32-bit half it covers where BAR0 does not take it. -/
def hostRead (m : Mod) (off size : Nat) : Mod :=
  if !m.boot.powered then m
  else match accessWords off size with
    | some offs => offs.foldl (fun m a => (m.busRead a).2.emit (.regValue a (m.busRead a).1)) m
    | none => (List.range ((off % 4 + size + 3) / 4)).foldl
        (fun m k => m.emit (.regValue (off / 4 * 4 + 4 * k) 0xFFFFFFFF)) m

/-- REG_READ: the register as an aligned 32-bit read returns it (R450). -/
def mgmtRead (m : Mod) (eid off : Nat) : Mod :=
  if off % 4 = 0 then (m.busRead off).2.emit (.reply eid stOk (leBytes 4 (m.busRead off).1.toNat))
  else m.emit (.reply eid stOk (leBytes 4 0xFFFFFFFF))

end Mod

/-- A register write by its offset; an offset that is not a multiple of 4 is dropped (R6). -/
def writeReg (off : Nat) (v : Word) (o : Origin) (s : State) : Host.Outcome State Fault Refusal :=
  nextMem s (fun mem m => m.commandWrite mem off v o)

def execRegisterWrite (off size : Nat) (v : BitVec 64) (s : State) : Host.Outcome State Fault Refusal :=
  nextMem s (fun mem m => m.hostWrite mem off size v)
def execRegisterRead (off size : Nat) (s : State) : Host.Outcome State Fault Refusal :=
  nextMod s (fun m => m.hostRead off size)
def execRegWrite (eid off : Nat) (v : Word) (s : State) : Host.Outcome State Fault Refusal :=
  if off % 4 = 0 then writeReg off v (.mgmt eid) s
  else nextMod s (fun m => m.when m.torvordUp (fun m => m.emit (.reply eid stOk [])))
def execRegRead (eid off : Nat) (s : State) : Host.Outcome State Fault Refusal :=
  nextMod s (fun m => m.when m.torvordUp (fun m => m.mgmtRead eid off))

end Sys2Proof.Machine
end

