-- ==== Sys2Proof/Machine/Boundary.lean ====
section
/-!
DEFINITION. The tick and its boundary window (01_heat.md): steps 0 to 6 of Table 1.2 in their order, with the miss
and realignment of clusters (R18 to R21), the change of period (R25, R26), leaving and joining the heat (R24, R30,
R32), the stop of disabled rings (R308) and the held state of a module without its host (R353).
-/

namespace Sys2Proof.Machine

open Sys2Proof

namespace Mod

/-! ### Clusters at a boundary -/

/-- A cluster stands apart from the heat: lost, held, on a halted die or in maintenance (R21, R353, R401, R428). -/
def clusterApart (m : Mod) (g : Nat) : Bool :=
  let c := m.clusterSt g
  c.lost || c.held || c.maint || m.dieHalted (g / 12) || m.flag Fld.HIF_HOST_HELD

/-- A cluster misses this tick (R19, R21, R351, R387). -/
def misses (m : Mod) (g : Nat) : Bool :=
  !m.clusterApart g && !m.castStopped && !m.clusterFinished g && !m.waitsOnHost g

/-- A miss is counted, stamped and posted (R20); the watchdog has to act when the count reaches HEAT_WDOG_HEATS. -/
def countMiss (m : Mod) (g : Nat) : Mod :=
  let m1 := (m.finc (Fld.HEAT_CM_CONSEC g)).finc (Fld.HEAT_CM_TOTAL g)
  let n := m1.fget (Fld.HEAT_CM_CONSEC g)
  let wd := m.fget Fld.HEAT_WDOG_HEATS
  (m1.postCluster 0x021 g (leBytes 6 ((m.heatNo + 2 ^ 48 - 1) % 2 ^ 48) ++ leBytes 1 n)).modCluster g (fun c => { c with
    missing := true, missedTicks := c.missedTicks + 1, wdogDue := wd != 0 && decide (wd ≤ n) })

/-- The clusters that missed this tick take no part in its step 6, and every other one may (R18). -/
def markLateClusters (m : Mod) (late : List Nat) : Mod :=
  (List.range 48).foldl (fun m g => m.modCluster g (fun c => { c with late := late.contains g })) m

/-- Step 1: the heat is closed. -/
def closeHeat (m : Mod) : Mod :=
  let m0 := m.cancelDisabled.endStopping
  let late := (List.range 48).filter (fun g => m0.misses g)
  let m1 := (late.foldl (fun m g => m.countMiss g) m0).markLateClusters late
  m1.when (!late.isEmpty) (fun m =>
    (m.inc Reg.HEAT_MISS_COUNT).setPwr (fun p => { p with missHeats := p.missHeats + 1 }))

/-- A cluster that missed ticks takes part again (R19, R20). -/
def realign (m : Mod) (g : Nat) : Mod :=
  let c := m.clusterSt g
  if c.missing then
    ((m.fset (Fld.HEAT_CM_CONSEC g) 0).modCluster g (fun c => { c with
      missing := false, missedTicks := 0, wdogDue := false })).postCluster 0x022 g (leBytes 4 (min c.missedTicks 0xFFFFFFFF))
  else m

/-- A cluster takes part in step 6: one that missed this tick waits for a later tick, although it may have finished since
(R18, R19). -/
def takesPart (m : Mod) (g : Nat) : Bool :=
  !(m.clusterSt g).late && !m.clusterApart g && !m.castStopped && m.clusterFinished g

/-! ### The held state (R353) -/

/-- Every enabled producer's lane was empty at its last evaluation. -/
def lanesDry (m : Mod) : Bool := m.producers.all (fun p => (m.laneSt p).free == m.laneData p)

/-- The module enters the held state at this step 6. -/
def holdsNow (m : Mod) : Bool :=
  m.flag Fld.HIF_HOLD_EN && m.detached && !m.flag Fld.HIF_HOST_HELD && m.hub.dry && m.lanesDry

/-- Every RUNNING core becomes HELD. -/
def holdModule (m : Mod) : Mod := ((List.range 48).foldl (fun m g => m.holdCluster g) m).fput Fld.HIF_HOST_HELD true

/-- Some running core chose an alternative at this step 6. -/
def someChose (m : Mod) : Bool :=
  (List.range 384).any (fun n => m.coreState n == 1 &&
    (match (m.coreSt n).choice with | some c => c.heat == m.heatNo | none => false))

/-- Step 6: patterns that can no longer run stop, and every cluster that takes part chooses. -/
def chooseAll (mem : Memory) (m : Mod) : Mod :=
  let m1 := m.when m.holdsNow (fun m => m.holdModule)
  let m2 := (List.range 48).foldl (fun m g =>
    if m.takesPart g then
      (((m.realign g).failedStop mem g).widthStop mem g).chooseCluster mem g |>.notePhase mem g
    else m.setPwr (fun p => { p with phase := tabPut (fun _ => 0) p.phase g 0 })) m1
  { m2 with hub := { m2.hub with dry := !m2.someChose } }

/-! ### Step 2 -/

/-- The change of configuration a time message carries: the time master's own, which other modules hand on as they know it
(R26; DEDUCED, log entry 146). -/
def toldChange (m : Mod) : Option HeatChange :=
  if m.flag Fld.HEAT_IS_MASTER || m.heat.masterCfg.isNone then m.heat.change else m.heat.masterChange

/-- A time message on every trained link, once per heat (R29); it carries what is in force from this tick on. -/
def sendTime (m : Mod) : Mod :=
  (List.range 13).foldl (fun m p =>
    if m.isUp p then
      m.emit (.timeMessage p m.now m.heatNo m.heat.base.b m.heat.base.n (m.rd Reg.HEAT_CFG)
        (m.toldChange.map (fun c => (c.at_, c.cfg))) m.candidates)
    else m) m

/-- A new configuration takes force at this tick (R25). -/
def takeCfg (m : Mod) (cfg : Word) : Mod :=
  { m.wr Reg.HEAT_CFG cfg with heat := { m.heat with base := { b := m.heat.tickTime, n := m.heatNo, p := cfgPeriod cfg } } }

/-- The heat configuration: the module's own armed change, or the time master's where the two differ (R25, R26). -/
def heatConfig (m : Mod) : Mod :=
  let due := fun (c : Option HeatChange) => (c.filter (fun x => x.at_ == m.heatNo)).map (·.cfg)
  let own := due m.heat.change
  let master := if m.flag Fld.HEAT_IS_MASTER || m.heat.masterCfg.isNone then own else due m.heat.masterChange
  let m1 := m.when own.isSome (fun m =>
    ({ m with heat := { m.heat with change := none } }).fput Fld.HEAT_CHANGE_ARM false)
  if own = master then
    match own with
    | some cfg => m1.takeCfg cfg
    | none => m1
  else
    let cfg := (master <|> m.heat.masterCfg).getD (m.rd Reg.HEAT_CFG)
    ((m1.takeCfg cfg).postModule 0x024 (leBytes 4 cfg.toNat ++ leBytes 6 m.heatNo)).journal stOk 0 3 Reg.HEAT_CFG
      (m.rdN Reg.HEAT_CFG) cfg.toNat (m.heat.master.getD 0)

/-- What a held write brings about in its block when it takes force. -/
def heldApplied (m : Mod) (off : Nat) (old : Word) : Mod := (m.numApplied off old).colApplied off

/-- Step 2: pending switches take effect, in the order of Table 1.2. -/
def switches (mem : Memory) (m : Mod) (t : TickReport) : Mod :=
  let m1 := (m.heatConfig.sendTime).powerBoundary mem t
  let m2 := ((List.range 48).foldl (fun m g => m.applySlags g) m1).maintFinish
  let m3 := m2.applyRules.applyMaps.applyLinks.applyLdim.applyBuckets
  let m4 := (m3.castBoundary mem m.heat.tickTime).maintBoundary
  m4.applyHeld (fun m off old => m.heldApplied off old)

/-! ### Steps 4 and 5 -/

/-- Step 4: records and events are posted, and every producer's notice is written again (R345). -/
def postAll (m : Mod) : Mod := m.postRecords.refreshNotices

/-- Step 5 begins: with the doorbell enabled and the link up the page is read, and the step ends when it returns or is
late; with the link down the page is unchanged (R15, R302); while detached none is read (R349). -/
def readPage (m : Mod) : Mod :=
  if m.flag Fld.HIF_DB_EN then
    if m.flag Fld.HIF_LINK_UP && m.detached then m
    else if m.flag Fld.HIF_LINK_UP then
      ({ m with heat := { m.heat with pageRead := true } }).readHost (m.base64 Reg.HIF_DB_BASE_LO) 4096
    else (m.inc Reg.HEAT_DB_LATE).acceptUnchanged
  else m

/-! ### The tick -/

/-- Step 0: heat `n` begins at its tick time. -/
def countTick (m : Mod) (tick : Nat) (n : Nat) : Mod :=
  { m with heat := { m.heat with
      count := BitVec.ofNat 48 n, tickTime := tick, time := BitVec.ofNat 64 (max m.now tick), pageRead := false } }

/-- Messages acknowledged by their receivers are no longer open (R13). -/
def acknowledge (m : Mod) (ids : List Nat) : Mod := { m with msgs := m.msgs.filter (fun x => !ids.contains x.id) }

/-- The module leaves the heat at this tick (R30, R32): with a time fault it is held and handled as a lost module. -/
def leaveHeat (m : Mod) (fault : Option Int) : Mod :=
  let m1 := { m.fput Fld.HEAT_RUNNING false with heat := { m.heat with offsetFault := none, joinIn := none } }
  match fault with
  | some off => ((m1.fput Fld.HEAT_HELD true).postModule 0x025 (leBytes 8 (twos 64 off))).loseSelf.postAll.attestAll
  | none => m1.postAll.attestAll

/-- Step 6 begins once step 5 has ended on this module (R14). -/
def afterPage (mem : Memory) (m : Mod) : Mod := if m.heat.pageRead then m else m.chooseAll mem

/-- A late or lost page read ends step 5, and step 6 follows (R14, R15). -/
def pageLate (mem : Memory) (m : Mod) : Mod := if m.heat.pageRead then m.losePage.chooseAll mem else m

/-- The doorbell page read returns: step 5 ends with the page taken, and step 6 follows (R14, R302, R304). A read that
returns later than 2.0 microseconds after the tick is discarded (R15). -/
def pageReturn (mem : Memory) (m : Mod) (page : List Byte) : Mod :=
  if m.heat.pageRead && m.flag Fld.HIF_LINK_UP && !m.detached then
    if m.now ≤ m.pageDue then (m.takePage page).chooseAll mem else m.pageLate mem
  else m

/-- The page read has not returned by 2.0 microseconds after the tick, or the host link is down or the module detached
(R15, R349). -/
def pageTimeout (mem : Memory) (m : Mod) : Mod :=
  if m.pageDue ≤ m.now ∨ m.flag Fld.HIF_LINK_UP = false ∨ m.detached = true then m.pageLate mem else m

/-- Steps 1 to 6 of a boundary window; step 6 waits for the end of a page read. -/
def window (mem : Memory) (m : Mod) (t : TickReport) : Mod :=
  let m1 := m.closeHeat
  let m2 := m1.switches mem t
  let m3 := { m2.attestBoundary with tables := { m2.tables with proposals := [] } }
  ((m3.startRefresh mem).postAll.readPage).afterPage mem

/-- A tick that finds a page read still open: the read was late 2.0 microseconds after the tick before, and module time
has passed that moment. -/
def overdue (mem : Memory) (m : Mod) : Mod :=
  if m.heat.pageRead then
    ({ m with heat := { m.heat with time := BitVec.ofNat 64 (max m.now m.pageDue) } }).pageLate mem
  else m

/-- A tick of the plane's heat; a page read still open is late (R15). A participating module runs its boundary window or
leaves; one that is to join counts ticks until it does, and follows the plane's changes of configuration (R26). Every
module sends its time messages, whether it takes part or not (R29). -/
def tick (mem : Memory) (m : Mod) (t : TickReport) : Mod :=
  if !m.ready then m
  else if m.flag Fld.HEAT_RUNNING then
    let n := (m.heatNo + 1) % 2 ^ 48
    let m1 := (((m.overdue mem).acknowledge t.acked).arrivalsCount).countTick (tickAt m.heat.base n) n
    if m.heat.offsetFault.isSome then (m1.leaveHeat m.heat.offsetFault).sendTime
    else if !m.flag Fld.HEAT_RUN then (m1.leaveHeat none).sendTime
    else m1.window mem t
  else match m.heat.joinIn with
    | none => m.sendTime
    | some (k + 2) =>
      let n := (m.heatNo + 1) % 2 ^ 48
      let m1 := m.countTick (tickAt m.heat.base n) n
      (({ m1 with heat := { m1.heat with joinIn := some (k + 1) } }).heatConfig).sendTime
    | some k =>
      let n := if k = 0 then m.heat.base.n else (m.heatNo + 1) % 2 ^ 48
      let m0 := { m.arrivalsCount with heat := { m.heat with joinIn := none, everRan := true } }
      let m1 := m0.countTick (tickAt m.heat.base n) n
      (m1.fput Fld.HEAT_RUNNING true).window mem t

end Mod

def execDoorbellPageReturn (page : List Byte) (s : State) : Host.Outcome State Fault Refusal :=
  nextMod s (fun m => m.pageReturn s.mem page)
def execHeatDbLate (s : State) : Host.Outcome State Fault Refusal := nextMod s (fun m => m.pageTimeout s.mem)
def execHeatTick (t : TickReport) (s : State) : Host.Outcome State Fault Refusal := nextMod s (fun m => m.tick s.mem t)

end Sys2Proof.Machine
end

