-- ==== Sys2Proof/Machine/Ladle.lean ====
section
/-!
DEFINITION. Ladles (16_descriptors_and_records.md, with R142 to R152 of 07_backward_pass.md and R224, R225 of
11_memory_tiers.md): the checks of a ladle block or descriptor, copies and moves, staging, hand-offs, pattern loads, and
the completion of ladle work.
-/

namespace Sys2Proof.Machine

open Sys2Proof

/-! ### Layouts (Tables 16.1 to 16.6), as numbers of 512 bits -/

def dsStep (b : Nat) : Nat := bitsOf b 63 32
def dsMb (b : Nat) : Nat := bitsOf b 31 16
def dsLap (b : Nat) : Nat := bitsOf b 15 9
def dsFence (b : Nat) : Bool := bitOf b 8
def dsKind (b : Nat) : Nat := bitsOf b 7 0

def ldSrc (b : Nat) : Nat := bitsOf b 511 448
def ldDst (b : Nat) : Nat := bitsOf b 447 384
def ldGidx (b : Nat) : Nat := bitsOf b 383 320
def ldConv (b : Nat) : Nat := bitsOf b 319 288
def ldCount (b : Nat) : Nat := bitsOf b 287 248
def ldSrcFmt (b : Nat) : Nat := bitsOf b 247 244
def ldWatch (b : Nat) : Nat := bitsOf b 243 234
def ldRclr (b : Nat) : Bool := bitOf b 233

/-- The peer window of the source, where its peer bit is set; and of the destination. -/
def ldSrcPeer (b : Nat) : Option Nat := if bitOf b 232 then some (bitsOf b 231 229) else none
def ldDstPeer (b : Nat) : Option Nat := if bitOf b 228 then some (bitsOf b 227 225) else none

def sgBase (b : Nat) : Nat := bitsOf b 511 448
def sgSram (b : Nat) : Nat := bitsOf b 447 384
def sgSize (b : Nat) : Nat := 64 * bitsOf b 383 366
def sgSlots (b : Nat) : Nat := bitsOf b 365 359
def sgRegion (b : Nat) : Nat := bitsOf b 358 357
def sgFmt (b : Nat) : Nat := bitsOf b 356 353

def hoG (b : Nat) : Nat := bitsOf b 431 368
def hoM (b : Nat) : Nat := bitsOf b 367 357

def plSrc (b : Nat) : Nat := bitsOf b 511 448
def plAt (b : Nat) : Nat := bitsOf b 447 400
def plChip (b : Nat) : Nat := bitsOf b 399 385
def plCluster (b : Nat) : Nat := bitsOf b 384 381
def plCore (b : Nat) : Bool × Nat := (bitOf b 377, bitsOf b 380 378)

/-- Kinds allowed on a ring, and in a work word (Table 16.2). -/
def ringKind (k : Nat) : Bool := k == 1 || k == 2 || k == 5 || k == 7 || k == 8
def wordKind (k : Nat) : Bool := decide (1 ≤ k ∧ k ≤ 6)

/-- A copy converts. -/
def ldConverts (b : Nat) : Bool := ldConv b != 0

/-- Bytes a COPY or MOVE reads, and writes. -/
def ldSrcBytes (b : Nat) : Nat :=
  if ldSrcFmt b = 15 then 4 * ldCount b
  else if ldConverts b || ldRclr b then rowBytes (ldSrcFmt b) (ldCount b) else ldCount b
def ldDstBytes (b : Nat) : Nat := if ldConverts b then rowBytes (cvFmt (ldConv b)) (ldCount b) else ldSrcBytes b

/-! ### Checks (R325, Table 16.7) -/

/-- Reserved fields, and fields the kind or the form does not use, are zero (code 1). -/
def ladleReservedOk (ring : Bool) (b : Nat) : Bool :=
  match dsKind b with
  | 1 => bitsOf b 224 128 == 0 && (ldGidx b == 0 || (ldConverts b && cvRound (ldConv b) == 2)) &&
      (ldWatch b == 0 || ldConverts b) && (ldSrcFmt b == 0 || ldConverts b || ldRclr b) &&
      (bitOf b 232 || bitsOf b 231 229 == 0) && (bitOf b 228 || bitsOf b 227 225 == 0)
  | 2 => bitsOf b 247 128 == 0 && ldGidx b == 0 && ldConv b == 0
  | 3 => bitsOf b 352 128 == 0
  | 4 => bitsOf b 352 128 == 0
  | 5 => !bitOf b 432 && bitsOf b 431 128 == 0 && !(ring && bitsOf b 437 433 != 0)
  | 6 => !bitOf b 432 && bitsOf b 356 128 == 0
  | 7 => bitsOf b 376 128 == 0
  | _ => bitsOf b 511 128 == 0

/-- The kind, where it was posted, and in a work word the header and peer bits (code 2). -/
def ladleKindOk (ring : Bool) (b : Nat) : Bool :=
  if ring then ringKind (dsKind b)
  else wordKind (dsKind b) && bitsOf b 127 8 == 0 && !(decide (dsKind b ≤ 2) && (bitOf b 232 || bitOf b 228))

def stageFmtOk (f : Nat) : Bool := decide (1 ≤ f ∧ f ≤ 5) || f == 9 || f == 10

/-- An address at which a block of a CB format may start. Rows of CB data start on 64-byte units (R77, R174, Table 6.3) and
hold whole blocks of 48 or 24 bytes from there on (R94), so a block starts at a multiple of 16 or 8 and nowhere else (DEDUCED,
log entry 91). -/
def blockStart (f a : Nat) : Bool := if f = 9 then a % 16 == 0 else if f = 10 then a % 8 == 0 else true

/-- Formats (code 3). -/
def ladleFormatOk (b : Nat) : Bool :=
  match dsKind b with
  | 1 =>
    let f := ldSrcFmt b
    (!ldConverts b || (cvOk (ldConv b) && (decide (1 ≤ f ∧ f ≤ 10) || (f == 15 && ldRclr b)) &&
      (!(isCb f || isCb (cvFmt (ldConv b))) || ldCount b % 32 == 0) &&
      blockStart f (ldSrc b) && blockStart (cvFmt (ldConv b)) (ldDst b))) &&
    (!ldRclr b || crFmtOk f)
  | 3 => stageFmtOk (sgFmt b)
  | 4 => stageFmtOk (sgFmt b)
  | _ => true

/-- Sizes (code 4). -/
def ladleSizeOk (b : Nat) : Bool :=
  match dsKind b with
  | 1 => ldCount b != 0
  | 2 => ldCount b != 0 && ldCount b % 64 == 0 && ldSrc b % 64 == 0 && ldDst b % 64 == 0
  | 3 => sgSize b != 0 && isPow2 (sgSlots b) && decide (sgSlots b ≤ 64)
  | 4 => sgSize b != 0 && isPow2 (sgSlots b) && decide (sgSlots b ≤ 64)
  | 6 => isPow2 (hoM b) && decide (hoM b ≤ 1024)
  | _ => true

/-- The key under which a reply for a peer window's offset is listed. -/
def peerKey (w a : Nat) : Nat := 2 ^ 64 * (w + 1) + a

/-- The key under which the reply for the flush read of a peer window is listed (R313). -/
def flushKey (w : Nat) : Nat := 2 ^ 64 * (w + 9)

/-- Slot of a staging block for a micro-batch (R143, R322). -/
def sgSlot (b mb : Nat) : Nat := mb % sgSlots b

/-- First cells of runs of bytes: one run per destination line, over the bytes that are there. -/
def lineRuns : Nat → List (Option Byte) → List (Nat × List Byte)
  | _, [] => []
  | a, none :: xs => lineRuns (a + 1) xs
  | a, some b :: xs =>
    match lineRuns (a + 1) xs with
    | (a', bs) :: rest => if a' = a + 1 ∧ (a + 1) % 64 ≠ 0 then (a, b :: bs) :: rest else (a, [b]) :: (a', bs) :: rest
    | [] => [(a, [b])]

/-- Stretches of `n` bytes from address `a`, cut at line boundaries: offset and length. -/
def lineCuts (a n : Nat) : List (Nat × Nat) :=
  (List.range ((a % 64 + n + 63) / 64)).map (fun i =>
    let lo := 64 * i - a % 64
    (lo, min (64 * (i + 1) - a % 64) n - lo))

/-- Values of a source run of a copy. -/
def ladleVals (f : Nat) (bytes : List Byte) (n : Nat) : List Val :=
  if f = 15 then (wordsOf bytes).map (fun c => valInt (signedOf 32 c)) else decodeRun f 0 bytes n

namespace Mod

/-- An offset of another module that a request may name. -/
def farTier (o : Nat) : Nat :=
  if o < 0xC00000000 then 1 else if tier1Base ≤ o ∧ o < tier1Base + 0x4000000000 then 2
  else if isTier2Offset o then 3 else 0

/-- A stretch lies in the tiers a COPY or MOVE may name (R242, R243, R320, R321). -/
def ladleRange (m : Mod) (a n : Nat) (sram : Bool) : Bool :=
  let z := a + (max n 1 - 1)
  decide (z < 2 ^ 64 ∧ addrModule a = addrModule z) &&
    (if addrModule a = m.self then
      (m.ownRegion a n sram).isSome || (isTier2Offset (addrOffset a) && isTier2Offset (addrOffset z))
    else farTier (addrOffset a) != 0 && farTier (addrOffset a) == farTier (addrOffset z) &&
      (farTier (addrOffset a) != 1 || addrDie a == addrDie z))

/-- An access to a peer window lies inside a valid window (R313). -/
def peerRange (m : Mod) (w a n : Nat) : Bool :=
  m.flag (Fld.HIF_PW_VALID w) && decide (a + n ≤ m.rdN (Reg.HIF_PW_SIZE w) * 4096)

/-- Two stretches of addresses share a byte; both in the same peer window, or neither in one. -/
def ladleOverlap (m : Mod) (b : Nat) : Bool :=
  let cell := fun (a : Nat) => match placeCell (placeOf m a) with | some c => c | none => 2 ^ 64 + canon a
  match ldSrcPeer b, ldDstPeer b with
  | some w, some v => w == v && overlaps ⟨ldSrc b, ldSrcBytes b⟩ ⟨ldDst b, ldDstBytes b⟩
  | none, none => overlaps ⟨cell (ldSrc b), ldSrcBytes b⟩ ⟨cell (ldDst b), ldDstBytes b⟩
  | _, _ => false

/-- A stretch in tier 0, 1 or 2 of this module. -/
def inOwnTiers (m : Mod) (a n : Nat) : Bool := addrModule a == m.self && m.ladleRange a n false

/-- Addresses (code 5); `core` is the issuing core of a work word. -/
def ladleRangeOk (m : Mod) (core : Option Nat) (b : Nat) : Bool :=
  match dsKind b with
  | 1 =>
    (match ldSrcPeer b with
      | some w => !ldRclr b && m.peerRange w (ldSrc b) (ldSrcBytes b)
      | none => if ldRclr b then (m.ownRegion (ldSrc b) (ldSrcBytes b) false).isSome
        else m.ladleRange (ldSrc b) (ldSrcBytes b) true) &&
    (match ldDstPeer b with
      | some w => m.peerRange w (ldDst b) (ldDstBytes b)
      | none => m.ladleRange (ldDst b) (ldDstBytes b) true) && !m.ladleOverlap b
  | 2 => m.inOwnTiers (ldSrc b) (ldCount b) && m.ladleRange (ldDst b) (ldCount b) false && !m.ladleOverlap b
  | 5 => (core.isNone && srStat b == 0) || (m.ownRegion (srStat b) 16 true).isSome
  | 6 => (m.ownRegion (srStat b) 16 true).isSome && hoG b % 4 == 0 && addrModule (hoG b) == m.self && (match placeOf m (hoG b) with | .tier0 _ _ => true | _ => false)
  | 7 =>
    plSrc b % 64 == 0 && m.inOwnTiers (plSrc b) 65536 && plChip b / 4 == m.self && decide (plCluster b < 12)
  | 8 => true
  | _ =>
    match core with
    | none => false
    | some n =>
      sgBase b % 64 == 0 && sgSram b % 64 == 0 &&
      (match placeOf m (sgBase b), m.ownRegion (sgBase b) (sgSlots b * sgSize b) false with
        | .tier0 d _, some _ => d == n / 96
        | _, _ => false) &&
      (match placeOf m (sgSram b), m.ownRegion (sgSram b) (sgSize b) true with
        | .sram d c _, some _ => d == n / 96 && c == n / 8 % 12
        | _, _ => false)

/-- Probe results of the windows named (code 6). -/
def ladlePeerOk (m : Mod) (b : Nat) : Bool :=
  dsKind b != 1 || ((ldSrcPeer b).toList ++ (ldDstPeer b).toList).all (fun w => m.fget (Fld.HIF_PW_RESULT w) == 1)

/-- The first error of Table 16.7 of a block or descriptor: kind first, then in code order. -/
def ladleError (m : Mod) (core : Option Nat) (ring : Option (Nat × Nat)) (b : Nat) : Nat :=
  if !ladleKindOk ring.isSome b then 2
  else if !ladleReservedOk ring.isSome b then 1
  else if !ladleFormatOk b then 3
  else if !ladleSizeOk b then 4
  else if !m.ladleRangeOk core b then 5
  else if !m.ladlePeerOk b then 6
  else if ring.any (fun p => dsLap b != p.2 / m.sqSize p.1 % 128) then 7
  else if dsKind b == 7 && (plCore b).1 && decide (plAt b < m.heatNo + 2) then 8
  else 0

/-- The first error of a ladle work word: the word itself, then its block. -/
def ladleWordError (m : Mod) (n w b : Nat) : Nat :=
  if 0xE0000 < 64 * bitsOf w 55 42 + 64 then 5
  else if !ladleKindOk false b then 2
  else if bitsOf w 41 0 ≠ 0 then 1
  else m.ladleError (some n) none b

/-! ### Taking a word or a descriptor -/

/-- A ladle word rejected at issue. -/
def rejectLadle (m : Mod) (n code : Nat) : Mod := (m.rejectWord n (Reg.CORE_LD_ERR n) code).countLadle n stMalformed

/-- A ladle word that completes at once with a status. -/
def ladleEnds (m : Mod) (n status : Nat) : Mod := (m.takeWord n).countLadle n status

/-- The ladle word waiting at a core for a given kind: word, place and block; a word of no allowed kind answers to
every kind. -/
def ladleWord (m : Mod) (n kind : Nat) : Option (Nat × Nat × Nat) :=
  match m.issuedFor n 5 with
  | none => none
  | some (w, pos, b) =>
    if wordKind (dsKind b) && dsKind b != kind then none else some (w, pos, b)

/-- Core named by a PATTERN_LOAD. -/
def plTarget (b : Nat) : Nat := (plChip b % 4 * 12 + plCluster b) * 8 + (plCore b).2

/-- A descriptor that waits in the queue of a missing cluster (R18). -/
def waitsCluster (m : Mod) (w : RingWork) : Bool :=
  match w.body with
  | some v => dsKind v.toNat == 7 && (m.clusterSt (plTarget v.toNat / 8)).missing
  | none => false

/-- A descriptor of a kind whose body has been checked and which may start, in a pour (R304): not yet started nor stopped
(R308), with its fence bit set only once every earlier descriptor of its ring has completed (R252), and after the earlier ones have started,
those that wait for a missing cluster apart (R304, R18). -/
def ringDesc (m : Mod) (r i kind : Nat) : Option Nat :=
  match m.ringWork r i with
  | none => none
  | some w =>
    match w.body with
    | none => none
    | some v =>
      let b := v.toNat
      let before := m.hub.rings.filter (fun x => x.ring == r && x.index != i && decide (diff32 i x.index < 2 ^ 31))
      if !m.inPour || dsKind b != kind || w.started || w.stopping || (dsFence b && !before.isEmpty) ||
          before.any (fun x => !x.started && !m.waitsCluster x) then none
      else some b

/-- A descriptor has started. -/
def startRing (m : Mod) (r i : Nat) : Mod :=
  { m with hub := { m.hub with rings := m.hub.rings.map (fun x =>
      if x.ring == r && x.index == i then { x with started := true } else x) } }

/-- Put a descriptor into flight; its number is `m.nextId`. -/
def launchRing (m : Mod) (r i b : Nat) : Mod :=
  let m1 := m.startRing r i
  { m1 with
    works := m1.works ++ [{ id := m.nextId, who := .ring r i, unit := .ladle, pos := 0, heat := m.heatNo, word := 0
                            step := dsStep b, mb := dsMb b, dst := [] }]
    nextId := m.nextId + 1 }

/-! ### Requests of a ladle -/

/-- A request to this module's own tiers that gets no answer in time: it stays open until it times out (R228). -/
def noAnswer (m : Mod) (a : Nat) (read : Bool) (ans : Option Answer) : Bool :=
  ans == some .tierTimeout && m.reach a read == stOk && (placeCell (placeOf m a)).any isTierCell

/-- One read of a ladle: of a peer window, by READ_CLEAR, or of an address. -/
def ladleRead (mem : Memory) (m : Mod) (peer : Option Nat) (a len : Nat) (rclr : Bool) (rs : Replies) :
    Memory × Mod × Got :=
  match peer with
  | some w =>
    if m.detached || !m.flag Fld.HIF_LINK_UP then (mem, m, .done stTierError [])
    else match replyFor rs (peerKey w a) with
      | some (.data bs) => (mem, m.emit (.hostRead (m.base64 (Reg.HIF_PW_BASE_LO w) + a) len), .done stOk (padBytes len bs))
      | some x => (mem, m.emit (.hostRead (m.base64 (Reg.HIF_PW_BASE_LO w) + a) len),
          .done (if answerStatus x = stOk then stTierError else answerStatus x) [])
      | none => (mem, m.emit (.hostRead (m.base64 (Reg.HIF_PW_BASE_LO w) + a) len), .waiting)
  | none =>
    if rclr then
      match m.reach a true, placeCell (placeOf m a) with
      | 0, some c => let r := m.readClear mem c len (replyFor rs a); (r.1, r.2.1, .done r.2.2.1 r.2.2.2)
      | st, _ => (mem, m, .done (if st = stOk then stTierError else st) [])
    else if m.noAnswer a true (replyFor rs a) then (mem, m, .waiting)
    else let r := m.readReq mem a len (replyFor rs a); (mem, r.2, r.1)

/-- One write of a ladle's work: to a peer window, or to an address. -/
def ladleWrite (mem : Memory) (m : Mod) (host relaxed : Bool) (id : Nat) (peer : Option Nat) (a : Nat)
    (bytes : List Byte) (rs : Replies) : Memory × Mod × Option Nat :=
  match peer with
  | some w =>
    (mem, m.toHost ⟨m.base64 (Reg.HIF_PW_BASE_LO w) + a, bytes, relaxed, .work id⟩,
      some (if m.discarding then stHostEpochChanged else stOk))
  | none =>
    if m.noAnswer a false (replyFor rs a) then (mem, m, none) else
    let r := m.writeReq mem host relaxed a bytes (.work id) (replyFor rs a)
    (r.1, r.2.1, match placeOf m a, r.2.2 with
      | .tier2 _, none => some stHostEpochChanged
      | _, st => st)

/-- Where a transfer stands: memory, module, the die whose ladle carries it, the bytes to write so far, the worst status, the
requests not answered (where each goes, as in `tmoKind`, and its port), the requests made, and the tally of its conversions. -/
structure Transfer where
  mem : Memory
  m : Mod
  die : Option Nat := none
  out : List (Option Byte) := []
  status : Nat := 0
  asks : List (Nat × Nat) := []
  made : Nat := 0
  tally : Tally := {}

/-- A request of a transfer is answered with a status; one of a die's ladle that ended wrongly is counted (R238). -/
def Transfer.met (t : Transfer) (st : Nat) : Transfer :=
  { t with status := ladleWorse t.status st, made := t.made + 1
           m := match t.die with | some d => t.m.countReq d st | none => t.m }

/-- A request of a transfer has no answer yet. -/
def Transfer.ask (t : Transfer) (kind port : Nat) : Transfer :=
  { t with asks := t.asks ++ [(kind, port)], made := t.made + 1 }

/-- A read that a transfer waits for. -/
def Transfer.askRead (t : Transfer) (peer : Option Nat) (a : Nat) : Transfer :=
  t.ask (if peer.isSome then 1 else t.m.tmoKind a true) (if peer.isSome then 1 else t.m.reqPort a true)

/-- Write what a transfer has, line by line. -/
def Transfer.flush (t : Transfer) (host relaxed : Bool) (id : Nat) (peer : Option Nat) (a : Nat) (rs : Replies) : Transfer :=
  (lineRuns a t.out).foldl (fun t x =>
    let r := t.m.ladleWrite t.mem host relaxed id peer x.1 x.2 rs
    match r.2.2 with
    | some st => ({ t with mem := r.1, m := r.2.1 } : Transfer).met st
    | none => ({ t with mem := r.1, m := r.2.1 } : Transfer).ask (r.2.1.tmoKind x.1 false) (r.2.1.reqPort x.1 false)) t

/-- One raw piece of a copy: read, and its bytes kept for writing. -/
def Transfer.raw (t : Transfer) (b : Nat) (rs : Replies) (cut : Nat × Nat) : Transfer :=
  let r := t.m.ladleRead t.mem (ldSrcPeer b) (ldSrc b + cut.1) cut.2 (ldRclr b) rs
  match r.2.2 with
  | .done st bs =>
    ({ t with mem := r.1, m := r.2.1
              out := t.out ++ if st = stOk then bs.map some else List.replicate cut.2 none } : Transfer).met st
  | .waiting => ({ t with mem := r.1, m := r.2.1, out := t.out ++ List.replicate cut.2 none } : Transfer).askRead (ldSrcPeer b)
      (ldSrc b + cut.1)

/-- The bytes that stand where a converted unit goes, as far as its encoding asks for them: none while they are awaited
from another module's home. -/
def oldUnit (mem : Memory) (m : Mod) (b a len : Nat) (rs : Replies) : Option (List Byte) :=
  let f := cvFmt (ldConv b)
  if !((isCb f && !cvFit (ldConv b)) || elemBits f == 4) then some (List.replicate len 0)
  else
    match ldDstPeer b, placeCell (placeOf m a) with
    | none, some c => some (memRead mem c len)
    | peer, _ => match replyFor rs (match peer with | some w => peerKey w a | none => a) with
      | some (.data bs) => some (padBytes len bs)
      | _ => none

/-- Unit `k` (32 elements) of a converting copy under a step and micro-batch. -/
def Transfer.unit (t : Transfer) (b step mb : Nat) (rs : Replies) (k : Nat) : Transfer :=
  let spec := ldConv b
  let n := min 32 (ldCount b - 32 * k)
  let f := ldSrcFmt b
  let size := fun (j : Nat) => if f = 15 then 4 * j else rowBytes f j
  let dlen := rowBytes (cvFmt spec) n
  let at_ := ldDst b + rowBytes (cvFmt spec) (32 * k)
  let r := t.m.ladleRead t.mem (ldSrcPeer b) (ldSrc b + size (32 * k)) (size n) (ldRclr b) rs
  let skip := { t with mem := r.1, m := r.2.1, out := t.out ++ List.replicate dlen none }
  match r.2.2, r.2.1.oldUnit r.1 b at_ dlen rs with
  | .done st bs, old =>
    if st ≠ stOk then skip.met st
    else
      match old with
      | none => skip.askRead (ldDstPeer b) at_
      | some o =>
        let modes := (List.range n).map (fun j =>
          cvMode spec (drawAt t.m.seed step (cvPurpose spec) mb (ldGidx b + 32 * k + j)))
        let c := convRun spec (ladleVals f bs n) modes o ((placeCell (placeOf t.m at_)).getD (at_ % 2 ^ 49))
        { t with mem := r.1, m := r.2.1, out := t.out ++ c.1.map some, tally := t.tally.add c.2 }
  | .waiting, _ => skip.askRead (ldSrcPeer b) (ldSrc b + size (32 * k))

/-- Requests of a die's ladle have been answered: each held an entry meanwhile, as many at once as there was room for (R233). -/
def passTrk (m : Mod) (d k : Nat) : Mod :=
  let j := min k (m.ladleRoom d)
  if j = 0 then m else (m.takeTrk d j).freeTrk d j

/-- The end of issuing a transfer: the work keeps its status, and its open requests are issued as entries allow (R233). A
die's tracker has held an entry for each request that was answered as well. -/
def Transfer.settle (t : Transfer) (id : Nat) (core : Option Nat) (tier2 : Bool) : Memory × Mod :=
  let m0 := match core with
    | some n => t.m.passTrk (n / 96) t.made
    | none => t.m
  let m1 := m0.modWork id (fun w => { w with status := ladleWorse w.status t.status, waits := t.asks, tier2 := tier2 })
  (t.mem, m1.ladleAdmit id)

/-- The transfer names tier 2 of this module. -/
def usesTier2 (m : Mod) (b : Nat) : Bool :=
  let t2 := fun (peer : Option Nat) (a : Nat) =>
    peer.isNone && addrModule a == m.self && isTier2Offset (addrOffset a)
  t2 (ldSrcPeer b) (ldSrc b) || t2 (ldDstPeer b) (ldDst b)

/-- A flush read of a peer window leaves (R313). -/
def sendFlush (m : Mod) (w : Nat) : Mod := (m.inc Reg.HIF_PEER_FLUSH).emit (.hostRead (m.base64 (Reg.HIF_PW_BASE_LO w)) 0)

/-- The flush read behind a copy's last write to a peer window (R313): a request of the copy. It follows the writes when
these are retained, and there is none behind writes that are discarded or where nothing was written. -/
def Transfer.peerFlush (t : Transfer) (id b : Nat) (rs : Replies) : Transfer :=
  match ldDstPeer b with
  | none => t
  | some w =>
    let ans := (replyFor rs (flushKey w)).map answerStatus
    if t.m.discarding || !t.out.any (·.isSome) then t
    else if t.m.detached then { t with m := t.m.modWork id (fun x => { x with flush := some (w, ans) }) }
    else
      let t1 := { t with m := t.m.sendFlush w }
      match ans with
      | some st => t1.met st
      | none => t1.askRead (some w) 0

/-- A COPY in flight (R320) moves or converts what it can. -/
def runCopy (mem : Memory) (m : Mod) (core : Option Nat) (id b step mb : Nat) (rs : Replies) : Memory × Mod :=
  let host := core.isNone
  let relaxed := m.flag Fld.HIF_RO_EN && !(core.isNone && dsFence b)
  let t0 : Transfer := { mem := mem, m := m, die := core.map (· / 96) }
  let t1 := if ldConverts b then (List.range ((ldCount b + 31) / 32)).foldl (fun t k => t.unit b step mb rs k) t0
    else (lineCuts (ldSrc b) (ldSrcBytes b)).foldl (fun t c => t.raw b rs c) t0
  let eng := match core with | some n => Engine.die (n / 96) | none => .hub
  let t2 := if ldConverts b then { t1 with m := t1.m.account eng (ldWatch b) step t1.tally } else t1
  let t3 := t2.flush host relaxed id (ldDstPeer b) (ldDst b) rs
  (t3.peerFlush id b rs).settle id core (m.usesTier2 b)

/-- One line of a MOVE (R224): read and marked released in one operation. -/
def Transfer.moveLine (t : Transfer) (b : Nat) (rs : Replies) (k : Nat) : Transfer :=
  let a := ldSrc b + 64 * k
  let r := t.m.readReq t.mem a 64 (replyFor rs a)
  match r.1 with
  | .done st bs =>
    let m1 := match placeCell (placeOf t.m a) with
      | some c => if st = stOk then r.2.setLine (c / 64) 1 else r.2
      | none => r.2
    ({ t with m := m1, out := t.out ++ if st = stOk then bs.map some else List.replicate 64 none } : Transfer).met st
  | .waiting => ({ t with m := r.2, out := t.out ++ List.replicate 64 none } : Transfer).askRead none a

/-- A MOVE in flight; one whose source holds lines with rows in the ordered hold is refused and moves nothing (R225). -/
def runMove (mem : Memory) (m : Mod) (core : Option Nat) (id b : Nat) (rs : Replies) : Memory × Mod :=
  let relaxed := m.flag Fld.HIF_RO_EN && !(core.isNone && dsFence b)
  let held := match placeCell (placeOf m (ldSrc b)) with | some c => m.heldOver mem c (ldCount b) | none => false
  if held then ({ mem := mem, m := m, die := core.map (· / 96), status := stBusyRefused } : Transfer).settle id core false
  else
    let t := (List.range (ldCount b / 64)).foldl (fun t k => t.moveLine b rs k)
      ({ mem := mem, m := m, die := core.map (· / 96) } : Transfer)
    (t.flush core.isNone relaxed id none (ldDst b) rs).settle id core (m.usesTier2 b)

/-- Destination of a COPY or MOVE, wherever it lies, for R49. -/
def ladleDst (m : Mod) (b : Nat) : List Span :=
  match ldDstPeer b with
  | some w => [peerSpan w (ldDst b) (ldDstBytes b)]
  | none => [placeSpan m (ldDst b) (ldDstBytes b)]

/-- A transfer of a die's ladle cannot begin: no tracker entry may be taken (R233), or an earlier request waits at a channel for
a line that it reads or writes (R232). -/
def ladleHeldUp (m : Mod) (d : Nat) (spans : List Span) : Bool :=
  m.ladleRoom d == 0 || spans.any (fun s => m.lineQueued s.addr s.len)

/-- A unit of a die waits for an entry or a credit, for a number of cycles that is a free value (MEM_TRK_WAIT). -/
def trkWait (m : Mod) (d : Nat) : Mod :=
  let f := m.takeFree
  f.2.addSat (Reg.MEM_TRK_WAIT d) f.1

/-- A core's copy block with its source relocated where it names an in-channel's slots (R50). -/
def relocSrc (mem : Memory) (m : Mod) (n b : Nat) : Nat :=
  match placeCell (placeOf m (ldSrc b)) with
  | some c => insBits b 511 448 (globalOf m (m.relocate mem n c))
  | none => b

/-- A COPY (kind 1) or MOVE (kind 2) of a core or of a ring starts; one that is held up starts when it is tried again. -/
def transfer (mem : Memory) (m : Mod) (kind : Nat) (who : Runner) (rs : Replies) : Memory × Mod :=
  let go := fun (m1 : Mod) (core : Option Nat) (b step mb : Nat) =>
    if kind = 1 then m1.runCopy mem core m.nextId b step mb rs else m1.runMove mem core m.nextId b rs
  match who with
  | .core n =>
    match m.ladleWord n kind with
    | none => (mem, m)
    | some (w, pos, b) =>
      if m.ladleWordError n w b ≠ 0 then (mem, m.rejectLadle n (m.ladleWordError n w b))
      else if m.dieLadleOff (n / 96) then (mem, m.ladleEnds n stBusyRefused)
      else if m.ladleHeldUp (n / 96) (placeSpan m (ldSrc b) (ldSrcBytes b) :: m.ladleDst b) then (mem, m.trkWait (n / 96))
      else go (m.launch n .ladle pos w (m.ladleDst b)) (some n)
        (if kind = 1 then m.relocSrc mem n b else b) (m.boundStep n) (m.boundMb n)
  | .ring r i =>
    match m.ringDesc r i kind with
    | none => (mem, m)
    | some b => go (m.launchRing r i b) none b (dsStep b) (dsMb b)

/-! ### Completion (R228, R326) -/

/-- Writes of a work wait in the retention buffer (R350). -/
def workRetained (m : Mod) (id : Nat) : Bool := m.hub.retained.any (fun w => w.src == .work id)

/-- Every request still open of a work that has ended is answered: their entries are freed (R407). -/
def orphanDone (m : Mod) (id : Nat) : Mod :=
  match m.tables.orphans.find? (fun o => o.1 == id) with
  | some (_, d, ts) =>
    (({ m with tables := { m.tables with orphans := m.tables.orphans.filter (fun o => o.1 != id) } }).freeTrk d
      ts.length).ladleResume d
  | none => m

/-- A COPY or MOVE with every request answered completes with the first failing status, or OK; of one that has ended already,
the answers free the entries. The ladle of a halted die holds its state (R370). -/
def ladleDone (m : Mod) (id : Nat) : Mod :=
  match m.findWork id with
  | some w =>
    if w.unit != .ladle || w.open_ != 0 || (match w.who with
        | .core n => m.dieHalted (n / 96)
        | .ring _ _ => false) then m
    else if m.workRetained id then m.modWork id (fun w => { w with retained := true })
    else (m.endWork id w.status).when (w.status == stHostEpochChanged) (fun m => m.inc Reg.HIF_LOSS_VOID)
  | none => m.orphanDone id

/-- The earliest of some moments. -/
def earliest (ts : List Nat) : Option Nat :=
  ts.foldl (fun b t => match b with | none => some t | some x => some (min x t)) none

/-- The request of a ladle that times out first has had no answer (R228): its entry is freed and an answer that still comes
is discarded. -/
def ladleTimeout (m : Mod) (id : Nat) : Mod :=
  match m.findWork id with
  | some w =>
    match earliest (w.due.map (·.1)) with
    | none => m
    | some t => m.expire t (fun m =>
      let i := w.due.findIdx (fun x => x.1 == t)
      let m1 := m.modWork id (fun w => { w with due := w.due.eraseIdx i, status := ladleWorse w.status stTierTimeout })
      match w.who with
      | .core n => ((m1.freeTrk (n / 96) 1).countReq (n / 96) stTierTimeout).ladleResume (n / 96)
      | .ring _ _ => m1)
  | none =>
    match m.tables.orphans.find? (fun o => o.1 == id) with
    | some (_, d, ts) =>
      match earliest (ts.map (·.1)) with
      | none => m
      | some t => m.expire t (fun m =>
        let left := ts.eraseIdx (ts.findIdx (fun x => x.1 == t))
        let rest := m.tables.orphans.filter (fun o => o.1 != id)
        let m1 := { m with tables := { m.tables with orphans := if left.isEmpty then rest else rest ++ [(id, d, left)] } }
        ((m1.freeTrk d 1).countReq d stTierTimeout).ladleResume d)
    | none => m

/-! ### Descriptors (R325, R326) -/

/-- The body of an accepted descriptor is fetched, or its fetch fails. One that was stopped before it started is not looked at:
it ends with CANCELLED at the boundary (R308). -/
def descFetch (m : Mod) (r i : Nat) (body : Option (BitVec 512)) : Mod :=
  match m.ringWork r i with
  | none => m
  | some w =>
    if w.body.isSome || w.started then m
    else
      match (if m.detached then none else body) with
      | none => m.completeRing r i stTierError 0
      | some v =>
        let b := v.toNat
        let m1 := { m with hub := { m.hub with rings := m.hub.rings.map (fun x =>
          if x.ring == r && x.index == i then { x with body := some v } else x) } }
        let code := m1.ladleError none (some (r, i)) b
        if w.stopping then m1
        else if w.refused then m1.completeRing r i stBusyRefused 0
        else if code = 6 then m1.completeRing r i stAccessDenied 6
        else if code ≠ 0 then m1.completeRing r i stMalformed code
        else m1

/-- A NOP completes, after the fence's wait where its bit is set (R324). -/
def ringNop (m : Mod) (r i : Nat) : Mod :=
  match m.ringDesc r i 8 with
  | some _ => m.completeRing r i stOk 0
  | none => m

/-! ### Staging (R143 to R146, R322) -/

/-- The poison register and bit of a region and slot (Table 7.6). -/
def poisonBit (n region slot : Nat) : Field :=
  ⟨Reg.CORE_STAGE_POISON n (2 * region + slot / 32), slot % 32, slot % 32⟩

/-- What a staging word or a hand-off reads and writes in the tiers. -/
def stageSpans (m : Mod) (n b : Nat) : List Span :=
  if dsKind b = 3 ∨ dsKind b = 4 then
    [placeSpan m (sgBase b + sgSlot b (m.boundMb n) * sgSize b) (sgSize b)]
  else if dsKind b = 6 then [placeSpan m (hoG b) (4 * bkCount ((m.bucketEntry (srBucket b)).getD 0))]
  else []

/-- A staging word of a kind that passes its checks, with its block; one that is held up starts when it is tried again. -/
def stageWord (m : Mod) (n kind : Nat) : Mod × Option Nat :=
  match m.ladleWord n kind with
  | none => (m, none)
  | some (w, _, b) =>
    if m.ladleWordError n w b ≠ 0 then (m.rejectLadle n (m.ladleWordError n w b), none)
    else if m.dieLadleOff (n / 96) then (m.ladleEnds n stBusyRefused, none)
    else if dsKind b != 5 && m.ladleHeldUp (n / 96) (m.stageSpans n b) then (m.trkWait (n / 96), none)
    else (m, some b)

/-- How a transfer that waits for nothing more ended: a request without an answer has timed out. -/
def Transfer.ended (t : Transfer) : Nat := if t.asks.isEmpty then t.status else ladleWorse t.status stTierTimeout

/-- The requests of a core's ladle without an answer have timed out, and those answered have held their entries. -/
def Transfer.close (t : Transfer) (n : Nat) : Mod :=
  t.asks.foldl (fun m _ => m.countReq (n / 96) stTierTimeout) (t.m.passTrk (n / 96) t.made)

/-- A copy block that moves `len` raw bytes between two addresses. -/
def rawBlock (src dst len : Nat) : Nat := src * 2 ^ 448 + dst * 2 ^ 384 + len * 2 ^ 248 + 1

/-- A failure of staging is counted when it is TIER_TIMEOUT or TIER_ERROR. -/
def stageFailed (m : Mod) (n : Nat) : Mod := m.inc (Reg.CORE_STAGE_FAIL n)

/-- A staging write: the tensor goes line by line to slot b mod R, whose poison bit tells how it went; a line that fails ends
alone (R145, R227). -/
def stageWrite (mem : Memory) (m : Mod) (n : Nat) (rs : Replies) : Memory × Mod :=
  match m.stageWord n 3 with
  | (m1, none) => (mem, m1)
  | (m1, some b) =>
    let slot := sgSlot b (m1.boundMb n)
    let dest := sgBase b + slot * sgSize b
    let src := (placeCell (placeOf m1 (sgSram b))).getD 0
    let t0 : Transfer := { mem := mem, m := m1, die := some (n / 96)
                           out := (memRead mem (m1.relocate mem n src) (sgSize b)).map some }
    let t := t0.flush false false 0 none dest rs
    let status := t.ended
    let bad := status == stTierError || status == stTierTimeout
    let m2 := (t.close n).when bad (fun m => (m.fput (poisonBit n (sgRegion b) slot) true).stageFailed n)
    (t.mem, (m2.when (status == stOk) (fun m => m.fput (poisonBit n (sgRegion b) slot) false)).ladleEnds n status)

/-- A staging restore: the slot's bytes, or 0xFF bytes where its poison bit is set or the read fails. -/
def stageRestore (mem : Memory) (m : Mod) (n : Nat) (rs : Replies) : Memory × Mod :=
  match m.stageWord n 4 with
  | (m1, none) => (mem, m1)
  | (m1, some b) =>
    let slot := sgSlot b (m1.boundMb n)
    let from_ := sgBase b + slot * sgSize b
    let dst := (placeCell (placeOf m1 (sgSram b))).getD 0
    let bit := poisonBit n (sgRegion b) slot
    let t0 : Transfer := { mem := mem, m := m1, die := some (n / 96) }
    let t := if m1.flag bit then { t0 with status := stTierError }
      else (lineCuts from_ (sgSize b)).foldl (fun t c => t.raw (rawBlock from_ 0 (sgSize b)) rs c) t0
    if t.ended = stOk then
      let w := (t.close n).store mem false dst (t.out.map (fun x => x.getD 0))
      (w.1, w.2.1.ladleEnds n (if w.2.2 then stAccessDenied else stOk))
    else
      let w := (t.close n).store mem false dst (List.replicate (sgSize b) 0xFF)
      (w.1, ((w.2.1.fput bit false).stageFailed n).ladleEnds n stTierError)

/-! ### STARTs and hand-offs (R150, R281, R323) -/

/-- A START or hand-off that the engine rejects (R282). -/
def rejectStart (m : Mod) (who : Runner) (code : Nat) : Mod :=
  let m1 := m.wrN Reg.COL_BK_ERR code
  match who with
  | .core n => (m1.stopMalformed n).countLadle n stMalformed
  | .ring r i => m1.completeRing r i stMalformed (0x40 + code)

/-- A START, or an acting hand-off, ends with a status. -/
def endStart (m : Mod) (who : Runner) (status : Nat) : Mod :=
  match who with
  | .core n => m.ladleEnds n status
  | .ring r i => m.completeRing r i status 0

/-- A START whose block passed the ladle's checks goes to the engine. -/
def offerStart (mem : Memory) (m : Mod) (who : Runner) (b step mb : Nat) : Memory × Mod :=
  let core := match who with | .core n => some n | .ring _ _ => none
  let code := m.startError mem core b
  if code ≠ 0 then (mem, m.rejectStart who code)
  else if m.startBusy (srBucket b) then (mem, m.endStart who stBusyRefused)
  else
    let r := m.acceptStart mem core step mb b
    (r.1, r.2.endStart who stOk)

/-- A START of a core or of a ring. -/
def startCmd (mem : Memory) (m : Mod) (who : Runner) : Memory × Mod :=
  match who with
  | .core n =>
    match m.stageWord n 5 with
    | (m1, none) => (mem, m1)
    | (m1, some b) => m1.offerStart mem who b (m1.boundStep n) (m1.boundMb n)
  | .ring r i =>
    match m.ringDesc r i 5 with
    | none => (mem, m)
    | some b => m.offerStart mem who b (dsStep b) (dsMb b)

/-- A hand-off reads G line by line, each line by READ_CLEAR, and writes what it reads to the bucket's source; a line that fails
ends alone (R150, R227). -/
def handoffMove (mem : Memory) (m : Mod) (n c dest len : Nat) : Memory × Mod × Nat :=
  (lineCuts c len).foldl (fun (p : Memory × Mod × Nat) k =>
    let g := p.2.1.readClear p.1 (c + k.1) k.2 none
    if g.2.2.1 ≠ stOk then (g.1, g.2.1.countReq (n / 96) g.2.2.1, ladleWorse p.2.2 g.2.2.1)
    else
      let w := g.2.1.writeLocal g.1 false (dest + k.1) g.2.2.2
      (w.1, w.2.1.countReq (n / 96) w.2.2, ladleWorse p.2.2 w.2.2)) (mem, m.passTrk (n / 96) (lineCuts c len).length, stOk)

/-- A gradient hand-off: when its micro-batch ends a group it read-clears G into the bucket's source and starts the
instance, else it completes at once. -/
def handoff (mem : Memory) (m : Mod) (n : Nat) : Memory × Mod :=
  match m.stageWord n 6 with
  | (m1, none) => (mem, m1)
  | (m1, some b) =>
    if m1.boundMb n % hoM b ≠ hoM b - 1 then (mem, m1.ladleEnds n stOk)
    else
      let code := m1.startError mem (some n) b
      if code ≠ 0 then (mem, m1.rejectStart (.core n) code)
      else if m1.startBusy (srBucket b) then (mem, m1.ladleEnds n stBusyRefused)
      else
        let e := (m1.bucketEntry (srBucket b)).getD 0
        let len := 4 * bkCount e
        match m1.ownRegion (hoG b) len false, m1.ownRegion (bkSrc e) len true with
        | some c, some dest =>
          let w := m1.handoffMove mem n c dest len
          if w.2.2 ≠ stOk then (w.1, w.2.1.ladleEnds n w.2.2)
          else
            let r := w.2.1.acceptStart w.1 (some n) (m1.boundStep n) (m1.boundMb n) b
            (r.1, r.2.ladleEnds n stOk)
        | _, _ => (mem, m1.ladleEnds n stTierError)

/-! ### Pattern loads (R324) -/

/-- A PATTERN_LOAD copies its image into the inactive bank and starts the check; one that names a missing cluster waits until
that has realigned (R18). -/
def patternLoad (mem : Memory) (m : Mod) (r i : Nat) (rs : Replies) : Memory × Mod :=
  match m.ringDesc r i 7 with
  | none => (mem, m)
  | some b =>
    let n := plTarget b
    if (m.clusterSt (n / 8)).missing then (mem, m)
    else if m.flag (Fld.CORE_SWITCH_ARM n) || (m.coreSt n).loading.isSome then (mem, m.completeRing r i stBusyRefused 0)
    else
      let dest := globalOf m (bankCell n (1 - m.activeBank n))
      let t := (lineCuts (plSrc b) 65536).foldl (fun t c => t.raw (rawBlock (plSrc b) dest 65536) rs c) ({ mem := mem, m := m } : Transfer)
      let t1 := t.flush true false 0 none dest rs
      if t1.ended ≠ stOk then (t1.mem, t1.m.completeRing r i t1.ended 0)
      else
        (t1.mem, ((t1.m.startRing r i).fput (Fld.CORE_VALIDATING n) true).modCore n (fun c =>
          { c with loading := some (r, i) }))

/-- The check a PATTERN_LOAD waits for has ended: the switch is armed where asked, and the descriptor completes. -/
def loadDone (m : Mod) (n : Nat) : Mod :=
  match (m.coreSt n).loading with
  | none => m
  | some (r, i) =>
    let m1 := m.modCore n (fun c => { c with loading := none })
    match m1.ringWork r i, (m1.coreSt n).lastCheck with
    | some w, some err =>
      let b := (w.body.map (·.toNat)).getD 0
      if err ≠ 0 then m1.completeRing r i stMalformed (0x80 + err)
      else if (plCore b).1 then
        let m2 := (m1.wrN (Reg.CORE_SWITCH_AT_LO n) (plAt b % 2 ^ 32)).wrN (Reg.CORE_SWITCH_AT_HI n) (plAt b / 2 ^ 32)
        if plAt b < m2.heatNo + 2 then m2.completeRing r i stMalformed 8
        else
          ((m2.fput (Fld.CORE_SWITCH_ARM n) true).modCore n (fun c => { c with switchAt := plAt b })).completeRing r i stOk 0
      else m1.completeRing r i stOk 0
    | _, _ => m1

/-- The check of a core's inactive bank ends (R61), and with it what waits for it. -/
def validateEnds (mem : Memory) (m : Mod) (n : Nat) : Mod :=
  if m.flag (Fld.CORE_VALIDATING n) then (m.validateDone mem n).loadDone n else m

end Mod

def execCoreValidateDone (n : Nat) (s : State) : Host.Outcome State Fault Refusal :=
  nextMod s (fun m => m.validateEnds s.mem n)
def execCopy (who : Runner) (rs : Replies) (s : State) : Host.Outcome State Fault Refusal :=
  nextMem s (fun mem m => m.transfer mem 1 who rs)
def execMove (who : Runner) (rs : Replies) (s : State) : Host.Outcome State Fault Refusal :=
  nextMem s (fun mem m => m.transfer mem 2 who rs)
def execLadleComplete (id : Nat) (s : State) : Host.Outcome State Fault Refusal := nextMod s (fun m => m.ladleDone id)
def execLadleRequestTimeout (id : Nat) (s : State) : Host.Outcome State Fault Refusal :=
  nextMod s (fun m => m.ladleTimeout id)
def execDescriptorFetch (r i : Nat) (body : Option (BitVec 512)) (s : State) : Host.Outcome State Fault Refusal :=
  nextMod s (fun m => m.descFetch r i body)
def execNop (r i : Nat) (s : State) : Host.Outcome State Fault Refusal := nextMod s (fun m => m.ringNop r i)
def execStageWrite (n : Nat) (rs : Replies) (s : State) : Host.Outcome State Fault Refusal :=
  nextMem s (fun mem m => m.stageWrite mem n rs)
def execStageRestore (n : Nat) (rs : Replies) (s : State) : Host.Outcome State Fault Refusal :=
  nextMem s (fun mem m => m.stageRestore mem n rs)
def execStart (who : Runner) (s : State) : Host.Outcome State Fault Refusal := nextMem s (fun mem m => m.startCmd mem who)
def execHandoff (n : Nat) (s : State) : Host.Outcome State Fault Refusal := nextMem s (fun mem m => m.handoff mem n)
def execPatternLoad (r i : Nat) (rs : Replies) (s : State) : Host.Outcome State Fault Refusal :=
  nextMem s (fun mem m => m.patternLoad mem r i rs)

end Sys2Proof.Machine
end

