-- ==== Sys2Proof/Machine/Issue.lean ====
section
/-!
DEFINITION. The scalar control unit issues the work words of a block in order (R48, R49, R250 of
02_cores_and_patterns.md and 12_address_space.md): the sources of every unit's word, and the wait for earlier words.
-/

namespace Sys2Proof.Machine

open Sys2Proof

namespace Mod

/-- The 64-byte block that a word of core `n` names. -/
def wordBlock (mem : Memory) (n w : Nat) : Nat := memNat mem (localCell n (64 * bitsOf w 55 42)) 64

/-- A list that a word reads, relocated (R50). -/
def listSource (mem : Memory) (m : Mod) (n l len : Nat) : List Span :=
  if lsSpace l = 3 then [] else [⟨m.relocate mem n (listCell n l), len⟩]

/-- A region that a ladle reads, wherever it lies. -/
def regionSource (m : Mod) (a len : Nat) : List Span := [placeSpan m a len]

/-- What the instance of a bucket reads: its source and, where it has one, its chunk table (R279, R289, R290). -/
def bucketSources (mem : Memory) (m : Mod) (bucket : Nat) : List Span :=
  match m.bucketEntry bucket with
  | none => []
  | some e =>
    let p := 2 ^ (maskDims (bkMask e)).length
    let cs := chunkList e p (m.tableRead mem e p).1.2
    m.regionSource (bkSrc e) (runLens e (rankIn m.ldimNow (bkMask e) m.self) cs).1 ++
      (if hasTable e then m.regionSource (bkChunk e) (16 * p) else [])

/-- Sources of a ladle word. -/
def ladleSources (mem : Memory) (m : Mod) (n b : Nat) : List Span :=
  let slot := sgBase b + sgSlot b (m.boundMb n) * sgSize b
  match dsKind b with
  | 1 => (match ldSrcPeer b with
      | some w => [peerSpan w (ldSrc b) (ldSrcBytes b)]
      | none => m.regionSource (ldSrc (m.relocSrc mem n b)) (ldSrcBytes b))
  | 2 => m.regionSource (ldSrc b) (ldCount b)
  | 3 => (m.regionSource (sgSram b) (sgSize b)).map (fun s => { s with addr := m.relocate mem n s.addr })
  | 4 => m.regionSource slot (sgSize b)
  | 5 => m.bucketSources mem (srBucket b)
  | 6 => if m.boundMb n % hoM b = hoM b - 1 then
      m.regionSource (hoG b) (4 * bkCount ((m.bucketEntry (srBucket b)).getD 0)) else []
  | _ => []

/-- What the word of a unit reads in the module's memories. -/
def wordSources (mem : Memory) (m : Mod) (n w : Nat) : List Span :=
  let b := wordBlock mem n w
  match bitsOf w 63 56 with
  | 1 => [(passA n b).span (pbM b) (pbKt b), (passB n b).span (pbKt b) (pbNw b)]
  | 2 =>
    let one := fun (used : Bool) (o z : Nat) (shape : Nat × Nat) =>
      if used then [(m.vecSource mem n o z).span shape.1 shape.2] else []
    one (vecUsesA (vbOp b)) (vbA b) (vbAZp b) (vbRows b, vbCols b) ++ one (vecUsesB (vbOp b)) (vbB b) (vbBZp b) (vecShapeB b) ++
      one (vecUsesC (vbOp b)) (vbC b) 0 (vbRows b, vbCols b)
  | 3 => m.listSource mem n (pkIdx b) (8 * pkBags b * pkG b) ++ m.listSource mem n (pkWgt b) (4 * pkBags b * pkG b)
  | 5 => m.ladleSources mem n b
  | 6 =>
    let at_ := m.relocate mem n (spaceCell n (opSpace (ccS b)) + 64 * opBase (ccS b))
    let rows : Span := ⟨at_, (ccRows b - 1) * 64 * opPitch (ccS b) + crBytes (opFmt (ccS b)) * m.ccWidth b⟩
    rows :: (if ccKind b = 2 then
      m.listSource mem n (ccIdx b) (8 * ccRows b * ccG b) ++ m.listSource mem n (ccWgt b) (4 * ccRows b * ccG b) else [])
  | 7 =>
    if abKind b = 1 then
      m.regionSource (abState b) (4 * abCount b * (1 + ruleMoments (m.ruleOf (abRule b)))) ++
        m.regionSource (abGrad b) (4 * abCount b)
    else []
  | _ => []

/-- A word waits: an earlier word whose destination overlaps one of its sources has not completed, or, for a send, any
earlier word has not (R49, R250). -/
def wordWaits (mem : Memory) (m : Mod) (n w : Nat) : Bool :=
  let mine := m.works.filter (fun k => k.who == .core n)
  if bitsOf w 63 56 = 4 then !mine.isEmpty
  else mine.any (fun k => k.dst.any (fun d => (m.wordSources mem n w).any (fun s => overlaps d s)))

/-- Directory indices that a word of a unit names with its block (R187): a lookup's or a contribution's table and, where that is
composed, its parts; the table a drain's slot serves. -/
def wordTables (m : Mod) (w b : Nat) : List Nat :=
  let parts := fun (i : Nat) => i :: (match m.dirEntry i with
    | some e => if tdStored e then [] else [tdPartA e, tdPartB e]
    | none => [])
  match bitsOf w 63 56 with
  | 3 => parts (pkTable b)
  | 6 => if ccKind b = 2 then parts (ccTable b) else []
  | 7 => if abKind b = 2 then [m.lgTable (abLedger b)] else []
  | _ => []

/-- A word on its way to its unit, with the block it names and what it reads at its issue: heat and time, directory entries
and rule, and for an array pass the operands of its feeders. -/
def wordIssued (mem : Memory) (m : Mod) (n w pos : Nat) : IssuedWord :=
  let b := wordBlock mem n w
  let x : IssuedWord := {
    word := w, pos := pos, block := b, heat := m.heatNo, time := m.now
    dir := (m.wordTables w b).map (fun i => (i, m.dirEntry i))
    rule := if bitsOf w 63 56 = 7 then m.ruleOf (abRule b) else {} }
  if bitsOf w 63 56 = 1 then { x with a := (passOperands mem n b).1, b := (passOperands mem n b).2 } else x

/-- A word of a core's chosen block is issued: an array pass takes the array up its ramp (R82). -/
def putIssued (mem : Memory) (m : Mod) (n w : Nat) (c : Choice) : Mod :=
  let m1 := m.modCore n (fun k => { k with
    issued := some (m.wordIssued mem n w c.next), choice := some { c with next := c.next + 1 } })
  m1.when (bitsOf w 63 56 == 1) (fun m => m.rampUp n w (wordBlock mem n w))

/-- The next word of a core's block is issued in the pour (R13, R44), once its turn has come (R49). -/
def issueWord (mem : Memory) (m : Mod) (n : Nat) : Mod :=
  match (m.coreSt n).choice with
  | none => m
  | some c =>
    if !m.wordsLeft n || (m.coreSt n).issued.isSome || m.dieHalted (n / 96) || !m.inPour then m
    else
      let w := memNat mem (localCell n (64 * c.workPtr + 8 * c.next)) 8
      if bitsOf w 63 56 = 0 ∨ 7 < bitsOf w 63 56 then m.stopMalformed n
      else if m.wordWaits mem n w then m
      else m.putIssued mem n w c

end Mod

def execWorkWordIssue (n : Nat) (s : State) : Host.Outcome State Fault Refusal := nextMod s (fun m => m.issueWord s.mem n)

end Sys2Proof.Machine
end

