-- ==== Sys2Proof/Machine/RegCommands.lean ====
section
/-!
DEFINITION. The rows of the table that are a write of one register with a meaning of its own: each is the write of that
register with the bits that make it this row set or cleared in the word written, whatever else the word holds; the
register's own check and effect stand in its block.
-/

namespace Sys2Proof.Machine

open Sys2Proof

/-- A write of an indexed register; no unit of the index, nothing written. -/
def writeAt (k bound off : Nat) (v : Word) (o : Origin) (s : State) : Host.Outcome State Fault Refusal :=
  if k < bound then writeReg off v o s else .next s

/-- A word with one bit set. -/
def setBit (v : Word) (i : Nat) : Word := v ||| BitVec.ofNat 32 (2 ^ i)

/-- A word with one bit clear. -/
def clearBit (v : Word) (i : Nat) : Word := v &&& ~~~ BitVec.ofNat 32 (2 ^ i)

/-- A word with an arm in bit 31 and an operation in bits 1 and 0. -/
def setOp (v : Word) (op : Nat) : Word := BitVec.ofNat 32 (insBits (setBit v 31).toNat 1 0 op)

/-- HEAT_CHANGE_ARM written 1 (R25, R474). -/
def execHeatChangeArm (v : Word) (o : Origin) (s : State) : Host.Outcome State Fault Refusal :=
  writeReg Reg.HEAT_CHANGE_AT_HI (setBit v 31) o s

/-- HEAT_CHANGE_ARM written 0 (R474). -/
def execHeatChangeWithdraw (v : Word) (o : Origin) (s : State) : Host.Outcome State Fault Refusal :=
  writeReg Reg.HEAT_CHANGE_AT_HI (clearBit v 31) o s

/-- HEAT_RUN written 1 (R24, R30, R424). -/
def execHeatRunSet (v : Word) (o : Origin) (s : State) : Host.Outcome State Fault Refusal :=
  writeReg Reg.HEAT_CTRL (setBit v 0) o s

/-- HEAT_RUN written 0 (R32). -/
def execHeatRunClear (v : Word) (o : Origin) (s : State) : Host.Outcome State Fault Refusal :=
  writeReg Reg.HEAT_CTRL (clearBit v 0) o s

/-- A write of HEAT_TIME_SET_HI (R32). -/
def execHeatTimeSet (v : Word) (o : Origin) (s : State) : Host.Outcome State Fault Refusal :=
  writeReg Reg.HEAT_TIME_SET_HI v o s

/-- CORE_VALIDATE written 1 (R61). -/
def execCoreValidate (n : Nat) (v : Word) (o : Origin) (s : State) : Host.Outcome State Fault Refusal :=
  writeAt n 384 (Reg.CORE_CTRL n) (setBit v 0) o s

/-- CORE_SWITCH_ARM written 1 (R62). -/
def execCoreSwitchArm (n : Nat) (v : Word) (o : Origin) (s : State) : Host.Outcome State Fault Refusal :=
  writeAt n 384 (Reg.CORE_CTRL n) (setBit v 1) o s

/-- CORE_SWITCH_ARM written 0 (R476). -/
def execCoreSwitchWithdraw (n : Nat) (v : Word) (o : Origin) (s : State) : Host.Outcome State Fault Refusal :=
  writeAt n 384 (Reg.CORE_CTRL n) (clearBit v 1) o s

/-- CORE_STOP written 1 (R63). -/
def execCoreStop (n : Nat) (v : Word) (o : Origin) (s : State) : Host.Outcome State Fault Refusal :=
  writeAt n 384 (Reg.CORE_CTRL n) (setBit v 2) o s

/-- CORE_STOP written 0 (R63). -/
def execCoreStopWithdraw (n : Nat) (v : Word) (o : Origin) (s : State) : Host.Outcome State Fault Refusal :=
  writeAt n 384 (Reg.CORE_CTRL n) (clearBit v 2) o s

/-- A write of CORE_STEP or CORE_MB (R65, R397). -/
def execCoreStepWrite (n : Nat) (mb : Bool) (v : Word) (o : Origin) (s : State) : Host.Outcome State Fault Refusal :=
  writeAt n 384 (if mb then Reg.CORE_MB n else Reg.CORE_STEP n) v o s

/-- ARR_SLAG_ARM written 1 (R84). -/
def execArrSlagReq (g : Nat) (v : Word) (o : Origin) (s : State) : Host.Outcome State Fault Refusal :=
  writeAt g 48 (Reg.ARR_SLAG_REQ g) (setBit v 31) o s

/-- NUM_LS_ARM written 1 (R116). -/
def execNumLsArm (v : Word) (o : Origin) (s : State) : Host.Outcome State Fault Refusal :=
  writeReg Reg.NUM_LS_SET (setBit v 31) o s

/-- A write of NUM_SEED_LO (R141). -/
def execNumSeedLo (v : Word) (o : Origin) (s : State) : Host.Outcome State Fault Refusal :=
  writeReg Reg.NUM_SEED_LO v o s

/-- A write of NUM_SEED_HI (R141). -/
def execNumSeedHi (v : Word) (o : Origin) (s : State) : Host.Outcome State Fault Refusal :=
  writeReg Reg.NUM_SEED_HI v o s

/-- MEM_OPT_ARM written 1 (R169). -/
def execMemOptArm (k : Nat) (v : Word) (o : Origin) (s : State) : Host.Outcome State Fault Refusal :=
  writeAt k 256 (Reg.MEM_OPT_CTRL k) (setBit v 31) o s

/-- MEM_TD_ARM with MEM_TD_OP INSTALL (R185). -/
def execInstall (v : Word) (o : Origin) (s : State) : Host.Outcome State Fault Refusal :=
  writeReg Reg.MEM_TD_CMD (setOp v 0) o s

/-- MEM_TD_ARM with MEM_TD_OP SWITCH (R185). -/
def execSwitch (v : Word) (o : Origin) (s : State) : Host.Outcome State Fault Refusal :=
  writeReg Reg.MEM_TD_CMD (setOp v 1) o s

/-- MEM_TD_ARM with MEM_TD_OP RETIRE (R185). -/
def execRetire (v : Word) (o : Origin) (s : State) : Host.Outcome State Fault Refusal :=
  writeReg Reg.MEM_TD_CMD (setOp v 2) o s

/-- A write of MEM_TD_MAP_HI (R190). -/
def execHomeMapWrite (v : Word) (o : Origin) (s : State) : Host.Outcome State Fault Refusal :=
  writeReg Reg.MEM_TD_MAP_HI v o s

/-- MEM_HOT_ARM with MEM_HOT_OP PROMOTE (R214). -/
def execPromote (v : Word) (o : Origin) (s : State) : Host.Outcome State Fault Refusal :=
  writeReg Reg.MEM_HOT_CMD (setOp v 0) o s

/-- MEM_HOT_ARM with MEM_HOT_OP DEMOTE (R214). -/
def execDemote (v : Word) (o : Origin) (s : State) : Host.Outcome State Fault Refusal :=
  writeReg Reg.MEM_HOT_CMD (setOp v 1) o s

/-- MEM_MV_ARM written 1 (R216). -/
def execMoveRowArm (v : Word) (o : Origin) (s : State) : Host.Outcome State Fault Refusal :=
  writeReg Reg.MEM_MV_CMD (setBit v 31) o s

/-- A write of HIF_B2_MAP_HI (R244). -/
def execHifB2Map (a : Nat) (v : Word) (o : Origin) (s : State) : Host.Outcome State Fault Refusal :=
  writeAt a 64 (Reg.HIF_B2_MAP_HI a) v o s

/-- FAB_P_RETRAIN written 1 (R263). -/
def execPortRetrain (p : Nat) (v : Word) (o : Origin) (s : State) : Host.Outcome State Fault Refusal :=
  writeAt p 13 (Reg.FAB_P_CTRL p) (setBit v 1) o s

/-- FAB_P_DISABLE written 1 (R263). -/
def execPortDisable (p : Nat) (v : Word) (o : Origin) (s : State) : Host.Outcome State Fault Refusal :=
  writeAt p 13 (Reg.FAB_P_CTRL p) (setBit v 0) o s

/-- FAB_P_DISABLE written 0 (R263). -/
def execPortEnable (p : Nat) (v : Word) (o : Origin) (s : State) : Host.Outcome State Fault Refusal :=
  writeAt p 13 (Reg.FAB_P_CTRL p) (clearBit v 0) o s

/-- FAB_LDIM_ARM written 1 (R274). -/
def execFabLdimArm (v : Word) (o : Origin) (s : State) : Host.Outcome State Fault Refusal :=
  writeReg Reg.FAB_LDIM_HI (setBit v 31) o s

/-- COL_BK_ARM with COL_BK_OP INSTALL (R279). -/
def execBucketInstall (v : Word) (o : Origin) (s : State) : Host.Outcome State Fault Refusal :=
  writeReg Reg.COL_BK_CMD (setOp v 0) o s

/-- COL_BK_ARM with COL_BK_OP REMOVE (R279). -/
def execBucketRemove (v : Word) (o : Origin) (s : State) : Host.Outcome State Fault Refusal :=
  writeReg Reg.COL_BK_CMD (setOp v 1) o s

/-- HIF_SQ_EN written 1 (R308). -/
def execSqEnable (r : Nat) (v : Word) (o : Origin) (s : State) : Host.Outcome State Fault Refusal :=
  writeAt r 64 (Reg.HIF_SQ_CFG r) (setBit v 31) o s

/-- HIF_SQ_EN written 0 (R308). -/
def execSqDisable (r : Nat) (v : Word) (o : Origin) (s : State) : Host.Outcome State Fault Refusal :=
  writeAt r 64 (Reg.HIF_SQ_CFG r) (clearBit v 31) o s

/-- HIF_T2_LOAD written 1 (R310). -/
def execHifT2Load (v : Word) (o : Origin) (s : State) : Host.Outcome State Fault Refusal :=
  writeReg Reg.HIF_T2_CMD (setBit v 31) o s

/-- HIF_PW_PROBE written 1 (R314). -/
def execHifPwProbe (w : Nat) (v : Word) (o : Origin) (s : State) : Host.Outcome State Fault Refusal :=
  writeAt w 8 (Reg.HIF_PW_CTRL w) (setBit v 30) o s

/-- ING_P_EN written 1 (R337, R338). -/
def execProducerEnable (p : Nat) (v : Word) (o : Origin) (s : State) : Host.Outcome State Fault Refusal :=
  writeAt p 16 (Reg.ING_P_CTRL p) (setBit v 31) o s

/-- ING_P_EN written 0 (R342). -/
def execProducerDisable (p : Nat) (v : Word) (o : Origin) (s : State) : Host.Outcome State Fault Refusal :=
  writeAt p 16 (Reg.ING_P_CTRL p) (clearBit v 31) o s

/-- HIF_HELD_RELEASE written 1 (R354). -/
def execHifHeldRelease (v : Word) (o : Origin) (s : State) : Host.Outcome State Fault Refusal :=
  writeReg Reg.HIF_LOSS_CFG (setBit v 31) o s

/-- A session number written to HIF_OPEN (R356). -/
def execHifOpen (v : Word) (o : Origin) (s : State) : Host.Outcome State Fault Refusal :=
  writeReg Reg.HIF_OPEN v o s

/-- PWR_PHASE_CLEAR written 1 (R367). -/
def execPwrPhaseClear (v : Word) (o : Origin) (s : State) : Host.Outcome State Fault Refusal :=
  writeReg Reg.PWR_CTRL (setBit v 1) o s

/-- PWR_D_RELEASE written 1 (R371). -/
def execPwrDRelease (d : Nat) (v : Word) (o : Origin) (s : State) : Host.Outcome State Fault Refusal :=
  writeAt d 4 (Reg.PWR_D_CTRL d) (setBit v 31) o s

/-- The arm of PWR_TOKEN_RESET_AT written 1 (R377). -/
def execTokenResetArm (v : Word) (o : Origin) (s : State) : Host.Outcome State Fault Refusal :=
  writeReg Reg.PWR_TOKEN_RESET_AT_HI (setBit v 31) o s

/-- CAST_ARM written 1 (R384). -/
def execCastArm (v : Word) (o : Origin) (s : State) : Host.Outcome State Fault Refusal :=
  writeReg Reg.CAST_CTRL (setBit v 31) o s

/-- CAST_RS_ARM written 1 (R394). -/
def execCastRsArm (v : Word) (o : Origin) (s : State) : Host.Outcome State Fault Refusal :=
  writeReg Reg.CAST_RS_CTRL (setBit v 31) o s

/-- CAST_RS_UNLOCK written 1 (R397). -/
def execCastRsUnlock (v : Word) (o : Origin) (s : State) : Host.Outcome State Fault Refusal :=
  writeReg Reg.CAST_RS_CTRL (setBit v 30) o s

/-- CAST_UNIT_CMD with operation 1 (R401). -/
def execUnitDeclareLost (v : Word) (o : Origin) (s : State) : Host.Outcome State Fault Refusal :=
  writeReg Reg.CAST_UNIT_CMD (setBit (setBit v 31) 30) o s

/-- CAST_UNIT_CMD with operation 0 (R405). -/
def execUnitRelease (v : Word) (o : Origin) (s : State) : Host.Outcome State Fault Refusal :=
  writeReg Reg.CAST_UNIT_CMD (clearBit (setBit v 31) 30) o s

/-- CAST_ML_CMD with operation 1 (R403). -/
def execModuleDeclareLost (v : Word) (o : Origin) (s : State) : Host.Outcome State Fault Refusal :=
  writeReg Reg.CAST_ML_CMD (setBit (setBit v 31) 30) o s

/-- CAST_ML_CMD with operation 0 (R403). -/
def execModuleClearLost (v : Word) (o : Origin) (s : State) : Host.Outcome State Fault Refusal :=
  writeReg Reg.CAST_ML_CMD (clearBit (setBit v 31) 30) o s

/-- CAST_DIS_CMD disable (R406). -/
def execFunctionDisable (v : Word) (o : Origin) (s : State) : Host.Outcome State Fault Refusal :=
  writeReg Reg.CAST_DIS_CMD (setBit (setBit v 31) 30) o s

/-- CAST_DIS_CMD enable (R408). -/
def execFunctionEnable (v : Word) (o : Origin) (s : State) : Host.Outcome State Fault Refusal :=
  writeReg Reg.CAST_DIS_CMD (clearBit (setBit v 31) 30) o s

/-- A write of ID_RESET (R422). -/
def execIdReset (v : Word) (o : Origin) (s : State) : Host.Outcome State Fault Refusal :=
  writeReg Reg.ID_RESET v o s

/-- ID_SETUP_LOCK written 1 (R423). -/
def execIdSetupLock (v : Word) (o : Origin) (s : State) : Host.Outcome State Fault Refusal :=
  writeReg Reg.ID_SETUP (setBit v 31) o s

/-- ID_MAINT_ARM written 1 (R426). -/
def execIdMaintArm (v : Word) (o : Origin) (s : State) : Host.Outcome State Fault Refusal :=
  writeReg Reg.ID_MAINT_REQ (setBit v 31) o s

/-- FWC_STAGE_GO written 1 (R433). -/
def execFwcStageGo (v : Word) (o : Origin) (s : State) : Host.Outcome State Fault Refusal :=
  writeReg Reg.FWC_CTRL (setBit v 30) o s

/-- FWC_STAGE_ABORT written 1 (R434). -/
def execFwcStageAbort (v : Word) (o : Origin) (s : State) : Host.Outcome State Fault Refusal :=
  writeReg Reg.FWC_CTRL (setBit v 29) o s

/-- A write of FWC_SET_WRITE (R438). -/
def execFwcSetWrite (v : Word) (o : Origin) (s : State) : Host.Outcome State Fault Refusal :=
  writeReg Reg.FWC_SET_WRITE v o s

/-- FWC_CONFIRM written 1 (R440). -/
def execFwcConfirm (v : Word) (o : Origin) (s : State) : Host.Outcome State Fault Refusal :=
  writeReg Reg.FWC_CTRL (setBit v 31) o s

end Sys2Proof.Machine
end

