-- ==== Sys2Proof/Machine/Dispatch.lean ====
section
/-!
DEFINITION. Dispatch: one arm per command, each a direct call of its meaning.
-/

namespace Sys2Proof.Machine

open Sys2Proof

def exec (i : Instr) (s : State) : Host.Outcome State Fault Refusal :=
  match i with
  | .heatTick t => Sys2Proof.Machine.execHeatTick t s
  | .heatWatchdog g => Sys2Proof.Machine.execHeatWatchdog g s
  | .doorbellPageReturn page => Sys2Proof.Machine.execDoorbellPageReturn page s
  | .heatDbLate => Sys2Proof.Machine.execHeatDbLate s
  | .heatChangeArm v o => Sys2Proof.Machine.execHeatChangeArm v o s
  | .heatChangeWithdraw v o => Sys2Proof.Machine.execHeatChangeWithdraw v o s
  | .heatRunSet v o => Sys2Proof.Machine.execHeatRunSet v o s
  | .heatRunClear v o => Sys2Proof.Machine.execHeatRunClear v o s
  | .heatTimeSet v o => Sys2Proof.Machine.execHeatTimeSet v o s
  | .timeMessage t => Sys2Proof.Machine.execTimeMessage t s
  | .masterTakeover k => Sys2Proof.Machine.execMasterTakeover k s
  | .ppsEdge => Sys2Proof.Machine.execPpsEdge s
  | .refLock tenM pps => Sys2Proof.Machine.execRefLock tenM pps s
  | .coreValidate n v o => Sys2Proof.Machine.execCoreValidate n v o s
  | .coreValidateDone n => Sys2Proof.Machine.execCoreValidateDone n s
  | .coreSwitchArm n v o => Sys2Proof.Machine.execCoreSwitchArm n v o s
  | .coreSwitchWithdraw n v o => Sys2Proof.Machine.execCoreSwitchWithdraw n v o s
  | .coreStop n v o => Sys2Proof.Machine.execCoreStop n v o s
  | .coreStopWithdraw n v o => Sys2Proof.Machine.execCoreStopWithdraw n v o s
  | .coreStepWrite n mb v o => Sys2Proof.Machine.execCoreStepWrite n mb v o s
  | .workWordIssue n => Sys2Proof.Machine.execWorkWordIssue n s
  | .send n => Sys2Proof.Machine.execSend n s
  | .data n header payload => Sys2Proof.Machine.execData n header payload s
  | .creditGrant n header => Sys2Proof.Machine.execCreditGrant n header s
  | .creditReturn n header => Sys2Proof.Machine.execCreditReturn n header s
  | .bindRequest n header => Sys2Proof.Machine.execBindRequest n header s
  | .slotFree n => Sys2Proof.Machine.execSlotFree n s
  | .channelLost id how => Sys2Proof.Machine.execChannelLost id how s
  | .arrayPass n rep => Sys2Proof.Machine.execArrayPass n rep s
  | .arrayRampDown g => Sys2Proof.Machine.execArrayRampDown g s
  | .arrayDrain g => Sys2Proof.Machine.execArrayDrain g s
  | .shadowCheck g => Sys2Proof.Machine.execShadowCheck g s
  | .shadowCaptureDrop g => Sys2Proof.Machine.execShadowCaptureDrop g s
  | .arrSlagReq g v o => Sys2Proof.Machine.execArrSlagReq g v o s
  | .vectorOperation n => Sys2Proof.Machine.execVectorOperation n s
  | .vectorOpComplete id => Sys2Proof.Machine.execVectorOpComplete id s
  | .numLsArm v o => Sys2Proof.Machine.execNumLsArm v o s
  | .numSeedLo v o => Sys2Proof.Machine.execNumSeedLo v o s
  | .numSeedHi v o => Sys2Proof.Machine.execNumSeedHi v o s
  | .stageWrite n rs => Sys2Proof.Machine.execStageWrite n rs s
  | .stageRestore n rs => Sys2Proof.Machine.execStageRestore n rs s
  | .handoff n => Sys2Proof.Machine.execHandoff n s
  | .denseApply n rs drift => Sys2Proof.Machine.execDenseApply n rs drift s
  | .ledgerDrain n rs => Sys2Proof.Machine.execLedgerDrain n rs s
  | .memOptArm k v o => Sys2Proof.Machine.execMemOptArm k v o s
  | .pickerLookup n p wait => Sys2Proof.Machine.execPickerLookup n p wait s
  | .rowLand id k ans => Sys2Proof.Machine.execRowLand id k ans s
  | .pickerRowTimeout id k => Sys2Proof.Machine.execPickerRowTimeout id k s
  | .bagPool id b => Sys2Proof.Machine.execBagPool id b s
  | .lookupComplete id => Sys2Proof.Machine.execLookupComplete id s
  | .install v o => Sys2Proof.Machine.execInstall v o s
  | .switch v o => Sys2Proof.Machine.execSwitch v o s
  | .retire v o => Sys2Proof.Machine.execRetire v o s
  | .memTdDrainClear e => Sys2Proof.Machine.execMemTdDrainClear e s
  | .homeMapWrite v o => Sys2Proof.Machine.execHomeMapWrite v o s
  | .contribution n p wait => Sys2Proof.Machine.execContribution n p wait s
  | .contributionRow x => Sys2Proof.Machine.execContributionRow x s
  | .contributionRowTimeout id k => Sys2Proof.Machine.execContributionRowTimeout id k s
  | .contributionComplete id => Sys2Proof.Machine.execContributionComplete id s
  | .crucibleAdd a df sf x => Sys2Proof.Machine.execCrucibleAdd a df sf x s
  | .readClear src a f x => Sys2Proof.Machine.execReadClear src a f x s
  | .sketchDecay => Sys2Proof.Machine.execSketchDecay s
  | .promote v o => Sys2Proof.Machine.execPromote v o s
  | .demote v o => Sys2Proof.Machine.execDemote v o s
  | .memHotDrainClear e => Sys2Proof.Machine.execMemHotDrainClear e s
  | .drupeletRefresh e rs => Sys2Proof.Machine.execDrupeletRefresh e rs s
  | .moveRowArm v o => Sys2Proof.Machine.execMoveRowArm v o s
  | .rowMoveCopy e rs => Sys2Proof.Machine.execRowMoveCopy e rs s
  | .rowMoved e x rs => Sys2Proof.Machine.execRowMoved e x rs s
  | .copy who rs => Sys2Proof.Machine.execCopy who rs s
  | .move who rs => Sys2Proof.Machine.execMove who rs s
  | .ladleComplete id => Sys2Proof.Machine.execLadleComplete id s
  | .ladleRequestTimeout id => Sys2Proof.Machine.execLadleRequestTimeout id s
  | .scrub ch corrected bad => Sys2Proof.Machine.execScrub ch corrected bad s
  | .creditReclaim ch src => Sys2Proof.Machine.execCreditReclaim ch src s
  | .stackTempReport k t => Sys2Proof.Machine.execStackTempReport k t s
  | .bar2Read off len ans => Sys2Proof.Machine.execBar2Read off len ans s
  | .bar2Write off bytes ans => Sys2Proof.Machine.execBar2Write off bytes ans s
  | .hifB2Map a v o => Sys2Proof.Machine.execHifB2Map a v o s
  | .linkTraining p => Sys2Proof.Machine.execLinkTraining p s
  | .trainingStageEnd p r => Sys2Proof.Machine.execTrainingStageEnd p r s
  | .trainingStageTimeout p => Sys2Proof.Machine.execTrainingStageTimeout p s
  | .retrainTimer p => Sys2Proof.Machine.execRetrainTimer p s
  | .portRetrain p v o => Sys2Proof.Machine.execPortRetrain p v o s
  | .portDisable p v o => Sys2Proof.Machine.execPortDisable p v o s
  | .portEnable p v o => Sys2Proof.Machine.execPortEnable p v o s
  | .flitReceive p f => Sys2Proof.Machine.execFlitReceive p f s
  | .replayTimeout p => Sys2Proof.Machine.execReplayTimeout p s
  | .lossOfLock p => Sys2Proof.Machine.execLossOfLock p s
  | .packetReceive p header x => Sys2Proof.Machine.execPacketReceive p header x s
  | .reseqGapTimeout x => Sys2Proof.Machine.execReseqGapTimeout x s
  | .linkStateNotice p n => Sys2Proof.Machine.execLinkStateNotice p n s
  | .fabLdimArm v o => Sys2Proof.Machine.execFabLdimArm v o s
  | .start who => Sys2Proof.Machine.execStart who s
  | .stepClose => Sys2Proof.Machine.execStepClose s
  | .collectivePacket x => Sys2Proof.Machine.execCollectivePacket x s
  | .collectiveEnd b => Sys2Proof.Machine.execCollectiveEnd b s
  | .collectiveTimeout b => Sys2Proof.Machine.execCollectiveTimeout b s
  | .abort src b step status => Sys2Proof.Machine.execAbort src b step status s
  | .bucketInstall v o => Sys2Proof.Machine.execBucketInstall v o s
  | .bucketRemove v o => Sys2Proof.Machine.execBucketRemove v o s
  | .sqEnable r v o => Sys2Proof.Machine.execSqEnable r v o s
  | .sqDisable r v o => Sys2Proof.Machine.execSqDisable r v o s
  | .descriptorFetch r e body => Sys2Proof.Machine.execDescriptorFetch r e body s
  | .patternLoad r e rs => Sys2Proof.Machine.execPatternLoad r e rs s
  | .nop r e => Sys2Proof.Machine.execNop r e s
  | .hifT2Load v o => Sys2Proof.Machine.execHifT2Load v o s
  | .hostMapLoadDone table => Sys2Proof.Machine.execHostMapLoadDone table s
  | .hifPwProbe w v o => Sys2Proof.Machine.execHifPwProbe w v o s
  | .peerProbeDone w result rtt => Sys2Proof.Machine.execPeerProbeDone w result rtt s
  | .hostLink up rate width flit => Sys2Proof.Machine.execHostLink up rate width flit s
  | .hostLoss cause unacked => Sys2Proof.Machine.execHostLoss cause unacked s
  | .producerEnable p v o => Sys2Proof.Machine.execProducerEnable p v o s
  | .producerDisable p v o => Sys2Proof.Machine.execProducerDisable p v o s
  | .ingestEvaluation => Sys2Proof.Machine.execIngestEvaluation s
  | .hifHeldRelease v o => Sys2Proof.Machine.execHifHeldRelease v o s
  | .hifOpen v o => Sys2Proof.Machine.execHifOpen v o s
  | .epochCheck word => Sys2Proof.Machine.execEpochCheck word s
  | .retentionExpiry => Sys2Proof.Machine.execRetentionExpiry s
  | .voltageReached d => Sys2Proof.Machine.execVoltageReached d s
  | .pwrPhaseClear v o => Sys2Proof.Machine.execPwrPhaseClear v o s
  | .vinLow vin => Sys2Proof.Machine.execVinLow vin s
  | .pwrDRelease d v o => Sys2Proof.Machine.execPwrDRelease d v o s
  | .thermalTrip kept => Sys2Proof.Machine.execThermalTrip kept s
  | .hubThermal tj => Sys2Proof.Machine.execHubThermal tj s
  | .coolantWarn inlet outlet => Sys2Proof.Machine.execCoolantWarn inlet outlet s
  | .brokerBoundary => Sys2Proof.Machine.execBrokerBoundary s
  | .brokerPacket x => Sys2Proof.Machine.execBrokerPacket x s
  | .tokenResetArm v o => Sys2Proof.Machine.execTokenResetArm v o s
  | .castArm v o => Sys2Proof.Machine.execCastArm v o s
  | .castCopy => Sys2Proof.Machine.execCastCopy s
  | .castCopyDone late fails => Sys2Proof.Machine.execCastCopyDone late fails s
  | .castDrainDone buddy host => Sys2Proof.Machine.execCastDrainDone buddy host s
  | .castCompare record => Sys2Proof.Machine.execCastCompare record s
  | .castCompareTimeout => Sys2Proof.Machine.execCastCompareTimeout s
  | .castRsArm v o => Sys2Proof.Machine.execCastRsArm v o s
  | .restoreDone d => Sys2Proof.Machine.execRestoreDone d s
  | .castRsUnlock v o => Sys2Proof.Machine.execCastRsUnlock v o s
  | .unitDeclareLost v o => Sys2Proof.Machine.execUnitDeclareLost v o s
  | .unitRelease v o => Sys2Proof.Machine.execUnitRelease v o s
  | .uncorrectableUnitError u => Sys2Proof.Machine.execUncorrectableUnitError u s
  | .moduleDeclareLost v o => Sys2Proof.Machine.execModuleDeclareLost v o s
  | .moduleClearLost v o => Sys2Proof.Machine.execModuleClearLost v o s
  | .functionDisable v o => Sys2Proof.Machine.execFunctionDisable v o s
  | .functionEnable v o => Sys2Proof.Machine.execFunctionEnable v o s
  | .disableDone f die cluster picker => Sys2Proof.Machine.execDisableDone f die cluster picker s
  | .powerOn pin => Sys2Proof.Machine.execPowerOn pin s
  | .bringupStageEnd r => Sys2Proof.Machine.execBringupStageEnd r s
  | .bringupStageTimeout => Sys2Proof.Machine.execBringupStageTimeout s
  | .idReset v o => Sys2Proof.Machine.execIdReset v o s
  | .modRst kept => Sys2Proof.Machine.execModRst kept s
  | .vinTrip kept => Sys2Proof.Machine.execVinTrip kept s
  | .idSetupLock v o => Sys2Proof.Machine.execIdSetupLock v o s
  | .idMaintArm v o => Sys2Proof.Machine.execIdMaintArm v o s
  | .maintEnd cols => Sys2Proof.Machine.execMaintEnd cols s
  | .fwcStageGo v o => Sys2Proof.Machine.execFwcStageGo v o s
  | .stagingDone readOk storeOk readBackOk => Sys2Proof.Machine.execStagingDone readOk storeOk readBackOk s
  | .stagingTimeout => Sys2Proof.Machine.execStagingTimeout s
  | .fwcStageAbort v o => Sys2Proof.Machine.execFwcStageAbort v o s
  | .fwcSetWrite v o => Sys2Proof.Machine.execFwcSetWrite v o s
  | .fwcConfirm v o => Sys2Proof.Machine.execFwcConfirm v o s
  | .journalStore n => Sys2Proof.Machine.execJournalStore n s
  | .getCert eid => Sys2Proof.Machine.execGetCert eid s
  | .attest eid nonce => Sys2Proof.Machine.execAttest eid nonce s
  | .getChallenge eid => Sys2Proof.Machine.execGetChallenge eid s
  | .challengeExpiry => Sys2Proof.Machine.execChallengeExpiry s
  | .regRead eid off => Sys2Proof.Machine.execRegRead eid off s
  | .regWrite eid off v => Sys2Proof.Machine.execRegWrite eid off v s
  | .warmReset eid => Sys2Proof.Machine.execWarmReset eid s
  | .recovery eid c => Sys2Proof.Machine.execRecovery eid c s
  | .claim eid key c => Sys2Proof.Machine.execClaim eid key c s
  | .release eid c => Sys2Proof.Machine.execRelease eid c s
  | .debugUnlock eid c => Sys2Proof.Machine.execDebugUnlock eid c s
  | .revokeKey eid c => Sys2Proof.Machine.execRevokeKey eid c s
  | .getSensorReading eid id => Sys2Proof.Machine.execGetSensorReading eid id s
  | .platformEventMessage id => Sys2Proof.Machine.execPlatformEventMessage id s
  | .requestUpdate eid => Sys2Proof.Machine.execRequestUpdate eid s
  | .verifyComplete eid img storeOk readBackOk => Sys2Proof.Machine.execVerifyComplete eid img storeOk readBackOk s
  | .activateFirmware eid => Sys2Proof.Machine.execActivateFirmware eid s
  | .cancelUpdate eid => Sys2Proof.Machine.execCancelUpdate eid s
  | .registerWrite off size v => Sys2Proof.Machine.execRegisterWrite off size v s
  | .registerRead off size => Sys2Proof.Machine.execRegisterRead off size s
  | .mctpControlMessage t assign => Sys2Proof.Machine.execMctpControlMessage t assign s
  | .eventReceiverRegistration eid => Sys2Proof.Machine.execEventReceiverRegistration eid s
  | .coolantWarnClear inlet outlet => Sys2Proof.Machine.execCoolantWarnClear inlet outlet s

end Sys2Proof.Machine
end

