-- ==== Sys2Proof/WellFormed.lean ====
section
/-!
DEFINITION. Which commands the module's surroundings can send: every unit, port, ring or slot a command names exists,
and what it carries has the length the spec gives it. A command's meaning is defined on ill-formed commands too.
-/

namespace Sys2Proof

/-- Bounds on the index a register write or a unit's command names. -/
def Instr.indexOk : Instr → Bool
  | .heatWatchdog g | .arrayRampDown g | .arrayDrain g | .shadowCheck g | .shadowCaptureDrop g | .arrSlagReq g _ _ =>
    decide (g < 48)
  | .coreValidate n _ _ | .coreValidateDone n | .coreSwitchArm n _ _ | .coreSwitchWithdraw n _ _ | .coreStop n _ _
  | .coreStopWithdraw n _ _ | .coreStepWrite n _ _ _ | .workWordIssue n | .send n | .data n _ _ | .creditGrant n _
  | .creditReturn n _ | .bindRequest n _ | .slotFree n | .arrayPass n _ | .vectorOperation n | .stageWrite n _
  | .stageRestore n _ | .handoff n | .denseApply n _ _ | .ledgerDrain n _ => decide (n < 384)
  | .pickerLookup n p _ | .contribution n p _ => decide (n < 384 ∧ p < 2)
  | .memOptArm k _ _ => decide (k < 256)
  | .memTdDrainClear i => decide (i < 4096)
  | .memHotDrainClear i | .drupeletRefresh i _ | .rowMoveCopy i _ | .rowMoved i _ _ => decide (i < 16384)
  | .scrub ch _ _ => decide (ch < 288)
  | .creditReclaim ch src => decide (ch < 288 ∧ src < 6)
  | .stackTempReport k _ => decide (k < 16)
  | .hifB2Map a _ _ => decide (a < 64)
  | .linkTraining p | .trainingStageEnd p _ | .trainingStageTimeout p | .retrainTimer p | .portRetrain p _ _
  | .portDisable p _ _ | .portEnable p _ _ | .flitReceive p _ | .replayTimeout p | .lossOfLock p | .packetReceive p _ _
  | .linkStateNotice p _ => decide (p < 13)
  | .sqEnable r _ _ | .sqDisable r _ _ | .descriptorFetch r _ _ | .patternLoad r _ _ | .nop r _ => decide (r < 64)
  | .hifPwProbe w _ _ | .peerProbeDone w _ _ => decide (w < 8)
  | .producerEnable p _ _ | .producerDisable p _ _ => decide (p < 16)
  | .voltageReached d | .pwrDRelease d _ _ => decide (d < 4)
  | .collectiveEnd b | .collectiveTimeout b => decide (b < 1024)
  | .abort src b _ status => decide (src < 8192 ∧ b < 1024 ∧ status < 16)
  | .copy (.core n) _ | .move (.core n) _ | .start (.core n) => decide (n < 384)
  | .copy (.ring r _) _ | .move (.ring r _) _ | .start (.ring r _) => decide (r < 64)
  | _ => true

/-- Lengths and sizes of what a command carries. -/
def Instr.shapeOk : Instr → Bool
  | .heatTick t => decide (t.meters.length = 48 ∧ t.tj.length = 4)
  | .doorbellPageReturn page => decide (page.length = 4096)
  | .data _ h _ | .creditGrant _ h | .creditReturn _ h | .bindRequest _ h => decide (h.length = 32)
  | .hostMapLoadDone (some t) => decide (t.length = 16384)
  | .masterTakeover known => known.all (fun x => decide (x.1 < 8192))
  | .timeMessage t => decide (t.port < 13)
  | .bar2Read off len _ => decide (0 < len ∧ off + len ≤ 2 ^ 36)
  | .bar2Write off bytes _ => decide (0 < bytes.length ∧ off + bytes.length ≤ 2 ^ 36)
  | .registerWrite off size _ | .registerRead off size => decide (off < 0x2000000 ∧ 0 < size ∧ size ≤ 8)
  | .regRead eid off | .regWrite eid off _ => decide (eid < 256 ∧ off < 0x2000000)
  | .collectivePacket ⟨_, _, _, _, _, _, _, .abort st⟩ | .rowMoved _ (.failed st) _ => decide (st < 16)
  | .attest eid nonce => decide (eid < 256 ∧ nonce.length = 32)
  | .getCert eid | .getChallenge eid | .warmReset eid | .requestUpdate eid | .activateFirmware eid | .cancelUpdate eid
  | .eventReceiverRegistration eid => decide (eid < 256)
  | .linkStateNotice _ n => decide (n.src < 8192 ∧ n.up < 8192)
  | .reseqGapTimeout x => decide (x.1 < 8192)
  | .maintEnd cols => cols.all (fun c => decide (c < 512))
  | _ => true

/-- A command the module's surroundings can send. -/
def Instr.wellFormed (i : Instr) : Bool := i.indexOk && i.shapeOk

end Sys2Proof
end

