-- ==== Sys2Proof/Safety.lean ====
section
/-!
DEFINITION. What a good state is, and the terms the claims use: what two states agree on, and when a write of a
register is accepted and what every accepted write leaves.
-/

namespace Sys2Proof.Machine

open Sys2Proof

/-- The byte memory is in its canonical form (R4, R416, R417): cells strictly rising, none equal to what an unlisted
cell reads as. -/
abbrev Memory.wf (mem : Memory) : Prop := tabWf noByte mem = true

namespace State

/-- The invariant every step keeps: the byte memory is in its canonical form. -/
def Inv (s : State) : Prop := Memory.wf s.mem

/-- The numbers that pieces of work, their parts and messages go by are all below the next one to be given. -/
def FreshNumbers (s : State) : Prop :=
  (∀ k ∈ s.mod.works, k.id < s.mod.nextId) ∧ (∀ x ∈ s.mod.msgs, x.id < s.mod.nextId) ∧
    (∀ o ∈ s.mod.tables.applies, o.work < s.mod.nextId) ∧ (∀ l ∈ s.mod.tables.lookups, l.work < s.mod.nextId) ∧
    (∀ c ∈ s.mod.tables.contribs, c.work < s.mod.nextId)

/-- What a byte of the module's memory reads as. -/
def byteAt (s : State) (c : Nat) : Byte := memByte s.mem c

/-- Every byte of memory reads in `t` as it does in `s`. -/
def SameBytes (s t : State) : Prop := ∀ c, t.byteAt c = s.byteAt c

/-- Every byte of memory outside `len` bytes from cell `a` on reads in `t` as it does in `s`. -/
def BytesBut (s : State) (a len : Nat) (t : State) : Prop := ∀ c, c < a ∨ a + len ≤ c → t.byteAt c = s.byteAt c

/-- Every register outside a list of offsets holds in `t` what it holds in `s`. -/
def RegsBut (s : State) (offs : List Nat) (t : State) : Prop := ∀ a, a ∉ offs → t.mod.rd a = s.mod.rd a

/-- A write of a word to a register passes every check that does not depend on the register's block: it reaches the
module (R413; over management while the management processor answers, R450), the register exists and holds a
field of type RW, RWS, RWL or WO, no reserved bit is written 1 (R7), and after the set-up lock no RWL field is changed (R8). -/
def Accepts (s : State) (off : Nat) (v : Word) (o : Origin) : Prop :=
  s.mod.boot.powered = true ∧ (s.mod.ready = true ∨ off < 0x10000) ∧
    (match o with | .host => True | .mgmt _ => s.mod.torvordUp = true) ∧
    ∃ d, regAt off = some d ∧ recordedBits d ≠ 0 ∧ v &&& BitVec.ofNat 32 (reservedBits d) = 0 ∧
      (s.mod.locked = true → (v ^^^ s.mod.pendingRd off) &&& BitVec.ofNat 32 d.rwl = 0)

/-- The journal entry of a register write that ended with a status: the value a read gave before and the word written
(R441). -/
def entryOf (s : State) (st off : Nat) (v : Word) (o : Origin) : JEntry :=
  ⟨s.mod.now, if s.mod.heat.everRan then s.mod.heatNo else 2 ^ 48 - 1, st, 0, (s.mod.originCode o).1, off,
    (s.mod.readValue off).toNat, v.toNat, (s.mod.originCode o).2⟩

/-- The reply to a register write of management that completes with a status (R4, R450); a host write has none. -/
def replyOf (st : Nat) : Origin → List Out
  | .host => []
  | .mgmt e => [.reply e st []]

/-- What an accepted write leaves whatever it does: its entry at the end of the change journal with status OK, and the
reply to a management request. -/
def Journalled (s t : State) (off : Nat) (v : Word) (o : Origin) : Prop :=
  t.mod.jnlPend = s.mod.jnlPend ++ [s.entryOf stOk off v o] ∧ t.mod.out = s.mod.out ++ replyOf stOk o

/-- What a write that is dropped with a status leaves: its entry in the change journal, the reply to a management
request, and nothing else. -/
def Dropped (s t : State) (st off : Nat) (v : Word) (o : Origin) : Prop :=
  t = { s with mod := { s.mod with
    jnlPend := s.mod.jnlPend ++ [s.entryOf st off v o], out := s.mod.out ++ replyOf st o } }

/-- A COPY (kind 1) or MOVE (kind 2) may start with a block: the core has a word of that kind issued whose checks pass,
whose ladles are enabled and which neither a tracker nor a queued line holds up (a COPY's source relocated as R50 says), or
the ring's descriptor has been fetched, checked and waits for nothing (R252). -/
def LadleReady (s : State) (kind : Nat) (who : Runner) (b : Nat) : Prop :=
  match who with
  | .core n => n < 384 ∧ s.mod.dieLadleOff (n / 96) = false ∧ ∃ w pos b0,
      s.mod.ladleWord n kind = some (w, pos, b0) ∧ s.mod.ladleWordError n w b0 = 0 ∧
      s.mod.ladleHeldUp (n / 96) (placeSpan s.mod (ldSrc b0) (ldSrcBytes b0) :: s.mod.ladleDst b0) = false ∧
      b = if kind = 1 then s.mod.relocSrc s.mem n b0 else b0
  | .ring r i => s.mod.ringDesc r i kind = some b

/-- A stretch of addresses is a stretch of the module's own memory, from cell `c` on, that answers requests. -/
def OwnStretch (s : State) (a len c : Nat) (read : Bool) : Prop :=
  ∀ k, k < len → placeCell (placeOf s.mod (a + k)) = some (c + k) ∧ s.mod.reach (a + k) read = stOk

/-- The record with which a descriptor of a submission ring completes (R326, R327). -/
def compOf (s : State) (r i status err : Nat) (tag kind : Nat) : CompRec :=
  ⟨s.mod.now, s.mod.heatNo, status, err, tag, i, r, kind⟩

/-- A register holds after a write what R8 says of its fields: RW, RWS, RWL and WO bits as written, W1C bits cleared
where written 1, RO bits as they were. -/
def Stored (s t : State) (off : Nat) (v : Word) : Prop :=
  ∃ d, regAt off = some d ∧ t.mod.rd off = mergeWrite d (s.mod.rd off) v

/-- The word issued at a core is the last of its block, whose alternative advances CORE_STEP (first) or CORE_MB (second)
(Table 2.5). -/
def Ends (s : State) (n : Nat) : Bool × Bool :=
  match (s.mod.coreSt n).choice with
  | some c => if (s.mod.coreSt n).issued.isSome && c.next == c.workLen then (c.stepInc, c.mbInc) else (false, false)
  | none => (false, false)

/-- CORE_STEP and CORE_MB of a core after its issued word was taken: advanced with the last word of a block as its alternative
says, else as they were; no other register outside a list changed. -/
def Advanced (s : State) (n : Nat) (offs : List Nat) (t : State) : Prop :=
  t.mod.rdN (Reg.CORE_STEP n) = (s.mod.rdN (Reg.CORE_STEP n) + if (s.Ends n).1 then 1 else 0) % 2 ^ 32 ∧
    t.mod.rd (Reg.CORE_MB n) = (if (s.Ends n).2 then BitVec.ofNat 32 ((s.mod.rdN (Reg.CORE_MB n) + 1) % 65536)
      else s.mod.rd (Reg.CORE_MB n)) ∧
    s.RegsBut (Reg.CORE_STEP n :: Reg.CORE_MB n :: offs) t

end State

end Sys2Proof.Machine
end

