-- ==== Sys2Proof/Certificates/Slice0/Obligations.lean ====
section
/-!
DEFINITION. What is claimed of the module: every statement is one proposition, and its docstring names the rules of
spec/ it rests on. None of them assumes anything of a run: each holds in every state that meets its own hypotheses.
-/

open Sys2Proof Sys2Proof.Machine

/-- A step runs the command at the front of the queue with the rest of the queue, and idles on an empty queue.
01_heat.md R27. The model's own choices in it: log entry 1. -/
def Obligations.StepTakesTheFrontCommand : Prop :=
  (∀ (c : Instr) (cs : List Instr) (s : State),
    Machine.step { s with pending := c :: cs } = Machine.exec c { s with pending := cs }) ∧
  (∀ s : State, s.pending = [] → ∃ t, Machine.step s = .next t ∧
    t = { s with mod := { s.mod with heat := { s.mod.heat with
      time := t.mod.heat.time, pull := t.mod.heat.pull, pullFrac := t.mod.heat.pullFrac } } } ∧
    (s.mod.boot.powered = false → t = s) ∧
    (s.mod.boot.powered = true → s.mod.heat.pull = 0 → t.mod.now = (s.mod.now + 1) % 2 ^ 64))

/-- Every command on every state answers a next state and leaves the queue as it is: none faults and none is refused.
00_introduction.md, 16_descriptors_and_records.md R334. -/
def Obligations.CommandsAlwaysComplete : Prop :=
  ∀ (c : Instr) (s : State), ∃ t, Machine.exec c s = .next t ∧ t.pending = s.pending

/-- The byte memory of the state after reset is in its canonical form and reads 0 everywhere. 21_bringup_and_setup.md
R416, 21_bringup_and_setup.md R417. The model's own choices in it: log entry 3. -/
def Obligations.ResetMemoryIsCanonical : Prop :=
  State.reset.Inv ∧ (∀ c, State.reset.byteAt c = 0) ∧ State.reset.pending = []

/-- Every step keeps the byte memory in its canonical form, from every state that has it. 12_address_space.md R240,
21_bringup_and_setup.md R416, 21_bringup_and_setup.md R417. -/
def Obligations.StepKeepsMemoryCanonical : Prop :=
  ∀ s t : State, s.Inv → Machine.step s = .next t → t.Inv

/-- Every step keeps the numbers of work and messages below the next one to be given, and the state after reset has
it. 01_heat.md R13, 16_descriptors_and_records.md R319. -/
def Obligations.NumbersStayFresh : Prop :=
  State.reset.FreshNumbers ∧ ∀ s t : State, s.FreshNumbers → Machine.step s = .next t → t.FreshNumbers

/-- No step lowers the minimum security version in OTP, takes back a revocation, or forgets that the debug port was
opened. 22_firmware_and_configuration.md R436, 23_security_and_management.md R446. -/
def Obligations.FusesAndRevocationsNeverFall : Prop :=
  ∀ s t : State, Machine.step s = .next t →
    s.mod.nv.otpSvn ≤ t.mod.nv.otpSvn ∧
    (∀ k, s.mod.nv.revoked.testBit k = true → t.mod.nv.revoked.testBit k = true) ∧
    (s.mod.nv.debugEver = true → t.mod.nv.debugEver = true)

/-- Reserved bits and unassigned offsets read zero; a write that breaks R7 is dropped as the rule says. R7. -/
def Obligations.ReservedAndUnassignedOffsets : Prop :=
  ∀ (s : State) (off : Nat) (v : Word), s.mod.boot.powered = true → off % 4 = 0 →
    (s.mod.ready = true ∨ off < 0x10000) →
    (∃ t w, Machine.exec (.registerRead off 4) s = .next t ∧ t.mod.out = s.mod.out ++ [.regValue off w] ∧
      (∀ d, regAt off = some d → w &&& BitVec.ofNat 32 (reservedBits d) = 0) ∧ (regAt off = none → w = 0)) ∧
    (∀ d, regAt off = some d → writableBits d ≠ 0 → v &&& BitVec.ofNat 32 (reservedBits d) ≠ 0 →
      Machine.exec (.registerWrite off 4 (v.setWidth 64)) s = .next { s with mod := { s.mod with jnlPend :=
        s.mod.jnlPend ++ [s.entryOf stMalformed off v .host] } }) ∧
    ((regAt off = none ∨ ∃ d, regAt off = some d ∧ writableBits d = 0) →
      Machine.exec (.registerWrite off 4 (v.setWidth 64)) s = .next s)

/-- After the set-up lock a write that changes an RWL field is dropped with ACCESS_DENIED; before ready only the ID_
block is served. 00_scope.md R8, 21_bringup_and_setup.md R413. -/
def Obligations.LockedAndEarlyWritesAreDropped : Prop :=
  ∀ (s : State) (off : Nat) (v : Word), s.mod.boot.powered = true → off % 4 = 0 →
    (∀ d, regAt off = some d → writableBits d ≠ 0 → (s.mod.ready = true ∨ off < 0x10000) → s.mod.locked = true →
      v &&& BitVec.ofNat 32 (reservedBits d) = 0 → (v ^^^ s.mod.pendingRd off) &&& BitVec.ofNat 32 d.rwl ≠ 0 →
      Machine.exec (.registerWrite off 4 (v.setWidth 64)) s = .next { s with mod := { s.mod with jnlPend :=
        s.mod.jnlPend ++ [s.entryOf stAccessDenied off v .host] } }) ∧
    (s.mod.ready = false → 0x10000 ≤ off →
      Machine.exec (.registerWrite off 4 (v.setWidth 64)) s = .next s ∧
      Machine.exec (.registerRead off 4) s =
        .next { s with mod := { s.mod with out := s.mod.out ++ [.regValue off 0xFFFFFFFF] } } ∧
      ∀ e, s.mod.torvordUp = true → Machine.exec (.regWrite e off v) s =
        .next { s with mod := { s.mod with out := s.mod.out ++ [.reply e stOk []] } })

/-- A write by address to a plain register is stored and journalled, by the host or by management, and a read returns
what is held. 00_scope.md R8, 01_heat.md R36, 22_firmware_and_configuration.md R441, 23_security_and_management.md
R450. The model's own choices in it: log entry 19. -/
def Obligations.RegisterAccessByAddress : Prop :=
  (∀ (s : State) (off : Nat) (v : Word), off ∈ [Reg.HEAT_CFG_NEXT, Reg.HEAT_CHANGE_AT_LO, Reg.HEAT_TIME_SET_LO,
      Reg.HIF_T2_TAB_LO, Reg.HIF_T2_TAB_HI, Reg.MEM_TD_SEL, Reg.MEM_TD_AT_LO, Reg.MEM_HOT_AT_LO, Reg.FAB_LDIM_LO,
      Reg.COL_BK_SEL, Reg.PWR_TOKEN_RESET_AT_LO, Reg.CAST_AT_LO, Reg.NUM_LS_SET_STEP, Reg.FWC_SET_SEL] →
    (s.Accepts off v .host → ∃ t, Machine.exec (.registerWrite off 4 (v.setWidth 64)) s = .next t ∧
      s.Stored t off v ∧ s.Journalled t off v .host ∧ s.RegsBut [off] t ∧
      t = { s with mod := { s.mod with regs := t.mod.regs, jnlPend := t.mod.jnlPend } }) ∧
    (∀ e, s.Accepts off v (.mgmt e) → ∃ t, Machine.exec (.regWrite e off v) s = .next t ∧
      s.Stored t off v ∧ s.Journalled t off v (.mgmt e) ∧ s.RegsBut [off] t ∧
      t = { s with mod := { s.mod with regs := t.mod.regs, jnlPend := t.mod.jnlPend, out := t.mod.out } })) ∧
  (∀ (s : State) (off : Nat), off % 4 = 0 → s.mod.boot.powered = true → (s.mod.ready = true ∨ off < 0x10000) →
    tabGet (fun _ => none) s.mod.latch off = none →
    (∃ t, Machine.exec (.registerRead off 4) s = .next t ∧
      t.mod.out = s.mod.out ++ [.regValue off (s.mod.readValue off)] ∧
      (∀ d, regAt off = some d → loBases.contains d.base = true →
        tabGet (fun _ => none) t.mod.latch (off + 4) = some (s.mod.readValue (off + 4))) ∧
      t = { s with mod := { s.mod with out := t.mod.out, latch := t.mod.latch } }) ∧
    (∀ e, s.mod.torvordUp = true → ∃ t, Machine.exec (.regRead e off) s = .next t ∧
      t.mod.out = s.mod.out ++ [.reply e stOk (leBytes 4 (s.mod.readValue off).toNat)] ∧
      t = { s with mod := { s.mod with out := t.mod.out, latch := t.mod.latch } }))

/-- A read of a _LO register latches its _HI half, and the next read of the _HI register returns the half that was
latched. 01_heat.md R36. The model's own choices in it: log entry 19. -/
def Obligations.LatchedHighHalf : Prop :=
  ∀ (s t u : State) (off : Nat) (d : RegDef), off % 4 = 0 → s.mod.boot.powered = true →
    (s.mod.ready = true ∨ off + 4 < 0x10000) → regAt off = some d → loBases.contains d.base = true →
    tabGet (fun _ => none) s.mod.latch off = none →
    Machine.exec (.registerRead off 4) s = .next t →
    u.mod.latch = t.mod.latch → u.mod.boot.powered = true → (u.mod.ready = true ∨ off + 4 < 0x10000) →
    ∃ r, Machine.exec (.registerRead (off + 4) 4) u = .next r ∧
      r.mod.out = u.mod.out ++ [.regValue (off + 4) (s.mod.readValue (off + 4))] ∧
      tabGet (fun _ => none) r.mod.latch (off + 4) = none ∧
      r = { u with mod := { u.mod with out := r.mod.out, latch := r.mod.latch } }

/-- HEAT_CHANGE_ARM arms or withdraws a change of configuration, HEAT_TIME_SET sets module time, and each is dropped
as R25 and R32 say. 01_heat.md R25, 01_heat.md R32, 01_heat.md R474. -/
def Obligations.HeatSetupWrites : Prop :=
  (∀ (s : State) (v : Word) (o : Origin), s.Accepts Reg.HEAT_CHANGE_AT_HI (setBit v 31) o →
    (s.mod.heatNo + 2 ≤ s.mod.rdN Reg.HEAT_CHANGE_AT_LO + 2 ^ 32 * wordBits (setBit v 31) 15 0 →
      cfgInRange (s.mod.rd Reg.HEAT_CFG_NEXT) = true →
      ∃ t, Machine.exec (.heatChangeArm v o) s = .next t ∧
        t.mod.heat.change =
          some ⟨s.mod.rdN Reg.HEAT_CHANGE_AT_LO + 2 ^ 32 * wordBits (setBit v 31) 15 0, s.mod.rd Reg.HEAT_CFG_NEXT⟩ ∧
        t.mod.heat = { s.mod.heat with change := t.mod.heat.change } ∧
        s.Stored t Reg.HEAT_CHANGE_AT_HI (setBit v 31) ∧ s.Journalled t Reg.HEAT_CHANGE_AT_HI (setBit v 31) o ∧
        s.RegsBut [Reg.HEAT_CHANGE_AT_HI] t ∧
        t = { s with mod := { s.mod with
          regs := t.mod.regs, jnlPend := t.mod.jnlPend, out := t.mod.out, heat := t.mod.heat } }) ∧
    (¬ (s.mod.heatNo + 2 ≤ s.mod.rdN Reg.HEAT_CHANGE_AT_LO + 2 ^ 32 * wordBits (setBit v 31) 15 0 ∧
        cfgInRange (s.mod.rd Reg.HEAT_CFG_NEXT) = true) →
      ∃ t, Machine.exec (.heatChangeArm v o) s = .next t ∧
        s.Dropped t stMalformed Reg.HEAT_CHANGE_AT_HI (setBit v 31) o)) ∧
  (∀ (s : State) (v : Word) (o : Origin), s.Accepts Reg.HEAT_CHANGE_AT_HI (clearBit v 31) o →
    ∃ t, Machine.exec (.heatChangeWithdraw v o) s = .next t ∧ t.mod.heat = { s.mod.heat with change := none } ∧
      s.Stored t Reg.HEAT_CHANGE_AT_HI (clearBit v 31) ∧ s.Journalled t Reg.HEAT_CHANGE_AT_HI (clearBit v 31) o ∧
      s.RegsBut [Reg.HEAT_CHANGE_AT_HI] t ∧
      t = { s with mod := { s.mod with
        regs := t.mod.regs, jnlPend := t.mod.jnlPend, out := t.mod.out, heat := t.mod.heat } }) ∧
  (∀ (s : State) (v : Word) (o : Origin), s.Accepts Reg.HEAT_TIME_SET_HI v o →
    (s.mod.flag Fld.HEAT_IS_MASTER = true → s.mod.flag Fld.HEAT_RUN = false → s.mod.flag Fld.HEAT_RUNNING = false →
      ∃ t, Machine.exec (.heatTimeSet v o) s = .next t ∧
        t.mod.heat = { s.mod.heat with time := BitVec.ofNat 64 (s.mod.rdN Reg.HEAT_TIME_SET_LO + 2 ^ 32 * v.toNat) } ∧
        s.Journalled t Reg.HEAT_TIME_SET_HI v o ∧ s.RegsBut [] t ∧
        t = { s with mod := { s.mod with jnlPend := t.mod.jnlPend, out := t.mod.out, heat := t.mod.heat } }) ∧
    (¬ (s.mod.flag Fld.HEAT_IS_MASTER = true ∧ s.mod.flag Fld.HEAT_RUN = false ∧
        s.mod.flag Fld.HEAT_RUNNING = false) →
      ∃ t, Machine.exec (.heatTimeSet v o) s = .next t ∧ s.Dropped t stAccessDenied Reg.HEAT_TIME_SET_HI v o))

/-- HEAT_RUN written 1 starts the plane's heat on the time master after the set-up lock; written 0 it leaves
HEAT_RUNNING set. 01_heat.md R24, 01_heat.md R28, 01_heat.md R30, 01_heat.md R32, 21_bringup_and_setup.md R424. -/
def Obligations.HeatRunWrites : Prop :=
  (let first := fun (m : Mod) (w : Word) =>
      electMaster (((if bitOf w.toNat 1 then [(m.self, bitOf w.toNat 2 &&
        (m.flag Fld.HEAT_10M_LOCK || m.flag Fld.HEAT_PPS_LOCK))] else []) ++ m.heat.known).filter
          (fun x => x.1 / 4096 == (if m.fget (Fld.FAB_P_STATE 12) = portUp then 0 else m.self / 4096)))
    let settled := fun (s t : State) (w : Word) =>
      t.mod.flag Fld.HEAT_IS_MASTER = (first s.mod w == some s.mod.self) ∧
      t.mod.flag Fld.HEAT_SYNCED = (s.mod.flag Fld.HEAT_SYNCED || first s.mod w == some s.mod.self) ∧
      (∀ f ∈ [Fld.HEAT_RUNNING, Fld.HEAT_HELD, Fld.HEAT_10M_LOCK, Fld.HEAT_PPS_LOCK], t.mod.flag f = s.mod.flag f) ∧
      s.RegsBut [Reg.HEAT_CTRL, Reg.HEAT_STATUS] t
  (∀ (s : State) (v : Word) (o : Origin), s.Accepts Reg.HEAT_CTRL (setBit v 0) o → s.mod.locked = false →
    ∃ t, Machine.exec (.heatRunSet v o) s = .next t ∧ s.Dropped t stAccessDenied Reg.HEAT_CTRL (setBit v 0) o) ∧
  (∀ (s : State) (v : Word) (o : Origin), s.Accepts Reg.HEAT_CTRL (setBit v 0) o → s.mod.locked = true →
    ∃ t, Machine.exec (.heatRunSet v o) s = .next t ∧
      t.mod.flag Fld.HEAT_RUN = true ∧ s.Stored t Reg.HEAT_CTRL (setBit v 0) ∧
      s.Journalled t Reg.HEAT_CTRL (setBit v 0) o ∧ settled s t (setBit v 0) ∧
      t.mod.heat = { s.mod.heat with
        master := first s.mod (setBit v 0)
        base := if s.mod.flag Fld.HEAT_RUN = false ∧ s.mod.flag Fld.HEAT_RUNNING = false ∧
            first s.mod (setBit v 0) = some s.mod.self then
          ⟨(s.mod.now + 10999999) / 1000000 * 1000000, 0, wordBits (s.mod.rd Reg.HEAT_CFG) 22 8⟩ else s.mod.heat.base
        joinIn := if s.mod.flag Fld.HEAT_RUN = false ∧ s.mod.flag Fld.HEAT_RUNNING = false ∧
            first s.mod (setBit v 0) = some s.mod.self then some 0
          else if first s.mod (setBit v 0) ≠ some s.mod.self ∧ s.mod.heat.joinIn = some 0 then none
          else s.mod.heat.joinIn } ∧
      t = { s with mod := { s.mod with
        regs := t.mod.regs, jnlPend := t.mod.jnlPend, out := t.mod.out, heat := t.mod.heat } }) ∧
  (∀ (s : State) (v : Word) (o : Origin), s.Accepts Reg.HEAT_CTRL (clearBit v 0) o →
    ∃ t, Machine.exec (.heatRunClear v o) s = .next t ∧ t.mod.flag Fld.HEAT_RUN = false ∧
      s.Stored t Reg.HEAT_CTRL (clearBit v 0) ∧ s.Journalled t Reg.HEAT_CTRL (clearBit v 0) o ∧
      settled s t (clearBit v 0) ∧
      t.mod.heat = { s.mod.heat with master := first s.mod (clearBit v 0), joinIn := none } ∧
      t = { s with mod := { s.mod with
        regs := t.mod.regs, jnlPend := t.mod.jnlPend, out := t.mod.out, heat := t.mod.heat } }))

/-- What is told of eligible modules, a 1 PPS edge and the locks of the reference inputs change what R28 and R31 say
and nothing else. 01_heat.md R28, 01_heat.md R31, 24_electrical_and_mechanical.md R467, 21_bringup_and_setup.md R413.
The model's own choices in it: log entry 33. -/
def Obligations.TimeKeeping : Prop :=
  (let elected := fun (m : Mod) (cs : List (Nat × Bool)) (k : Option Nat) =>
      let of := cs.filter (fun x => x.1 / 4096 == (if m.fget (Fld.FAB_P_STATE 12) = portUp then 0 else m.self / 4096))
      (k = none ↔ of = []) ∧
      ∀ n, k = some n → ∃ l, (n, l) ∈ of ∧ (l = true ∨ ∀ x ∈ of, x.2 = false) ∧
        ∀ x ∈ of, (x.2 = true ∨ ∀ y ∈ of, y.2 = false) → n ≤ x.1
    let own := fun (m : Mod) => if m.flag Fld.HEAT_MASTER_ELIG = true then [(m.self, m.flag Fld.HEAT_REF_EN &&
      (m.flag Fld.HEAT_10M_LOCK || m.flag Fld.HEAT_PPS_LOCK))] else []
    let settled := fun (s t : State) =>
      t.mod.flag Fld.HEAT_IS_MASTER = (t.mod.heat.master == some s.mod.self) ∧
      t.mod.flag Fld.HEAT_SYNCED = (s.mod.flag Fld.HEAT_SYNCED || t.mod.flag Fld.HEAT_IS_MASTER) ∧
      t.mod.flag Fld.HEAT_RUNNING = s.mod.flag Fld.HEAT_RUNNING ∧
      t.mod.heat.joinIn =
        (if t.mod.flag Fld.HEAT_IS_MASTER = false ∧ s.mod.heat.joinIn = some 0 then none else s.mod.heat.joinIn) ∧
      s.RegsBut [Reg.HEAT_STATUS] t
  (∀ (s : State) (known : List (Nat × Bool)), s.mod.ready = true →
    ∃ t, Machine.exec (.masterTakeover known) s = .next t ∧
      t.mod.heat = { s.mod.heat with master := t.mod.heat.master, joinIn := t.mod.heat.joinIn
                                     known := known.filter (fun x => x.1 != s.mod.self) } ∧
      elected s.mod (own s.mod ++ t.mod.heat.known) t.mod.heat.master ∧ settled s t ∧
      t = { s with mod := { s.mod with regs := t.mod.regs, heat := t.mod.heat } }) ∧
  (∀ s : State, s.mod.ready = true →
    ∃ t, Machine.exec .ppsEdge s = .next t ∧
      (if s.mod.flag Fld.HEAT_IS_MASTER = true ∧ s.mod.flag Fld.HEAT_REF_EN = true ∧
          s.mod.flag Fld.HEAT_PPS_LOCK = true then
        t = { s with mod := { s.mod with heat := { s.mod.heat with pull := t.mod.heat.pull } } } ∧
        ((s.mod.now : Int) + t.mod.heat.pull) % 1000000000 = 0 ∧
        -500000000 ≤ t.mod.heat.pull ∧ t.mod.heat.pull ≤ 500000000
      else t = s)) ∧
  (∀ (s : State) (tenM pps : Bool), s.mod.ready = true →
    ∃ t, Machine.exec (.refLock tenM pps) s = .next t ∧
      t.mod.flag Fld.HEAT_10M_LOCK = tenM ∧ t.mod.flag Fld.HEAT_PPS_LOCK = pps ∧
      (if s.mod.flag Fld.HEAT_10M_LOCK = tenM ∧ s.mod.flag Fld.HEAT_PPS_LOCK = pps then t = s
      else t.mod.events = s.mod.events ++ [⟨s.mod.now, s.mod.heatNo, 0x026, s.mod.chip 0, 15, 0,
          padBytes 14 [BitVec.ofNat 8 ((if tenM then 2 else 0) + (if pps then 1 else 0))]⟩] ∧
        t.mod.heat = { s.mod.heat with master := t.mod.heat.master, joinIn := t.mod.heat.joinIn } ∧
        elected s.mod (own t.mod ++ s.mod.heat.known) t.mod.heat.master ∧ settled s t) ∧
      t = { s with mod := { s.mod with regs := t.mod.regs, events := t.mod.events, heat := t.mod.heat } }) ∧
  (∀ (s : State) (known : List (Nat × Bool)) (a b : Bool), s.mod.ready = false →
    Machine.exec (.masterTakeover known) s = .next s ∧ Machine.exec .ppsEdge s = .next s ∧
    Machine.exec (.refLock a b) s = .next s))

/-- A time message steps a module's time only before it first takes part, and otherwise only sets the correction still
to be made. 01_heat.md R26, 01_heat.md R27, 01_heat.md R28, 01_heat.md R29, 01_heat.md R30, 13_fabric.md R260. The
model's own choices in it: log entries 9 and 146. -/
def Obligations.TimeMessageSynchronises : Prop :=
  (let told := fun (m : Mod) (x : TimeMsg) => x.known.filter (fun y => y.1 != m.self)
    let first := fun (m : Mod) (x : TimeMsg) =>
      electMaster (((if m.flag Fld.HEAT_MASTER_ELIG then [(m.self, m.flag Fld.HEAT_REF_EN &&
        (m.flag Fld.HEAT_10M_LOCK || m.flag Fld.HEAT_PPS_LOCK))] else []) ++ told m x).filter
          (fun y => y.1 / 4096 == (if m.fget (Fld.FAB_P_STATE 12) = portUp then 0 else m.self / 4096)))
    let mine := fun (m : Mod) (x : TimeMsg) => first m x = some m.self ∨ ∃ k, first m x = some k ∧
      m.flag (Fld.FAB_RT_VALID k) = true ∧ m.fget (Fld.FAB_RT_PRIMARY k) ≠ x.port
    let wait := fun (m : Mod) (x : TimeMsg) =>
      if first m x ≠ some m.self ∧ m.heat.joinIn = some 0 then none else m.heat.joinIn
    let off := fun (m : Mod) (x : TimeMsg) => (x.time : Int) + m.rdN (Reg.FAB_P_DELAY x.port) - m.now
    let near := fun (m : Mod) (x : TimeMsg) => decide ((off m x).natAbs ≤ 20)
    let opens := fun (m : Mod) (x : TimeMsg) => !m.flag Fld.HEAT_RUNNING && m.flag Fld.HEAT_RUN &&
      !m.flag Fld.HEAT_HELD && (!near m x || wait m x == none)
    let steps := fun (m : Mod) (x : TimeMsg) => opens m x && !m.heat.everRan
    let joins := fun (m : Mod) (x : TimeMsg) => opens m x && (!m.heat.everRan || near m x)
    let base := fun (x : TimeMsg) => (⟨x.baseB, x.baseN, wordBits x.cfg 22 8⟩ : HeatBase)
  (∀ (s : State) (x : TimeMsg), s.mod.ready = true → mine s.mod x →
    ∃ t, Machine.exec (.timeMessage x) s = .next t ∧
      t.mod.flag Fld.HEAT_IS_MASTER = (first s.mod x == some s.mod.self) ∧
      t.mod.flag Fld.HEAT_SYNCED = (s.mod.flag Fld.HEAT_SYNCED || first s.mod x == some s.mod.self) ∧
      t = { s with mod := { s.mod with regs := t.mod.regs, heat := { s.mod.heat with
        known := told s.mod x, master := first s.mod x, joinIn := wait s.mod x } } } ∧
      s.RegsBut [Reg.HEAT_STATUS] t ∧
      ∀ f ∈ [Fld.HEAT_RUNNING, Fld.HEAT_HELD, Fld.HEAT_10M_LOCK, Fld.HEAT_PPS_LOCK], t.mod.flag f = s.mod.flag f) ∧
  (∀ (s : State) (x : TimeMsg), s.mod.ready = true → ¬ mine s.mod x →
    ∃ t, Machine.exec (.timeMessage x) s = .next t ∧
      t.mod.flag Fld.HEAT_IS_MASTER = false ∧ t.mod.flag Fld.HEAT_SYNCED = (near s.mod x || steps s.mod x) ∧
      (∀ f ∈ [Fld.HEAT_RUNNING, Fld.HEAT_HELD, Fld.HEAT_10M_LOCK, Fld.HEAT_PPS_LOCK], t.mod.flag f = s.mod.flag f) ∧
      t.mod.rdN Reg.HEAT_OFFSET = twos 32 (- off s.mod x) ∧
      t.mod.rd Reg.HEAT_CFG = (if joins s.mod x then x.cfg else s.mod.rd Reg.HEAT_CFG) ∧
      s.RegsBut [Reg.HEAT_STATUS, Reg.HEAT_OFFSET, Reg.HEAT_CFG] t ∧
      t = { s with mod := { s.mod with regs := t.mod.regs, heat := { s.mod.heat with
        known := told s.mod x, master := first s.mod x
        masterCfg := some x.cfg, masterHeat := x.heat, masterBase := base x
        masterChange := x.change.map (fun c => ⟨c.1, c.2⟩)
        time := if steps s.mod x then BitVec.ofNat 64 ((s.mod.now : Int) + off s.mod x).toNat else s.mod.heat.time
        pull := if steps s.mod x then 0 else off s.mod x
        count := if joins s.mod x then BitVec.ofNat 48 x.heat else s.mod.heat.count
        base := if joins s.mod x then base x else s.mod.heat.base
        joinIn := if joins s.mod x then some 2 else if near s.mod x then wait s.mod x else none
        offsetFault := if s.mod.flag Fld.HEAT_RUNNING = true ∧ 1000 < (off s.mod x).natAbs ∧
          s.mod.heat.offsetFault = none then some (- off s.mod x) else s.mod.heat.offsetFault } } }) ∧
  (∀ (s : State) (x : TimeMsg), s.mod.ready = false → Machine.exec (.timeMessage x) s = .next s))

/-- A tick of a participating module opens the next heat at its tick time and takes the held writes; a leaving module
stops; another waits or joins. 01_heat.md R14, 01_heat.md R16, 01_heat.md R23, 01_heat.md R24, 01_heat.md R26,
01_heat.md R29, 01_heat.md R30, 01_heat.md R32. The model's own choices in it: log entry 8. -/
def Obligations.HeatTickAdvancesTheHeat : Prop :=
  (let times := fun (m : Mod) => ((List.range 13).filter (fun p => m.fget (Fld.FAB_P_STATE p) == portUp)).map (fun p =>
      Out.timeMessage p m.now m.heatNo m.heat.base.b m.heat.base.n (m.rd Reg.HEAT_CFG)
        (m.toldChange.map (fun c => (c.at_, c.cfg))) m.candidates)
  (∀ (s : State) (x : TickReport), s.mod.ready = true → s.mod.flag Fld.HEAT_RUNNING = true →
    s.mod.flag Fld.HEAT_RUN = true → s.mod.heat.offsetFault = none →
    ∃ t, Machine.exec (.heatTick x) s = .next t ∧
      t.mod.heatNo = (s.mod.heatNo + 1) % 2 ^ 48 ∧
      t.mod.heat.tickTime = s.mod.heat.base.b +
        ((s.mod.heatNo + 1) % 2 ^ 48 + 2 ^ 48 - s.mod.heat.base.n) % 2 ^ 48 * s.mod.heat.base.p * 1000 ∧
      (s.mod.heat.pageRead = false → t.mod.heat.time = BitVec.ofNat 64 (max s.mod.now t.mod.heat.tickTime)) ∧
      t.mod.heldWrites = [] ∧ t.mod.nv = s.mod.nv ∧ t.mod.boot = s.mod.boot ∧
      t.mod.banks = s.mod.banks ∧ t.mod.badLines = s.mod.badLines ∧ t.mod.latch = s.mod.latch ∧
      t.mod.dieLost = s.mod.dieLost ∧ s.SameBytes t ∧ t.pending = s.pending) ∧
  (∀ (s : State) (x : TickReport), s.mod.ready = true → s.mod.flag Fld.HEAT_RUNNING = true →
    s.mod.flag Fld.HEAT_RUN = false → s.mod.heat.offsetFault = none →
    ∃ t, Machine.exec (.heatTick x) s = .next t ∧
      t.mod.flag Fld.HEAT_RUNNING = false ∧ t.mod.heat.joinIn = none ∧ t.mod.heldWrites = s.mod.heldWrites ∧
      t.mod.banks = s.mod.banks ∧ s.SameBytes t ∧ t.pending = s.pending) ∧
  (∀ (s : State) (x : TickReport) (k : Nat), s.mod.ready = true → s.mod.flag Fld.HEAT_RUNNING = false →
    s.mod.heat.joinIn = some (k + 2) →
    ∃ t, Machine.exec (.heatTick x) s = .next t ∧
      t.mod.heat.joinIn = some (k + 1) ∧ t.mod.heatNo = (s.mod.heatNo + 1) % 2 ^ 48 ∧
      t.mod.heat.everRan = s.mod.heat.everRan ∧ s.RegsBut [Reg.HEAT_CFG, Reg.HEAT_CHANGE_AT_HI] t ∧
      t.mod.out = s.mod.out ++ times t.mod ∧
      t = { s with mod := { s.mod with
        heat := t.mod.heat, regs := t.mod.regs, events := t.mod.events, jnlPend := t.mod.jnlPend, out := t.mod.out } }) ∧
  (∀ (s : State) (x : TickReport) (k : Nat), s.mod.ready = true → s.mod.flag Fld.HEAT_RUNNING = false →
    s.mod.heat.joinIn = some k → k < 2 →
    ∃ t, Machine.exec (.heatTick x) s = .next t ∧
      t.mod.flag Fld.HEAT_RUNNING = true ∧ t.mod.heat.joinIn = none ∧ t.mod.heat.everRan = true ∧
      t.mod.heatNo = (if k = 0 then s.mod.heat.base.n else s.mod.heatNo + 1) % 2 ^ 48 ∧ t.mod.heldWrites = [] ∧
      t.mod.banks = s.mod.banks ∧ s.SameBytes t ∧ t.pending = s.pending) ∧
  (∀ (s : State) (x : TickReport), s.mod.ready = true → s.mod.flag Fld.HEAT_RUNNING = false →
    s.mod.heat.joinIn = none →
    Machine.exec (.heatTick x) s = .next { s with mod := { s.mod with out := s.mod.out ++ times s.mod } }) ∧
  (∀ (s : State) (x : TickReport), s.mod.ready = false → Machine.exec (.heatTick x) s = .next s))

/-- A doorbell page in time is counted and its counts are taken; a late or stale page is counted and treated as
unchanged; step 6 follows. 01_heat.md R14, 01_heat.md R15, 15_host_interface.md R302, 15_host_interface.md R304,
16_descriptors_and_records.md R331, 16_descriptors_and_records.md R333. The model's own choices in it: log entry 8. -/
def Obligations.DoorbellPageAndLateRead : Prop :=
  let saturated := fun (n : Nat) => min (n + 1) 0xFFFFFFFF
  let diff := fun (a b : Nat) => (a + 2 ^ 32 - b) % 2 ^ 32
  -- step 5 with the counts in force, up to the choice of step 6
  let step5 := fun (s : State) (u : Mod) =>
    u.heat = { s.mod.heat with pageRead := false } ∧
    (∀ q, q < 64 → s.mod.flag (Fld.HIF_CQ_EN q) = true → u.rdN (Reg.HIF_CQ_SEEN q) =
      if 2 ^ 31 ≤ diff (s.mod.rdN (Reg.HIF_CQ_POSTED q)) (u.lastCount (64 + q)) then s.mod.rdN (Reg.HIF_CQ_POSTED q)
      else u.lastCount (64 + q) % 2 ^ 32) ∧
    (∀ e, e < 8 → s.mod.flag (Fld.HIF_ER_EN e) = true → u.rdN (Reg.HIF_ER_SEEN e) =
      if 2 ^ 31 ≤ diff (s.mod.rdN (Reg.HIF_ER_POSTED e)) (u.lastCount (128 + e)) then s.mod.rdN (Reg.HIF_ER_POSTED e)
      else u.lastCount (128 + e) % 2 ^ 32) ∧
    (∀ a, a ∉ [Reg.HIF_DB_READS, Reg.HIF_DB_STALE, Reg.HEAT_DB_LATE] → a < 0x21000 ∨ 0x22100 ≤ a →
      u.rd a = s.mod.rd a) ∧
    (∃ l, u.hub.rings = s.mod.hub.rings ++ l ∧ ∀ w ∈ l, w.started = false ∧ w.body = none) ∧
    (∃ l, u.events = s.mod.events ++ l ∧ ∀ e ∈ l, e.code = 0x043) ∧
    (∃ l, u.out = s.mod.out ++ l ∧ ∀ x ∈ l, ∃ a, x = .hostRead a 64) ∧
    u = { s.mod with
      regs := u.regs, events := u.events, out := u.out, heat := u.heat
      hub := { s.mod.hub with rings := u.hub.rings, overrun := u.hub.overrun, counts := u.hub.counts } }
  let inTime := fun (s : State) => s.mod.heat.pageRead = true ∧ s.mod.flag Fld.HIF_LINK_UP = true ∧
    s.mod.detached = false ∧ s.mod.now ≤ s.mod.heat.tickTime + 2000
  let isLate := fun (s : State) (u : Mod) =>
    step5 s u ∧ u.hub.counts = s.mod.hub.counts ∧ u.rdN Reg.HEAT_DB_LATE = saturated (s.mod.rdN Reg.HEAT_DB_LATE) ∧
    u.rd Reg.HIF_DB_READS = s.mod.rd Reg.HIF_DB_READS ∧ u.rd Reg.HIF_DB_STALE = s.mod.rd Reg.HIF_DB_STALE
  (∀ (s : State) (page : List Byte), inTime s → leNat (page.take 4) = s.mod.rdN Reg.HIF_SESSION →
    ∃ u, Machine.exec (.doorbellPageReturn page) s = .next { s with mod := u.chooseAll s.mem } ∧ step5 s u ∧
      (∀ k, k < 64 → u.lastCount k = leNat ((page.drop (64 + 8 * k)).take 4) ∧
        u.lastCount (64 + k) = leNat ((page.drop (576 + 8 * k)).take 4)) ∧
      (∀ e, e < 8 → u.lastCount (128 + e) = leNat ((page.drop (1088 + 8 * e)).take 4)) ∧
      u.rdN Reg.HIF_DB_READS = saturated (s.mod.rdN Reg.HIF_DB_READS) ∧
      u.rd Reg.HIF_DB_STALE = s.mod.rd Reg.HIF_DB_STALE ∧ u.rd Reg.HEAT_DB_LATE = s.mod.rd Reg.HEAT_DB_LATE) ∧
  (∀ (s : State) (page : List Byte), inTime s → leNat (page.take 4) ≠ s.mod.rdN Reg.HIF_SESSION →
    ∃ u, Machine.exec (.doorbellPageReturn page) s = .next { s with mod := u.chooseAll s.mem } ∧ step5 s u ∧
      u.hub.counts = s.mod.hub.counts ∧ u.rdN Reg.HIF_DB_READS = saturated (s.mod.rdN Reg.HIF_DB_READS) ∧
      u.rdN Reg.HIF_DB_STALE = saturated (s.mod.rdN Reg.HIF_DB_STALE) ∧
      u.rd Reg.HEAT_DB_LATE = s.mod.rd Reg.HEAT_DB_LATE) ∧
  (∀ (s : State) (page : List Byte), s.mod.heat.pageRead = true → s.mod.flag Fld.HIF_LINK_UP = true →
    s.mod.detached = false → s.mod.heat.tickTime + 2000 < s.mod.now →
    ∃ u, Machine.exec (.doorbellPageReturn page) s = .next { s with mod := u.chooseAll s.mem } ∧ isLate s u) ∧
  (∀ s : State, s.mod.heat.pageRead = true →
    s.mod.heat.tickTime + 2000 ≤ s.mod.now ∨ s.mod.flag Fld.HIF_LINK_UP = false ∨ s.mod.detached = true →
    ∃ u, Machine.exec .heatDbLate s = .next { s with mod := u.chooseAll s.mem } ∧ isLate s u) ∧
  (∀ (s : State) (page : List Byte),
    s.mod.heat.pageRead = false ∨ s.mod.flag Fld.HIF_LINK_UP = false ∨ s.mod.detached = true →
    Machine.exec (.doorbellPageReturn page) s = .next s) ∧
  (∀ s : State, s.mod.heat.pageRead = false ∨
    (s.mod.now < s.mod.heat.tickTime + 2000 ∧ s.mod.flag Fld.HIF_LINK_UP = true ∧ s.mod.detached = false) →
    Machine.exec .heatDbLate s = .next s)

/-- The heat watchdog posts HEAT_WATCHDOG, ends every piece of work of the cluster and holds its running cores, and
touches no other cluster. 01_heat.md R22, 01_heat.md R35, 02_cores_and_patterns.md R65, 19_power_and_thermal.md R370,
20_casts_failures_and_recovery.md R401. -/
def Obligations.HeatWatchdogHoldsTheCluster : Prop :=
  (∀ (s : State) (g : Nat), g < 48 → s.mod.ready = true → (s.mod.clusterSt g).wdogDue = true →
    s.mod.now = s.mod.heat.tickTime → s.mod.dieHalted (g / 12) = false →
      ∃ t, Machine.exec (.heatWatchdog g) s = .next t ∧
        t.mod.events = s.mod.events ++ [⟨s.mod.now, s.mod.heatNo, 0x023, s.mod.chip (g / 12), g % 12, 0,
          padBytes 14 (leBytes 1 (s.mod.fget (Fld.HEAT_CM_CONSEC g)) ++ leBytes 2
            (match (s.mod.coreSt (s.mod.stuckCore g)).choice with
              | some c => c.entry
              | none => s.mod.rdN (Reg.CORE_ENTRY (s.mod.stuckCore g))))⟩] ∧
        t.mod.clusterSt g = { s.mod.clusterSt g with held := true, wdogDue := false } ∧
        (∀ k, k ≠ g → t.mod.clusterSt k = s.mod.clusterSt k) ∧
        t.mod.works = s.mod.works.filter (fun w => match w.who with | .core n => n / 8 != g | .ring _ _ => true) ∧
        t.mod.msgs = s.mod.msgs.filter (fun x => x.core / 8 != g) ∧
        (∀ n, n < 384 → n / 8 = g →
          t.mod.coreSt n = { s.mod.coreSt n with
            issued := none, choice := (s.mod.coreSt n).choice.map (fun c => { c with stopped := true }) } ∧
          t.mod.coreState n = (if s.mod.coreState n = 1 then 2 else s.mod.coreState n)) ∧
        (∀ n, n / 8 ≠ g → t.mod.coreSt n = s.mod.coreSt n ∧ t.mod.coreState n = s.mod.coreState n) ∧
        (∀ a, a ≠ Reg.PICK_STATUS g 0 → a ≠ Reg.PICK_STATUS g 1 →
          (∀ n, n < 384 → n / 8 = g → a ≠ Reg.CORE_STATUS n ∧ a ≠ Reg.CORE_LD_FAIL n) → t.mod.rd a = s.mod.rd a) ∧
        t = { s with mod := { s.mod with regs := t.mod.regs, events := t.mod.events, clusters := t.mod.clusters
                                         cores := t.mod.cores, msgs := t.mod.msgs, works := t.mod.works
                                         arrays := t.mod.arrays, tables := { s.mod.tables with
                                           lookups := t.mod.tables.lookups, contribs := t.mod.tables.contribs
                                           applies := t.mod.tables.applies, orphans := t.mod.tables.orphans } } }) ∧
  (∀ (s : State) (g : Nat), g < 48 →
    (s.mod.clusterSt g).wdogDue = false ∨ s.mod.now ≠ s.mod.heat.tickTime ∨ s.mod.dieHalted (g / 12) = true →
    Machine.exec (.heatWatchdog g) s = .next s)

/-- CORE_CTRL arms and withdraws a switch and a stop and starts a validation; CORE_STEP and CORE_MB take a value only
while not RUNNING. 02_cores_and_patterns.md R61, 02_cores_and_patterns.md R62, 02_cores_and_patterns.md R63,
02_cores_and_patterns.md R65, 02_cores_and_patterns.md R476, 20_casts_failures_and_recovery.md R397. The model's own
choices in it: log entry 147. -/
def Obligations.CoreControlWrites : Prop :=
  (∀ (s : State) (n : Nat) (v : Word) (o : Origin), n < 384 →
    ∀ p ∈ [(Instr.coreValidate n v o, setBit v 0), (.coreSwitchArm n v o, setBit v 1),
        (.coreSwitchWithdraw n v o, clearBit v 1), (.coreStop n v o, setBit v 2), (.coreStopWithdraw n v o, clearBit v 2)],
      s.Accepts (Reg.CORE_CTRL n) p.2 o →
      (bitOf p.2.toNat 1 = true → s.mod.heatNo + 2 ≤
          s.mod.rdN (Reg.CORE_SWITCH_AT_LO n) + 2 ^ 32 * s.mod.rdN (Reg.CORE_SWITCH_AT_HI n)) →
      ∃ t, Machine.exec p.1 s = .next t ∧ s.Journalled t (Reg.CORE_CTRL n) p.2 o ∧
        t.mod.flag (Fld.CORE_STOP n) = bitOf p.2.toNat 2 ∧ t.mod.flag (Fld.CORE_SWITCH_ARM n) = bitOf p.2.toNat 1 ∧
        t.mod.flag (Fld.CORE_VALIDATING n) = (bitOf p.2.toNat 0 || s.mod.flag (Fld.CORE_VALIDATING n)) ∧
        t.mod.coreSt n = { s.mod.coreSt n with switchAt := (t.mod.coreSt n).switchAt } ∧
        (t.mod.coreSt n).switchAt = (if bitOf p.2.toNat 1 = true then
            s.mod.rdN (Reg.CORE_SWITCH_AT_LO n) + 2 ^ 32 * s.mod.rdN (Reg.CORE_SWITCH_AT_HI n)
          else (s.mod.coreSt n).switchAt) ∧
        (∀ k, k ≠ n → t.mod.coreSt k = s.mod.coreSt k) ∧
        (∀ i, i < 32 → i ≠ 10 → (t.mod.rd (Reg.CORE_STATUS n)).getLsbD i = (s.mod.rd (Reg.CORE_STATUS n)).getLsbD i) ∧
        (∀ i, 3 ≤ i → (t.mod.rd (Reg.CORE_CTRL n)).getLsbD i = (s.mod.rd (Reg.CORE_CTRL n)).getLsbD i) ∧
        s.RegsBut [Reg.CORE_CTRL n, Reg.CORE_STATUS n] t ∧
        t = { s with mod := { s.mod with
          regs := t.mod.regs, jnlPend := t.mod.jnlPend, out := t.mod.out, cores := t.mod.cores } }) ∧
  (∀ (s : State) (n : Nat) (v : Word) (o : Origin), n < 384 → s.Accepts (Reg.CORE_CTRL n) (setBit v 1) o →
    s.mod.rdN (Reg.CORE_SWITCH_AT_LO n) + 2 ^ 32 * s.mod.rdN (Reg.CORE_SWITCH_AT_HI n) < s.mod.heatNo + 2 →
    ∃ t, Machine.exec (.coreSwitchArm n v o) s = .next t ∧
      s.Dropped t stMalformed (Reg.CORE_CTRL n) (setBit v 1) o) ∧
  (∀ (s : State) (n : Nat) (mb : Bool) (v : Word) (o : Origin), n < 384 →
    s.Accepts (if mb then Reg.CORE_MB n else Reg.CORE_STEP n) v o →
    (s.mod.coreState n ≠ 1 → s.mod.flag Fld.CAST_RS_LOCKED = false →
      ∃ t, Machine.exec (.coreStepWrite n mb v o) s = .next t ∧
        s.Stored t (if mb then Reg.CORE_MB n else Reg.CORE_STEP n) v ∧
        s.Journalled t (if mb then Reg.CORE_MB n else Reg.CORE_STEP n) v o ∧
        s.RegsBut [if mb then Reg.CORE_MB n else Reg.CORE_STEP n] t ∧
        t = { s with mod := { s.mod with regs := t.mod.regs, jnlPend := t.mod.jnlPend, out := t.mod.out } }) ∧
    (s.mod.coreState n = 1 ∨ s.mod.flag Fld.CAST_RS_LOCKED = true →
      ∃ t, Machine.exec (.coreStepWrite n mb v o) s = .next t ∧
        s.Dropped t stAccessDenied (if mb then Reg.CORE_MB n else Reg.CORE_STEP n) v o))

/-- A block's next word is issued in the pour, in order and once; an unknown unit stops the pattern; a validation ends
with its result. 01_heat.md R13, 02_cores_and_patterns.md R47, 02_cores_and_patterns.md R48, 02_cores_and_patterns.md
R49, 02_cores_and_patterns.md R61, 03_matrix_array.md R72, 03_matrix_array.md R82, 08_parameter_state.md R157,
09_embedding_tables.md R187, 12_address_space.md R250. The model's own choices in it: log entries 48, 50 and 147. -/
def Obligations.CoreIssueAndValidation : Prop :=
  let word := fun (s : State) (n : Nat) (c : Choice) => memNat s.mem (localCell n (64 * c.workPtr + 8 * c.next)) 8
  let pour := fun (s : State) => s.mod.flag Fld.HEAT_RUNNING = true ∧ s.mod.heat.pageRead = false ∧
    s.mod.heat.tickTime + 2500 ≤ s.mod.now ∧
    s.mod.now < s.mod.heat.tickTime + s.mod.heat.base.p * 1000 - s.mod.heat.base.p * wordBits (s.mod.rd Reg.HEAT_CFG) 7 0
  let turn := fun (s : State) (n : Nat) (c : Choice) => (s.mod.coreSt n).choice = some c ∧ c.stopped = false ∧
    c.next < c.workLen ∧ (s.mod.coreSt n).issued = none ∧ s.mod.dieHalted (n / 96) = false
  (∀ (s : State) (n : Nat) (c : Choice), pour s → turn s n c → 1 ≤ bitsOf (word s n c) 63 56 →
    bitsOf (word s n c) 63 56 ≤ 7 → s.mod.wordWaits s.mem n (word s n c) = false →
    ∃ t x, Machine.exec (.workWordIssue n) s = .next t ∧
      x.word = word s n c ∧ x.pos = c.next ∧ x.heat = s.mod.heatNo ∧ x.time = s.mod.now ∧
      x.dir = (s.mod.wordTables x.word x.block).map (fun i => (i, s.mod.dirEntry i)) ∧
      (bitsOf (word s n c) 63 56 = 7 → x.rule = s.mod.ruleOf (abRule x.block)) ∧
      x.block = memNat s.mem (localCell n (64 * bitsOf (word s n c) 55 42)) 64 ∧
      (bitsOf (word s n c) 63 56 = 1 → (x.a, x.b) = Mod.passOperands s.mem n x.block) ∧
      t.mod.coreSt n = { s.mod.coreSt n with issued := some x, choice := some { c with next := c.next + 1 } } ∧
      (∀ k, k ≠ n → t.mod.coreSt k = s.mod.coreSt k) ∧
      t.mod.fget (Fld.ARR_RAMP_STATE (n / 8)) =
        (if bitsOf (word s n c) 63 56 = 1 ∧ s.mod.arrayOff (n / 8) = false ∧
            s.mod.passError n (word s n c) x.block = 0 ∧ (s.mod.fget (Fld.ARR_RAMP_STATE (n / 8)) = 0 ∨
              s.mod.fget (Fld.ARR_RAMP_STATE (n / 8)) = 3) then 1
        else s.mod.fget (Fld.ARR_RAMP_STATE (n / 8))) ∧
      s.RegsBut [Reg.ARR_STATUS (n / 8)] t ∧
      t = { s with mod := { s.mod with cores := t.mod.cores, regs := t.mod.regs } }) ∧
  (∀ (s : State) (n : Nat) (c : Choice), pour s → turn s n c →
    bitsOf (word s n c) 63 56 = 0 ∨ 7 < bitsOf (word s n c) 63 56 →
    ∃ t, Machine.exec (.workWordIssue n) s = .next t ∧
      t.mod.coreSt n =
        { s.mod.coreSt n with stopMalformed := true, issued := none, choice := some { c with stopped := true } } ∧
      (∀ k, k ≠ n → t.mod.coreSt k = s.mod.coreSt k) ∧
      t = { s with mod := { s.mod with cores := t.mod.cores } }) ∧
  (∀ (s : State) (n : Nat) (c : Choice), turn s n c →
    ¬ pour s ∨ (1 ≤ bitsOf (word s n c) 63 56 ∧ bitsOf (word s n c) 63 56 ≤ 7 ∧
      s.mod.wordWaits s.mem n (word s n c) = true) →
    Machine.exec (.workWordIssue n) s = .next s) ∧
  (∀ (s : State) (n : Nat), n < 384 → s.mod.flag (Fld.CORE_VALIDATING n) = true →
    (s.mod.coreSt n).loading = none →
    ∃ t, Machine.exec (.coreValidateDone n) s = .next t ∧
      (let err := if s.mod.coreState n = 4 then 8
        else imageError s.mem n (1 - s.mod.activeBank n) (s.mod.arrWidth (n / 8))
      t.mod.flag (Fld.CORE_INACTIVE_OK n) = (err == 0) ∧
      t.mod.fget (Fld.CORE_LOAD_ERR n) = (if err = 0 then s.mod.fget (Fld.CORE_LOAD_ERR n) else err % 256) ∧
      t.mod.coreSt n = { s.mod.coreSt n with lastCheck := some err }) ∧
      t.mod.flag (Fld.CORE_VALIDATING n) = false ∧ t.mod.coreState n = s.mod.coreState n ∧
      (∀ k, k ≠ n → t.mod.coreSt k = s.mod.coreSt k) ∧ s.RegsBut [Reg.CORE_STATUS n] t ∧
      t = { s with mod := { s.mod with regs := t.mod.regs, cores := t.mod.cores } })

/-- Every message header the module builds passes its check, and every field is read back from it as it was put in.
02_cores_and_patterns.md R59, 02_cores_and_patterns.md R60. The model's own choices in it: log entry 148. -/
def Obligations.ChannelHeaderRoundTrip : Prop :=
  ∀ f : MsgFields, f.sendHeat < 2 ^ 48 → f.credits < 32 → f.length < 2 ^ 18 → f.step < 2 ^ 32 → f.mb < 2 ^ 16 →
    f.seq < 2 ^ 32 → f.srcChip < 2 ^ 15 → f.srcCluster < 16 → f.srcCore < 8 → f.srcChan < 16 →
    f.dstChip < 2 ^ 15 → f.dstCluster < 16 → f.dstCore < 8 → f.dstChan < 16 → 1 ≤ f.kind → f.kind ≤ 4 →
    headerOk (headerBytes f) = true ∧
      mhKind (leNat (headerBytes f)) = f.kind ∧ mhSendHeat (leNat (headerBytes f)) = f.sendHeat ∧
      mhCredits (leNat (headerBytes f)) = f.credits ∧ mhLength (leNat (headerBytes f)) = f.length ∧
      mhStep (leNat (headerBytes f)) = f.step ∧ mhMb (leNat (headerBytes f)) = f.mb ∧
      mhSeq (leNat (headerBytes f)) = f.seq ∧ mhSrcChip (leNat (headerBytes f)) = f.srcChip ∧
      mhSrcCluster (leNat (headerBytes f)) = f.srcCluster ∧ mhSrcCore (leNat (headerBytes f)) = f.srcCore ∧
      mhSrcChan (leNat (headerBytes f)) = f.srcChan ∧ mhDstChan (leNat (headerBytes f)) = f.dstChan

/-- SEND puts one DATA message on its channel, freed slots return one credit each, and a lost message is posted and no
longer counts. 02_cores_and_patterns.md R41, 02_cores_and_patterns.md R53, 02_cores_and_patterns.md R56,
02_cores_and_patterns.md R58, 13_fabric.md R273, 01_heat.md R13. The model's own choices in it: log entries 50, 147
and 148. -/
def Obligations.ChannelSendAndFree : Prop :=
  let goneOf := fun (s : State) (d : Nat) => s.mod.destGone (chPeerChip d) (chPeerCluster d) (chPeerCore d)
  let from_ := fun (s : State) (n d ch kind : Nat) => ({ sendHeat := 0, length := 0, srcChip := s.mod.chip (n / 96), srcCluster := n / 8 % 12
                                                         srcCore := n % 8, srcChan := ch, dstChip := chPeerChip d
                                                         dstCluster := chPeerCluster d, dstCore := chPeerCore d
                                                         dstChan := chPeerChan d, kind := kind } : MsgFields)
  let lost := fun (s : State) (core chan chip cluster k : Nat) (how : MsgLoss) =>
    (⟨s.mod.now, s.mod.heatNo, 0x186, s.mod.chip (core / 96), core / 8 % 12, core % 8, padBytes 14 (leBytes 1 chan ++
      leBytes 1 (lossStatus how) ++ leBytes 2 chip ++ leBytes 1 cluster ++ leBytes 1 k)⟩ : EvRec)
  let sendOk := fun (s : State) (n w : Nat) (c : Choice) => bitOf c.outMask (bitsOf w 55 52) = true ∧
    bitOf c.sent (bitsOf w 55 52) = false ∧ bitsOf w 32 15 ≤ chSize (s.mod.outChan s.mem n (bitsOf w 55 52)) ∧
    bitsOf w 14 0 = 0
  let sending := fun (s : State) (n : Nat) (x : IssuedWord) (c : Choice) => (s.mod.coreSt n).choice = some c ∧
    (s.mod.coreSt n).issued = some x ∧ s.mod.dieHalted (n / 96) = false ∧ bitsOf x.word 63 56 = 4
  (∀ (s : State) (n : Nat) (x : IssuedWord) (c : Choice) (src : Span), sending s n x c →
    Mod.sendSource n x.word = some src → sendOk s n x.word c →
    ∃ t, Machine.exec (.send n) s = .next t ∧
      (let j := bitsOf x.word 55 52
      let d := s.mod.outChan s.mem n j
      t.mod.out = s.mod.out ++ [.message s.mod.nextId
        (headerBytes { from_ s n d j 1 with
          sendHeat := c.heat, length := bitsOf x.word 32 15, step := c.step, mb := c.mb, seq := s.mod.outSeqOf n j })
        (memRead s.mem (s.mod.relocate s.mem n src.addr) src.len)] ∧
      (goneOf s d = none → t.mod.events = s.mod.events ∧
        t.mod.msgs = s.mod.msgs ++ [⟨s.mod.nextId, n, j, s.mod.heatNo, chPeerChip d, chPeerCluster d, chPeerCore d,
          none, true⟩]) ∧
      (∀ how, goneOf s d = some how → (∀ y ∈ s.mod.msgs, y.id < s.mod.nextId) → s.mod.ready = true → t.mod.msgs = s.mod.msgs ∧
        t.mod.events = s.mod.events ++ [lost s n j (chPeerChip d) (chPeerCluster d) (chPeerCore d) how]) ∧
      t.mod.outSeqOf n j = (s.mod.outSeqOf n j + 1) % 2 ^ 32 ∧ (∀ i, i ≠ j → t.mod.outSeqOf n i = s.mod.outSeqOf n i) ∧
      (t.mod.coreSt n).choice = some { c with sent := c.sent ||| 2 ^ j }) ∧
      (t.mod.coreSt n).issued = none ∧ t.mod.nextId = s.mod.nextId + 1 ∧ s.Advanced n [] t ∧
      (∀ k, k ≠ n → t.mod.coreSt k = s.mod.coreSt k) ∧
      t = { s with mod := { s.mod with regs := t.mod.regs, out := t.mod.out, cores := t.mod.cores, msgs := t.mod.msgs
                                       nextId := t.mod.nextId, events := t.mod.events } }) ∧
  (∀ (s : State) (n : Nat) (x : IssuedWord) (c : Choice), sending s n x c →
    Mod.sendSource n x.word = none ∨ ¬ sendOk s n x.word c →
    ∃ t, Machine.exec (.send n) s = .next t ∧ t.mod.coreSt n =
        { s.mod.coreSt n with stopMalformed := true, issued := none, choice := some { c with stopped := true } } ∧
      (∀ k, k ≠ n → t.mod.coreSt k = s.mod.coreSt k) ∧
      t = { s with mod := { s.mod with cores := t.mod.cores } }) ∧
  (∀ (s : State) (n : Nat) (c : Choice), (s.mod.coreSt n).choice = some c → c.freed = false →
    s.mod.choiceDone n = true →
    ∃ t, Machine.exec (.slotFree n) s = .next t ∧ (t.mod.coreSt n).choice = some { c with freed := true } ∧
      t.mod.out = s.mod.out ++ c.taken.zipIdx.map (fun p => Out.message (s.mod.nextId + p.2)
        (headerBytes { from_ s n (s.mod.inChan s.mem n p.1.1) p.1.1 3 with
          sendHeat := c.heat, credits := 1, step := c.step, mb := c.mb }) []) ∧
      t.mod.nextId = s.mod.nextId + c.taken.length ∧
      ((∀ p ∈ c.taken, goneOf s (s.mod.inChan s.mem n p.1) = none) →
        t.mod.msgs.length = s.mod.msgs.length + c.taken.length ∧ t.mod.events = s.mod.events) ∧
      Machine.exec (.slotFree n) t = .next t ∧ (∀ k, k ≠ n → t.mod.coreSt k = s.mod.coreSt k) ∧
      t = { s with mod := { s.mod with out := t.mod.out, cores := t.mod.cores, msgs := t.mod.msgs
                                       nextId := t.mod.nextId, events := t.mod.events } }) ∧
  (∀ (s : State) (n : Nat), s.mod.choiceDone n = false ∨ (s.mod.coreSt n).choice = none ∨
      (∃ c, (s.mod.coreSt n).choice = some c ∧ c.freed = true) →
    Machine.exec (.slotFree n) s = .next s) ∧
  (∀ (s : State) (x : SentMsg) (how : MsgLoss), s.mod.msgs.find? (fun y => y.id == x.id) = some x →
    s.mod.ready = true → how = .discarded ∨ s.mod.destGone x.dstChip x.dstCluster x.dstCore = some how ∨
      (how = .unit ∧ x.dstChip / 4 ≠ s.mod.self) →
    ∃ t, Machine.exec (.channelLost x.id how) s = .next t ∧ t.mod.msgs = s.mod.msgs.filter (fun y => y.id != x.id) ∧
      t.mod.events = s.mod.events ++ [lost s x.core x.chan x.dstChip x.dstCluster x.dstCore how] ∧
      t = { s with mod := { s.mod with msgs := t.mod.msgs, events := t.mod.events } }) ∧
  (∀ (s : State) (x : SentMsg) (how : MsgLoss), s.mod.msgs.find? (fun y => y.id == x.id) = some x →
    how ≠ .discarded → s.mod.destGone x.dstChip x.dstCluster x.dstCore ≠ some how →
    ¬ (how = .unit ∧ x.dstChip / 4 ≠ s.mod.self) →
    Machine.exec (.channelLost x.id how) s = .next s)

/-- DATA lands in its slot or is discarded and counted; a grant, a return and a bind request set the channel as R55
and R56 say. 02_cores_and_patterns.md R55, 02_cores_and_patterns.md R56, 02_cores_and_patterns.md R57,
02_cores_and_patterns.md R60. The model's own choices in it: log entries 147 and 148. -/
def Obligations.ChannelMessagesReceived : Prop :=
  let chan := fun (hb : List Byte) => mhDstChan (leNat hb)
  let peer := fun (d : Nat) (hb : List Byte) => chValid d = true ∧ Mod.peerIs d (leNat hb) = true
  let lands := fun (s : State) (n : Nat) (hb : List Byte) => (s.mod.coreState n = 1 ∨ s.mod.coreState n = 2) ∧
    chValid (s.mod.inChan s.mem n (chan hb)) = true ∧ (s.mod.inSt n (chan hb)).bindHeat ≤ mhSendHeat (leNat hb)
  let grants := fun (s : State) (n : Nat) (hb : List Byte) => peer (s.mod.outChan s.mem n (chan hb)) hb ∧
    chSlots (s.mod.outChan s.mem n (chan hb)) = mhCredits (leNat hb) ∧
    chSize (s.mod.outChan s.mem n (chan hb)) = mhLength (leNat hb)
  let binds := fun (s : State) (n : Nat) (hb : List Byte) => peer (s.mod.inChan s.mem n (chan hb)) hb ∧
    chSize (s.mod.inChan s.mem n (chan hb)) = mhLength (leNat hb)
  let mismatched := fun (s : State) (n : Nat) (hb : List Byte) (what : Nat) => { s with mod := { s.mod with
    events := s.mod.events ++ [⟨s.mod.now, s.mod.heatNo, 0x185, s.mod.chip (n / 96), n / 8 % 12, n % 8, padBytes 14
      (leBytes 1 (chan hb) ++ leBytes 2 (mhSrcChip (leNat hb)) ++ leBytes 1 (mhSrcCluster (leNat hb)) ++
        leBytes 1 (mhSrcCore (leNat hb)) ++ leBytes 1 (mhSrcChan (leNat hb)) ++ leBytes 1 what)⟩] } }
  let numbers := fun (s : State) (n : Nat) => match (s.mod.coreSt n).choice with
    | some c => if c.heat = s.mod.heatNo then (c.step, c.mb) else (0, 0)
    | none => (0, 0)
  (∀ (s : State) (n : Nat) (hb payload : List Byte), headerOk hb = true → mhKind (leNat hb) = 1 → lands s n hb →
    ∃ t, Machine.exec (.data n hb payload) s = .next t ∧
      (let i := chan hb
      let d := s.mod.inChan s.mem n i
      let bytes := payload.take (64 * mhLength (leNat hb))
      let at_ := (slotSpan n d).addr + mhSeq (leNat hb) % chSlots d * (64 * chSize d)
      memRead t.mem at_ bytes.length = bytes ∧ s.BytesBut at_ bytes.length t ∧
      t.mod.inSt n i = { s.mod.inSt n i with held :=
        (if (s.mod.inSt n i).held.any (fun x => x.seq == mhSeq (leNat hb)) = true then (s.mod.inSt n i).held
        else (s.mod.inSt n i).held ++ [⟨mhSeq (leNat hb), mhStep (leNat hb), mhMb (leNat hb), true⟩]) } ∧
      (∀ k, k ≠ i → t.mod.inSt n k = s.mod.inSt n k) ∧
      t.mod.rdN (Reg.CORE_IN_HELD n i) = (t.mod.inSt n i).held.length % 2 ^ 32 ∧
      t.mod.coreSt n = { s.mod.coreSt n with inCh := (t.mod.coreSt n).inCh } ∧
      s.RegsBut [Reg.CORE_IN_HELD n i] t ∧ (∀ k, k ≠ n → t.mod.coreSt k = s.mod.coreSt k) ∧
      t = { s with mem := t.mem, mod := { s.mod with regs := t.mod.regs, cores := t.mod.cores } })) ∧
  (∀ (s : State) (n : Nat) (hb payload : List Byte), headerOk hb = true → mhKind (leNat hb) = 1 → ¬ lands s n hb →
    ∃ t, Machine.exec (.data n hb payload) s = .next t ∧
      t.mod.rdN (Reg.CORE_DISCARD n) = min (s.mod.rdN (Reg.CORE_DISCARD n) + 1) 0xFFFFFFFF ∧
      s.RegsBut [Reg.CORE_DISCARD n] t ∧ t = { s with mod := { s.mod with regs := t.mod.regs } }) ∧
  (∀ (s : State) (n : Nat) (hb : List Byte), headerOk hb = true → mhKind (leNat hb) = 2 → grants s n hb →
    ∃ t, Machine.exec (.creditGrant n hb) s = .next t ∧
      t.mod.rdN (Reg.CORE_OUT_CREDIT n (chan hb)) = mhCredits (leNat hb) ∧ t.mod.outSeqOf n (chan hb) = 0 ∧
      t.mod.lateOf n (chan hb) = mhCredits (leNat hb) ∧
      (∀ j, j ≠ chan hb → t.mod.outSeqOf n j = s.mod.outSeqOf n j ∧ t.mod.lateOf n j = s.mod.lateOf n j) ∧
      t.mod.coreSt n = { s.mod.coreSt n with
        outSeq := (t.mod.coreSt n).outSeq, lateCredit := (t.mod.coreSt n).lateCredit } ∧
      s.RegsBut [Reg.CORE_OUT_CREDIT n (chan hb)] t ∧ (∀ k, k ≠ n → t.mod.coreSt k = s.mod.coreSt k) ∧
      t = { s with mod := { s.mod with regs := t.mod.regs, cores := t.mod.cores } }) ∧
  (∀ (s : State) (n : Nat) (hb : List Byte), headerOk hb = true → mhKind (leNat hb) = 2 → ¬ grants s n hb →
    s.mod.ready = true → Machine.exec (.creditGrant n hb) s = .next (mismatched s n hb 0)) ∧
  (∀ (s : State) (n : Nat) (hb : List Byte), headerOk hb = true → mhKind (leNat hb) = 3 →
    peer (s.mod.outChan s.mem n (chan hb)) hb →
    ∃ t, Machine.exec (.creditReturn n hb) s = .next t ∧
      t.mod.rdN (Reg.CORE_OUT_CREDIT n (chan hb)) =
        min (s.mod.rdN (Reg.CORE_OUT_CREDIT n (chan hb)) + mhCredits (leNat hb))
          (chSlots (s.mod.outChan s.mem n (chan hb))) ∧
      t.mod.lateOf n (chan hb) = s.mod.lateOf n (chan hb) +
        (t.mod.rdN (Reg.CORE_OUT_CREDIT n (chan hb)) - s.mod.rdN (Reg.CORE_OUT_CREDIT n (chan hb))) ∧
      (∀ j, j ≠ chan hb → t.mod.lateOf n j = s.mod.lateOf n j) ∧
      t.mod.coreSt n = { s.mod.coreSt n with lateCredit := (t.mod.coreSt n).lateCredit } ∧
      s.RegsBut [Reg.CORE_OUT_CREDIT n (chan hb)] t ∧ (∀ k, k ≠ n → t.mod.coreSt k = s.mod.coreSt k) ∧
      t = { s with mod := { s.mod with regs := t.mod.regs, cores := t.mod.cores } }) ∧
  (∀ (s : State) (n : Nat) (hb : List Byte), headerOk hb = true → mhKind (leNat hb) = 3 →
    ¬ peer (s.mod.outChan s.mem n (chan hb)) hb → Machine.exec (.creditReturn n hb) s = .next s) ∧
  (∀ (s : State) (n : Nat) (hb : List Byte), headerOk hb = true → mhKind (leNat hb) = 4 → binds s n hb →
    ∃ t, Machine.exec (.bindRequest n hb) s = .next t ∧
      (let i := chan hb
      let d := s.mod.inChan s.mem n i
      t.mod.inSt n i = { bindHeat := mhSendHeat (leNat hb) } ∧ t.mod.rdN (Reg.CORE_IN_HELD n i) = 0 ∧
      t.mod.rdN (Reg.CORE_DISCARD n) =
        min (s.mod.rdN (Reg.CORE_DISCARD n) + (s.mod.inSt n i).held.length) 0xFFFFFFFF ∧
      t.mod.out = s.mod.out ++ [.message s.mod.nextId
        (headerBytes { sendHeat := s.mod.heatNo, credits := chSlots d, length := chSize d
                       step := (numbers s n).1, mb := (numbers s n).2, srcChip := s.mod.chip (n / 96), srcCluster := n / 8 % 12, srcCore := n % 8, srcChan := i
                       dstChip := chPeerChip d, dstCluster := chPeerCluster d, dstCore := chPeerCore d
                       dstChan := chPeerChan d, kind := 2 }) []] ∧
      (s.mod.destGone (chPeerChip d) (chPeerCluster d) (chPeerCore d) = none → t.mod.events = s.mod.events ∧
        t.mod.msgs = s.mod.msgs ++ [⟨s.mod.nextId, n, i, s.mod.heatNo, chPeerChip d, chPeerCluster d, chPeerCore d,
          none, true⟩]) ∧
      (∀ how, s.mod.destGone (chPeerChip d) (chPeerCluster d) (chPeerCore d) = some how → s.mod.ready = true →
        (∀ y ∈ s.mod.msgs, y.id < s.mod.nextId) → t.mod.msgs = s.mod.msgs ∧
        t.mod.events = s.mod.events ++ [⟨s.mod.now, s.mod.heatNo, 0x186, s.mod.chip (n / 96), n / 8 % 12, n % 8,
          padBytes 14 (leBytes 1 i ++ leBytes 1 (lossStatus how) ++ leBytes 2 (chPeerChip d) ++
            leBytes 1 (chPeerCluster d) ++ leBytes 1 (chPeerCore d))⟩]) ∧
      t.mod.nextId = s.mod.nextId + 1 ∧ (∀ k, k ≠ i → t.mod.inSt n k = s.mod.inSt n k) ∧ t.mod.coreSt n = { s.mod.coreSt n with inCh := (t.mod.coreSt n).inCh } ∧
      s.RegsBut [Reg.CORE_IN_HELD n i, Reg.CORE_DISCARD n] t ∧ (∀ k, k ≠ n → t.mod.coreSt k = s.mod.coreSt k) ∧
      t = { s with mod := { s.mod with regs := t.mod.regs, cores := t.mod.cores, out := t.mod.out, msgs := t.mod.msgs
                                       nextId := t.mod.nextId, events := t.mod.events } })) ∧
  (∀ (s : State) (n : Nat) (hb : List Byte), headerOk hb = true → mhKind (leNat hb) = 4 → ¬ binds s n hb →
    s.mod.ready = true → Machine.exec (.bindRequest n hb) s = .next (mismatched s n hb 1)) ∧
  (∀ (s : State) (n : Nat) (hb payload : List Byte), ∀ p ∈ [(Instr.data n hb payload, 1), (.creditGrant n hb, 2),
      (.creditReturn n hb, 3), (.bindRequest n hb, 4)],
    headerOk hb = false ∨ mhKind (leNat hb) ≠ p.2 →
    ∃ t, Machine.exec p.1 s = .next t ∧
      t.mod.coreSt n = { s.mod.coreSt n with
        stopMalformed := (s.mod.coreSt n).stopMalformed || s.mod.coreState n == 1 || s.mod.coreState n == 2 } ∧
      (∀ k, k ≠ n → t.mod.coreSt k = s.mod.coreSt k) ∧
      t = { s with mod := { s.mod with cores := t.mod.cores } })

/-- A pass that passes its check adds its exact sums into its bank, counts what it streamed, and completes or queues
its drain. 03_matrix_array.md R70, 03_matrix_array.md R72, 03_matrix_array.md R73, 03_matrix_array.md R74,
03_matrix_array.md R80, 03_matrix_array.md R82, 20_casts_failures_and_recovery.md R406, 02_cores_and_patterns.md R41,
00_scope.md R473. The model's own choices in it: log entries 50 and 52. -/
def Obligations.ArrayPassStreams : Prop :=
  let issued := fun (s : State) (n : Nat) (x : IssuedWord) => n < 384 ∧ (s.mod.coreSt n).issued = some x ∧
    bitsOf x.word 63 56 = 1 ∧ s.mod.dieHalted (n / 96) = false
  (∀ (s : State) (n : Nat) (x : IssuedWord) (atIssue : Memory) (rep : PassReport), issued s n x →
    (x.a, x.b) = Mod.passOperands atIssue n x.block → s.mod.arrayOff (n / 8) = false →
    s.mod.passError n x.word x.block = 0 →
    ((s.mod.arr (n / 8)).drains.any fun d => d.bank == pbBank x.block) = false →
    ∃ t, Machine.exec (.arrayPass n rep) s = .next t ∧
      (let g := n / 8
      let b := x.block
      let ss := Mod.passSums (isInt (pbAFmt b)) rep.faults ((passA n b).read atIssue (pbM b) (pbKt b))
        (transposeGrid valZero (pbNw b) ((passB n b).read atIssue (pbKt b) (pbNw b)))
      let tag := fun (a : ArraySt) => if pbBank b = 0 then a.tag0 else a.tag1
      (∀ r c, r < pbM b → c < pbNw b → t.mod.bankWord g (pbBank b) r c =
        (bankAdd (isInt (pbAFmt b)) (pbAcc b) (s.mod.bankWord g (pbBank b) r c) ((ss.getD r []).getD c 0)).1 % 2 ^ 32) ∧
      (∀ k, (∀ r c, r < pbM b → c < pbNw b → k ≠ Mod.bankKey g (pbBank b) r c) →
        tabGet (fun _ => (0 : Word)) t.mod.banks k = tabGet (fun _ => (0 : Word)) s.mod.banks k) ∧
      t.mod.rd64 (Reg.ARR_STREAM_CYCLES_LO g) =
        min (s.mod.rd64 (Reg.ARR_STREAM_CYCLES_LO g) + pbM b * (if passClass b = 16 then 2 else 1)) (2 ^ 64 - 1) ∧
      t.mod.rd64 (Reg.ARR_FREEZE_FEED_LO g) = min (s.mod.rd64 (Reg.ARR_FREEZE_FEED_LO g) + rep.feed) (2 ^ 64 - 1) ∧
      t.mod.rd64 (Reg.ARR_FREEZE_DRAIN_LO g) = min (s.mod.rd64 (Reg.ARR_FREEZE_DRAIN_LO g) + rep.drain) (2 ^ 64 - 1) ∧
      (pbAcc b = false → tag (t.mod.arr g) = some ⟨s.mod.boundHeat n, pbM b, pbNw b, isInt (pbAFmt b)⟩) ∧
      (pbAcc b = true → tag (t.mod.arr g) = tag (s.mod.arr g)) ∧
      t.mod.fget (Fld.ARR_RAMP_STATE g) = (if t.mod.passWaits s.mem n = true then 2 else 3) ∧
      t.mod.coreSt n = { s.mod.coreSt n with issued := none } ∧
      (if pbFinish b = true then
        t.mod.rdN (Reg.ARR_PASS_COUNT g) = s.mod.rdN (Reg.ARR_PASS_COUNT g) ∧ t.mod.nextId = s.mod.nextId + 1 ∧
        (∃ k, t.mod.works = s.mod.works ++ [k] ∧ k.id = s.mod.nextId ∧ k.who = .core n ∧ k.unit = .array ∧
          k.pos = x.pos) ∧
        (∃ d, (t.mod.arr g).drains = (s.mod.arr g).drains ++ [d] ∧ d.work = s.mod.nextId ∧ d.core = n ∧
          d.bank = pbBank b ∧ d.m = pbM b ∧ d.nw = pbNw b)
      else
        t.mod.rdN (Reg.ARR_PASS_COUNT g) = min (s.mod.rdN (Reg.ARR_PASS_COUNT g) + 1) 0xFFFFFFFF ∧
        t.mod.works = s.mod.works ∧ t.mod.nextId = s.mod.nextId ∧ (t.mod.arr g).drains = (s.mod.arr g).drains) ∧
      (∀ k, k ≠ g → t.mod.arr k = s.mod.arr k) ∧
      s.Advanced n [Reg.ARR_STREAM_CYCLES_LO g, Reg.ARR_STREAM_CYCLES_LO g + 4, Reg.ARR_FREEZE_FEED_LO g,
        Reg.ARR_FREEZE_FEED_LO g + 4, Reg.ARR_FREEZE_DRAIN_LO g, Reg.ARR_FREEZE_DRAIN_LO g + 4,
        Reg.ARR_INT_SAT_COUNT g, Reg.ARR_STATUS g, Reg.ARR_PASS_COUNT g, Reg.NUM_DIE_CTR (g / 12) 9] t) ∧
      (∀ k, k ≠ n → t.mod.coreSt k = s.mod.coreSt k) ∧
      t = { s with mod := { s.mod with regs := t.mod.regs, banks := t.mod.banks, arrays := t.mod.arrays
                                       cores := t.mod.cores, works := t.mod.works, nextId := t.mod.nextId
                                       free := t.mod.free } }) ∧
  (∀ (s : State) (n : Nat) (x : IssuedWord) (rep : PassReport), issued s n x → s.mod.arrayOff (n / 8) = false →
    s.mod.passError n x.word x.block ≠ 0 →
    ∃ t, Machine.exec (.arrayPass n rep) s = .next t ∧
      t.mod.rdN (Reg.ARR_PASS_ERR (n / 8)) = s.mod.passError n x.word x.block ∧
      (t.mod.coreSt n).stopMalformed = true ∧ (t.mod.coreSt n).issued = none ∧
      (∀ k, k ≠ n → t.mod.coreSt k = s.mod.coreSt k) ∧ s.RegsBut [Reg.ARR_PASS_ERR (n / 8)] t ∧
      t = { s with mod := { s.mod with regs := t.mod.regs, cores := t.mod.cores } }) ∧
  (∀ (s : State) (n : Nat) (x : IssuedWord) (rep : PassReport), issued s n x → s.mod.arrayOff (n / 8) = false →
    s.mod.passError n x.word x.block = 0 →
    ((s.mod.arr (n / 8)).drains.any fun d => d.bank == pbBank x.block) = true →
    ∃ t, Machine.exec (.arrayPass n rep) s = .next t ∧ t.mod.fget (Fld.ARR_RAMP_STATE (n / 8)) = 2 ∧
      s.RegsBut [Reg.ARR_STATUS (n / 8)] t ∧ t = { s with mod := { s.mod with regs := t.mod.regs } }) ∧
  (∀ (s : State) (n : Nat) (x : IssuedWord) (rep : PassReport), issued s n x → s.mod.arrayOff (n / 8) = true →
    ∃ t, Machine.exec (.arrayPass n rep) s = .next t ∧ t.mod.coreSt n = { s.mod.coreSt n with issued := none } ∧
      (∀ k, k ≠ n → t.mod.coreSt k = s.mod.coreSt k) ∧ s.Advanced n [] t ∧
      t = { s with mod := { s.mod with regs := t.mod.regs, cores := t.mod.cores } })

/-- A drain writes its bank to its destination and completes its pass; with no pass waiting the array ramps down to
IDLE. 03_matrix_array.md R74, 03_matrix_array.md R77, 03_matrix_array.md R82, 02_cores_and_patterns.md R51,
19_power_and_thermal.md R370. -/
def Obligations.ArrayDrainAndRampDown : Prop :=
  (∀ (s : State) (g : Nat) (d : DrainWork) (ds : List DrainWork) (k : Work), g < 48 → d.core < 384 →
    s.mod.dieHalted (g / 12) = false → (s.mod.arr g).drains = d :: ds → s.mod.findWork d.work = some k → k.who = .core d.core → k.unit = .array →
    ∃ t, Machine.exec (.arrayDrain g) s = .next t ∧
      (t.mod.arr g).drains = ds ∧ t.mod.works = s.mod.works.filter (fun x => x.id != d.work) ∧
      t.mod.rdN (Reg.ARR_PASS_COUNT g) = min (s.mod.rdN (Reg.ARR_PASS_COUNT g) + 1) 0xFFFFFFFF ∧
      (let o := drainOperand d.core d.space d.dcore d.base d.pitch d.t
      s.BytesBut (o.span d.m d.nw).addr (o.span d.m d.nw).len t ∧
      (d.space = 0 → d.t = false → 4 * d.nw ≤ 64 * d.pitch → 64 * d.base + (o.span d.m d.nw).len ≤ 0x1000000 →
        ∀ r c, r < d.m → c < d.nw →
          memNat t.mem (sharedCell (d.core / 8) (64 * d.base + 64 * d.pitch * r + 4 * c)) 4 =
            s.mod.bankWord g d.bank r c)) ∧
      (∀ x, x ≠ g → t.mod.arr x = s.mod.arr x) ∧
      s.RegsBut [Reg.ARR_PASS_COUNT g] t ∧
      t = { s with mem := t.mem, mod := { s.mod with
        regs := t.mod.regs, arrays := t.mod.arrays, works := t.mod.works } }) ∧
  (∀ (s : State) (g : Nat), g < 48 →
    (s.mod.dieHalted (g / 12) = false → (∀ n ∈ Mod.coresOf g, s.mod.issuedFor n 1 = none) → ∃ t, Machine.exec (.arrayRampDown g) s = .next t ∧
      t.mod.fget (Fld.ARR_RAMP_STATE g) = 0 ∧
      (∀ i, i ≠ 16 → i ≠ 17 → (t.mod.rd (Reg.ARR_STATUS g)).getLsbD i = (s.mod.rd (Reg.ARR_STATUS g)).getLsbD i) ∧
      s.RegsBut [Reg.ARR_STATUS g] t ∧ t = { s with mod := { s.mod with regs := t.mod.regs } }) ∧
    (s.mod.dieHalted (g / 12) = true ∨ (∃ n ∈ Mod.coresOf g, (s.mod.issuedFor n 1).isSome = true) →
      Machine.exec (.arrayRampDown g) s = .next s) ∧
    (s.mod.dieHalted (g / 12) = true → Machine.exec (.arrayDrain g) s = .next s))

/-- A captured tile is checked and counted, or dropped and counted when late; a slag request waits for the next
boundary. 05_numerical_guard.md R118, 05_numerical_guard.md R120, 05_numerical_guard.md R121, 03_matrix_array.md R84.
The model's own choices in it: log entry 4. -/
def Obligations.ShadowTilesAndSlagRequests : Prop :=
  (∀ (s : State) (g : Nat) (c : Capture) (cs : List Capture), g < 48 → s.mod.ready = true → s.mod.dieHalted (g / 12) = false →
    (s.mod.arr g).captures = c :: cs → s.mod.heatNo ≤ c.heat + 1 →
    ∃ t, Machine.exec (.shadowCheck g) s = .next t ∧ (t.mod.arr g).captures = cs ∧
      t.mod.rdN (Reg.NUM_DIE_CTR (g / 12) 7) = min (s.mod.rdN (Reg.NUM_DIE_CTR (g / 12) 7) + 1) 0xFFFFFFFF ∧
      (if s.mod.badColumns c = [] then
        t.mod.rdN (Reg.NUM_DIE_CTR (g / 12) 8) = s.mod.rdN (Reg.NUM_DIE_CTR (g / 12) 8) ∧
        t.mod.events = s.mod.events ∧ (t.mod.arr g).disagree = (s.mod.arr g).disagree
      else
        t.mod.rdN (Reg.NUM_DIE_CTR (g / 12) 8) = min (s.mod.rdN (Reg.NUM_DIE_CTR (g / 12) 8) + 1) 0xFFFFFFFF ∧
        (if s.mod.fget Fld.NUM_SHADOW_THRESH ≤ (s.mod.arr g).disagree + 1 then
          (t.mod.arr g).disagree = 0 ∧
          t.mod.events = s.mod.events ++ [⟨s.mod.now, s.mod.heatNo, 0x125, s.mod.chip (g / 12), g % 12, 0, padBytes 14
            (let cols := (s.mod.badColumns c).map (fun j => c.phys.getD j 0)
            leBytes 2 ((s.mod.arr g).disagree + 1) ++ leBytes 1 c.cls ++ leBytes 2 (cols.foldl min 511) ++
              leBytes 2 (cols.foldl max 0) ++ leBytes 4 ((s.mod.badColumns c).foldl (fun x j => x + 2 ^ j) 0))⟩]
        else (t.mod.arr g).disagree = (s.mod.arr g).disagree + 1 ∧ t.mod.events = s.mod.events)) ∧
      t.mod.arr g = { s.mod.arr g with
        captures := cs, disagree := (t.mod.arr g).disagree, slagPend := (t.mod.arr g).slagPend } ∧
      (∀ k, k ≠ g → t.mod.arr k = s.mod.arr k) ∧
      s.RegsBut [Reg.NUM_DIE_CTR (g / 12) 7, Reg.NUM_DIE_CTR (g / 12) 8, Reg.NUM_SHADOW_SUSPECT g, Reg.ARR_STATUS g] t ∧
      t = { s with mod := { s.mod with regs := t.mod.regs, arrays := t.mod.arrays, events := t.mod.events } }) ∧
  (∀ (s : State) (g : Nat), ∃ t, Machine.exec (.shadowCaptureDrop g) s = .next t ∧
    (t.mod.arr g).captures = (s.mod.arr g).captures.filter (fun c => !decide (c.heat + 1 < s.mod.heatNo)) ∧
    t.mod.rdN (Reg.NUM_DIE_CTR (g / 12) 9) = min (s.mod.rdN (Reg.NUM_DIE_CTR (g / 12) 9) +
      ((s.mod.arr g).captures.filter (fun c => decide (c.heat + 1 < s.mod.heatNo))).length) 0xFFFFFFFF ∧
    (∀ k, k ≠ g → t.mod.arr k = s.mod.arr k) ∧ s.RegsBut [Reg.NUM_DIE_CTR (g / 12) 9] t ∧
    t = { s with mod := { s.mod with regs := t.mod.regs, arrays := t.mod.arrays } }) ∧
  (∀ (s : State) (g : Nat) (v : Word) (o : Origin), g < 48 → s.Accepts (Reg.ARR_SLAG_REQ g) (setBit v 31) o →
    ∃ t, Machine.exec (.arrSlagReq g v o) s = .next t ∧ s.Journalled t (Reg.ARR_SLAG_REQ g) (setBit v 31) o ∧
      (if (s.mod.arr g).failed = true ∨ (s.mod.arr g).slag.any (fun x => x.1 == wordBits v 8 0) = true then
        t.mod.flag (Fld.ARR_SLAG_ARM g) = false ∧ t.mod.arr g = s.mod.arr g ∧ s.RegsBut [Reg.ARR_SLAG_REQ g] t
      else
        s.Stored t (Reg.ARR_SLAG_REQ g) (setBit v 31) ∧ t.mod.flag (Fld.ARR_SLAG_PEND g) = true ∧
        t.mod.arr g = { s.mod.arr g with slagPend := (s.mod.arr g).slagPend ++ [(wordBits v 8 0, 4)] } ∧
        s.RegsBut [Reg.ARR_SLAG_REQ g, Reg.ARR_STATUS g] t) ∧
      (∀ k, k ≠ g → t.mod.arr k = s.mod.arr k) ∧
      t = { s with mod := { s.mod with
        regs := t.mod.regs, jnlPend := t.mod.jnlPend, out := t.mod.out, arrays := t.mod.arrays } })

/-- A vector operation evaluates Table 6.4 into its destination, a wrong one stops its pattern, and completion is
counted. 06_vector_and_random.md R129, 06_vector_and_random.md R130, 06_vector_and_random.md R132,
06_vector_and_random.md R133, 06_vector_and_random.md R134. -/
def Obligations.VectorOperations : Prop :=
  (∀ (s : State) (n w pos b : Nat), n < 384 → s.mod.issuedFor n 2 = some (w, pos, b) → s.FreshNumbers →
    vecError w b = 0 →
    ∃ t, Machine.exec (.vectorOperation n) s = .next t ∧
      (let d := Mod.vecDest n b
      let draw := fun r c =>
        drawAt s.mod.seed (s.mod.boundStep n) (vbRPurpose b) (s.mod.boundMb n) (vbGBase b + r * vbGPitch b + c)
      let rd := fun o z used shape => s.mod.vecRead s.mem n o z used shape
      (∃ k, t.mod.works = s.mod.works ++ [k] ∧ k.id = s.mod.nextId ∧ k.who = .core n ∧ k.unit = .vector ∧ k.pos = pos ∧
        k.dst = [d.span (vecShapeD b).1 (vecShapeD b).2] ∧ (k.status = stOk ∨ k.status = stAccessDenied)) ∧
      s.BytesBut (d.span (vecShapeD b).1 (vecShapeD b).2).addr (d.span (vecShapeD b).1 (vecShapeD b).2).len t ∧
      (opSpace (vbD b) = 0 → opT (vbD b) = false → vbConv b = 1 → 4 * (vecShapeD b).2 ≤ 64 * opPitch (vbD b) →
        ∀ r c, r < (vecShapeD b).1 → c < (vecShapeD b).2 →
          memNat t.mem (d.at_ + 64 * opPitch (vbD b) * r + 4 * c) 4 =
            if vecIsWords (vbOp b) = true then vecWord b draw r c % 2 ^ 32
            else f32Enc (vecAt b (rd (vbA b) (vbAZp b) (vecUsesA (vbOp b)) (vbRows b, vbCols b))
              (rd (vbB b) (vbBZp b) (vecUsesB (vbOp b)) (vecShapeB b))
              (rd (vbC b) 0 (vecUsesC (vbOp b)) (vbRows b, vbCols b)) draw r c) % 2 ^ 32)) ∧
      t.mod.nextId = s.mod.nextId + 1 ∧ t.mod.coreSt n = { s.mod.coreSt n with issued := none } ∧
      t.mod.rdN (Reg.CORE_STEP n) = (s.mod.rdN (Reg.CORE_STEP n) + if (s.Ends n).1 then 1 else 0) % 2 ^ 32 ∧
      (∀ k, k ≠ n → t.mod.coreSt k = s.mod.coreSt k) ∧
      t = { s with mem := t.mem, mod := { s.mod with
        regs := t.mod.regs, cores := t.mod.cores, works := t.mod.works, nextId := t.mod.nextId
        events := t.mod.events, num := t.mod.num } }) ∧
  (∀ (s : State) (n w pos b : Nat), n < 384 → s.mod.issuedFor n 2 = some (w, pos, b) → vecError w b ≠ 0 →
    ∃ t, Machine.exec (.vectorOperation n) s = .next t ∧
      t.mod.rdN (Reg.CORE_VEC_ERR n) = vecError w b ∧
      (t.mod.coreSt n).stopMalformed = true ∧ (t.mod.coreSt n).issued = none ∧
      (∀ k, k ≠ n → t.mod.coreSt k = s.mod.coreSt k) ∧ s.RegsBut [Reg.CORE_VEC_ERR n] t ∧
      t = { s with mod := { s.mod with regs := t.mod.regs, cores := t.mod.cores } }) ∧
  (∀ (s : State) (n : Nat) (k : Work), s.mod.findWork k.id = some k → k.who = .core n → k.unit = .vector →
    s.mod.dieHalted (n / 96) = false →
    ∃ t, Machine.exec (.vectorOpComplete k.id) s = .next t ∧
      t.mod.works = s.mod.works.filter (fun x => x.id != k.id) ∧
      t.mod.rdN (Reg.CORE_VEC_OPS n) = min (s.mod.rdN (Reg.CORE_VEC_OPS n) + 1) 0xFFFFFFFF ∧
      s.RegsBut [Reg.CORE_VEC_OPS n] t ∧
      t = { s with mod := { s.mod with regs := t.mod.regs, works := t.mod.works } })

/-- NUM_LS_ARM sets the exponent of two steps, and the two words of the seed are taken by the write of the high one.
05_numerical_guard.md R116, 06_vector_and_random.md R141, 20_casts_failures_and_recovery.md R397. -/
def Obligations.LossScaleAndSeedWrites : Prop :=
  (∀ (s : State) (v : Word) (o : Origin), s.Accepts Reg.NUM_LS_SET (setBit v 31) o →
    (s.mod.flag Fld.CAST_RS_LOCKED = false → s.mod.lsSetOk (setBit v 31) = true →
      ∃ t, Machine.exec (.numLsArm v o) s = .next t ∧ s.Journalled t Reg.NUM_LS_SET (setBit v 31) o ∧
        t.mod.leOf (s.mod.rdN Reg.NUM_LS_SET_STEP) = some (wordBits v 7 0) ∧
        t.mod.leOf (s.mod.rdN Reg.NUM_LS_SET_STEP + 1) = some (wordBits v 7 0) ∧
        t.mod.flag Fld.NUM_LS_ARM = false ∧ t.mod.fget ⟨Reg.NUM_LS_SET, 7, 0⟩ = wordBits v 7 0 ∧
        (∀ e ∈ s.mod.num.les, e.1 ≠ s.mod.rdN Reg.NUM_LS_SET_STEP → e.1 ≠ (s.mod.rdN Reg.NUM_LS_SET_STEP + 1) % 2 ^ 32 →
          e ∈ t.mod.num.les) ∧
        s.RegsBut [Reg.NUM_LS_SET, Reg.NUM_LS_NOW, Reg.NUM_LS_NOW_STEP, Reg.NUM_STATUS] t ∧
        t = { s with mod := { s.mod with
          regs := t.mod.regs, jnlPend := t.mod.jnlPend, out := t.mod.out, num := { s.mod.num with les := t.mod.num.les } } }) ∧
    (s.mod.flag Fld.CAST_RS_LOCKED = true → ∃ t, Machine.exec (.numLsArm v o) s = .next t ∧
      s.Dropped t stAccessDenied Reg.NUM_LS_SET (setBit v 31) o) ∧
    (s.mod.flag Fld.CAST_RS_LOCKED = false → s.mod.lsSetOk (setBit v 31) = false →
      ∃ t, Machine.exec (.numLsArm v o) s = .next t ∧ s.Dropped t stMalformed Reg.NUM_LS_SET (setBit v 31) o)) ∧
  (∀ (s : State) (v : Word) (o : Origin), s.Accepts Reg.NUM_SEED_LO v o →
    (s.mod.flag Fld.CAST_RS_LOCKED = false → ∃ t, Machine.exec (.numSeedLo v o) s = .next t ∧
      s.Stored t Reg.NUM_SEED_LO v ∧ s.Journalled t Reg.NUM_SEED_LO v o ∧ t.mod.seed = s.mod.seed ∧
      s.RegsBut [Reg.NUM_SEED_LO] t ∧
      t = { s with mod := { s.mod with regs := t.mod.regs, jnlPend := t.mod.jnlPend, out := t.mod.out } }) ∧
    (s.mod.flag Fld.CAST_RS_LOCKED = true → ∃ t, Machine.exec (.numSeedLo v o) s = .next t ∧
      s.Dropped t stAccessDenied Reg.NUM_SEED_LO v o)) ∧
  (∀ (s : State) (v : Word) (o : Origin), s.Accepts Reg.NUM_SEED_HI v o →
    (s.mod.noCoreBusy = true → s.mod.flag Fld.CAST_RS_LOCKED = false →
      ∃ t, Machine.exec (.numSeedHi v o) s = .next t ∧ s.Stored t Reg.NUM_SEED_HI v ∧
        s.Journalled t Reg.NUM_SEED_HI v o ∧ t.mod.seed = s.mod.rdN Reg.NUM_SEED_LO + 2 ^ 32 * v.toNat ∧
        (∀ a, a ≠ Reg.NUM_SEED_LO → t.mod.base64 a = s.mod.base64 a) ∧ s.RegsBut [Reg.NUM_SEED_HI] t ∧
        t = { s with mod := { s.mod with
          regs := t.mod.regs, jnlPend := t.mod.jnlPend, out := t.mod.out, taken := t.mod.taken } }) ∧
    (¬ (s.mod.noCoreBusy = true ∧ s.mod.flag Fld.CAST_RS_LOCKED = false) →
      ∃ t, Machine.exec (.numSeedHi v o) s = .next t ∧ s.Dropped t stAccessDenied Reg.NUM_SEED_HI v o))

/-- A staging write fills its slot and clears its poison bit; a staging restore returns the slot's bytes, or 0xFF
bytes where it is poisoned. 07_backward_pass.md R143, 07_backward_pass.md R144, 07_backward_pass.md R145,
11_memory_tiers.md R227, 11_memory_tiers.md R238, 16_descriptors_and_records.md R319, 16_descriptors_and_records.md
R322. The model's own choices in it: log entry 75. -/
def Obligations.StagingWords : Prop :=
  let taken := fun (s t : State) (n : Nat) => t.mod.coreSt n = { s.mod.coreSt n with issued := none } ∧
    (∀ k, k ≠ n → t.mod.coreSt k = s.mod.coreSt k)
  let counts := fun (s t : State) (reg k : Nat) => t.mod.rdN reg = min (s.mod.rdN reg + k) 0xFFFFFFFF
  let trk := fun (n : Nat) => [Reg.MEM_TRK_USED (n / 96), Reg.MEM_TRK_PEAK (n / 96)]
  (∀ (s : State) (n b c : Nat) (rs : Replies), n < 384 → (s.mod.stageWord n 3).2 = some b →
    (let slot := sgSlot b (s.mod.boundMb n)
    let dest := sgBase b + slot * sgSize b
    let bit := Mod.poisonBit n (sgRegion b) slot
    placeCell (placeOf s.mod dest) = some c →
    (∃ t, Machine.exec (.stageWrite n rs) s = .next t ∧ s.BytesBut c (sgSize b) t ∧ taken s t n) ∧
    (∀ src, s.OwnStretch dest (sgSize b) c false → (∀ x ∈ rs, x.1 < dest ∨ dest + sgSize b ≤ x.1) →
      placeCell (placeOf s.mod (sgSram b)) = some src →
      ∃ t, Machine.exec (.stageWrite n rs) s = .next t ∧
        memRead t.mem c (sgSize b) = memRead s.mem (s.mod.relocate s.mem n src) (sgSize b) ∧ s.BytesBut c (sgSize b) t ∧
        t.mod.flag bit = false ∧ counts s t (Reg.CORE_LD_OPS n) 1 ∧ taken s t n ∧
        s.Advanced n (bit.reg :: Reg.CORE_LD_OPS n :: trk n) t ∧
        (s.mod.tables.hot = [] → t.mod.tables.hot = []) ∧
        t = { s with mem := t.mem, mod := { s.mod with
          regs := t.mod.regs, cores := t.mod.cores, badLines := t.mod.badLines
          tables := { s.mod.tables with trk := t.mod.tables.trk, hot := t.mod.tables.hot } } }) ∧
    ((∀ k, k < sgSize b → s.mod.reach (dest + k) false = stTierError) →
      ∃ t, Machine.exec (.stageWrite n rs) s = .next t ∧ t.mod.flag bit = true ∧
        counts s t (Reg.CORE_STAGE_FAIL n) 1 ∧ counts s t (Reg.CORE_LD_FAIL n) 1 ∧
        counts s t (Reg.MEM_REQ_ERR (n / 96)) (sgSize b / 64) ∧ taken s t n ∧
        s.Advanced n (bit.reg :: Reg.CORE_STAGE_FAIL n :: Reg.CORE_LD_FAIL n :: Reg.MEM_REQ_ERR (n / 96) :: trk n) t ∧
        t = { s with mod := { s.mod with
          regs := t.mod.regs, cores := t.mod.cores, tables := { s.mod.tables with trk := t.mod.tables.trk } } }))) ∧
  (∀ (s : State) (n b c dst : Nat) (rs : Replies), n < 384 → (s.mod.stageWord n 4).2 = some b →
    (let slot := sgSlot b (s.mod.boundMb n)
    let from_ := sgBase b + slot * sgSize b
    let bit := Mod.poisonBit n (sgRegion b) slot
    placeCell (placeOf s.mod (sgSram b)) = some dst →
    (s.mod.flag bit = false → s.OwnStretch from_ (sgSize b) c true → s.mod.badIn c (sgSize b) = false →
      (∀ x ∈ rs, x.1 < from_ ∨ from_ + sgSize b ≤ x.1) → Mod.localOf dst = none →
      ∃ t, Machine.exec (.stageRestore n rs) s = .next t ∧
        memRead t.mem dst (sgSize b) = memRead s.mem c (sgSize b) ∧ s.BytesBut dst (sgSize b) t ∧
        counts s t (Reg.CORE_LD_OPS n) 1 ∧ taken s t n ∧ s.Advanced n (Reg.CORE_LD_OPS n :: trk n) t ∧
        t = { s with mem := t.mem, mod := { s.mod with
          regs := t.mod.regs, cores := t.mod.cores, tables := { s.mod.tables with trk := t.mod.tables.trk } } }) ∧
    (s.mod.flag bit = true → ∃ t, Machine.exec (.stageRestore n rs) s = .next t ∧
      (Mod.localOf dst = none → memRead t.mem dst (sgSize b) = List.replicate (sgSize b) 0xFF) ∧
      s.BytesBut dst (sgSize b) t ∧ t.mod.flag bit = false ∧
      counts s t (Reg.CORE_STAGE_FAIL n) 1 ∧ counts s t (Reg.CORE_LD_FAIL n) 1 ∧ taken s t n ∧
      s.Advanced n [bit.reg, Reg.CORE_STAGE_FAIL n, Reg.CORE_LD_FAIL n] t ∧
      t = { s with mem := t.mem, mod := { s.mod with regs := t.mod.regs, cores := t.mod.cores } })))

/-- A hand-off before the end of its group only completes; one that ends it read-clears G into the source and starts;
a START is queued. 07_backward_pass.md R149, 07_backward_pass.md R150, 14_collectives_and_job_mapping.md R281,
14_collectives_and_job_mapping.md R282, 16_descriptors_and_records.md R323. The model's own choices in it: log entry
133. -/
def Obligations.HandoffAndStart : Prop :=
  (∀ (s : State) (n b : Nat), n < 384 → (s.mod.stageWord n 6).2 = some b →
    (s.mod.boundMb n % hoM b ≠ hoM b - 1 → ∃ t, Machine.exec (.handoff n) s = .next t ∧
      t.mod.rdN (Reg.CORE_LD_OPS n) = min (s.mod.rdN (Reg.CORE_LD_OPS n) + 1) 0xFFFFFFFF ∧
      t.mod.coreSt n = { s.mod.coreSt n with issued := none } ∧ (∀ k, k ≠ n → t.mod.coreSt k = s.mod.coreSt k) ∧
      s.Advanced n [Reg.CORE_LD_OPS n] t ∧ t = { s with mod := { s.mod with regs := t.mod.regs, cores := t.mod.cores } }) ∧
    (∀ c dest, s.mod.boundMb n % hoM b = hoM b - 1 → s.mod.startError s.mem (some n) b = 0 →
      s.mod.startBusy (srBucket b) = false →
      (let len := 4 * bkCount ((s.mod.bucketEntry (srBucket b)).getD 0)
      s.mod.ownRegion (hoG b) len false = some c →
      s.mod.ownRegion (bkSrc ((s.mod.bucketEntry (srBucket b)).getD 0)) len true = some dest →
      (s.mod.handoffMove s.mem n c dest len).2.2 = stOk →
      ∃ t, Machine.exec (.handoff n) s = .next t ∧ t.mod.bucketBusy (srBucket b) = true ∧
        t.mod.rdN (Reg.CORE_LD_OPS n) = min (s.mod.rdN (Reg.CORE_LD_OPS n) + 1) 0xFFFFFFFF ∧
        (t.mod.coreSt n).issued = none ∧ (∀ k ≠ n, (t.mod.coreSt k).choice = (s.mod.coreSt k).choice) ∧
        (16 ≤ s.mod.col.insts.length → c + len ≤ dest ∨ dest + len ≤ c → s.mod.tables.hold = [] →
          memRead t.mem dest len = memRead s.mem c len ∧ (∀ x, c ≤ x → x < c + len → t.byteAt x = 0) ∧
          ∀ x, (x < c ∨ c + len ≤ x) → (x < dest ∨ dest + len ≤ x) → t.byteAt x = s.byteAt x) ∧
        (s.mod.tables.hot = [] → t.mod.tables.hot = []) ∧
        t = { s with mem := t.mem, mod := { s.mod with
          regs := t.mod.regs, cores := t.mod.cores, out := t.mod.out, events := t.mod.events, col := t.mod.col
          num := t.mod.num, badLines := t.mod.badLines
          tables := { s.mod.tables with
            hold := t.mod.tables.hold, trk := t.mod.tables.trk, hot := t.mod.tables.hot } } }))) ∧
  (∀ (s : State) (who : Runner) (b step mb : Nat) (core : Option Nat),
    (match who with
      | .core n => n < 384 ∧ core = some n ∧ (s.mod.stageWord n 5).2 = some b ∧ step = s.mod.boundStep n ∧
          mb = s.mod.boundMb n
      | .ring r i => core = none ∧ s.mod.ringDesc r i 5 = some b ∧ step = dsStep b ∧ mb = dsMb b) →
    (s.mod.startError s.mem core b = 0 → s.mod.startBusy (srBucket b) = false →
      ∃ t, Machine.exec (.start who) s = .next t ∧ t.mod.bucketBusy (srBucket b) = true ∧
        (match who with
          | .core n => (t.mod.coreSt n).issued = none ∧ t.mod.comps = s.mod.comps ∧
              t.mod.rdN (Reg.CORE_LD_OPS n) = min (s.mod.rdN (Reg.CORE_LD_OPS n) + 1) 0xFFFFFFFF
          | .ring r i => t.mod.comps = s.mod.comps ++
              [s.compOf r i stOk 0 (s.mod.ringTag r i).1 (s.mod.ringTag r i).2]) ∧
        (16 ≤ s.mod.col.insts.length → t.mem = s.mem ∧ ∃ q, t.mod.col.starts = s.mod.col.starts ++ [q] ∧
          q.bucket = srBucket b ∧ q.step = step % 2 ^ 32) ∧
        (s.mod.tables.hot = [] → t.mod.tables.hot = []) ∧
        t = { s with mem := t.mem, mod := { s.mod with
          regs := t.mod.regs, cores := t.mod.cores, out := t.mod.out, events := t.mod.events, col := t.mod.col
          num := t.mod.num, badLines := t.mod.badLines, comps := t.mod.comps
          tables := { s.mod.tables with hot := t.mod.tables.hot }
          hub := { s.mod.hub with rings := t.mod.hub.rings } } }) ∧
    (s.mod.startError s.mem core b = 0 → s.mod.startBusy (srBucket b) = true →
      ∃ t, Machine.exec (.start who) s = .next t ∧ t.mod.col = s.mod.col ∧ t.mem = s.mem ∧
        (match who with
          | .core n => t.mod.rdN (Reg.CORE_LD_FAIL n) = min (s.mod.rdN (Reg.CORE_LD_FAIL n) + 1) 0xFFFFFFFF
          | .ring r i => t.mod.comps = s.mod.comps ++
              [s.compOf r i stBusyRefused 0 (s.mod.ringTag r i).1 (s.mod.ringTag r i).2])) ∧
    (s.mod.startError s.mem core b ≠ 0 → ∃ t, Machine.exec (.start who) s = .next t ∧
      t.mod.rdN Reg.COL_BK_ERR = s.mod.startError s.mem core b ∧ t.mod.col = s.mod.col ∧ t.mem = s.mem))

/-- A COPY or MOVE that may start is put in flight; between the module's own memories its bytes land, and a MOVE
releases its source lines. 16_descriptors_and_records.md R319, 16_descriptors_and_records.md R320,
16_descriptors_and_records.md R321, 11_memory_tiers.md R224, 12_address_space.md R252. -/
def Obligations.CopyAndMove : Prop :=
  (∀ (s : State) (kind : Nat) (who : Runner) (b : Nat) (rs : Replies), (kind = 1 ∨ kind = 2) → s.FreshNumbers →
    s.LadleReady kind who b →
    ∃ t, Machine.exec (if kind = 1 then .copy who rs else .move who rs) s = .next t ∧ t.mod.nextId = s.mod.nextId + 1 ∧
      (∃ k, t.mod.works = s.mod.works ++ [k] ∧ k.id = s.mod.nextId ∧ k.unit = .ladle ∧
        k.who = (match who with | .core n => .core n | .ring r i => .ring r i)) ∧
      (match who with
        | .core n => (t.mod.coreSt n).issued = none
        | .ring r i => ∀ x ∈ t.mod.hub.rings, x.ring = r → x.index = i → x.started = true)) ∧
  (∀ (s : State) (kind : Nat) (who : Runner) (b c d : Nat), (kind = 1 ∨ kind = 2) → s.FreshNumbers →
    s.LadleReady kind who b → s.mod.badLines = [] →
    s.OwnStretch (ldSrc b) (ldCount b) c true → s.OwnStretch (ldDst b) (ldCount b) d false →
    (kind = 1 → ldConverts b = false ∧ ldRclr b = false ∧ ldSrcPeer b = none ∧ ldDstPeer b = none ∧ ldSrcFmt b ≠ 15 ∧
      ∀ k, k < ldCount b → Mod.localOf (d + k) = none) →
    (kind = 2 → s.mod.heldOver s.mem c (ldCount b) = false ∧ ldCount b % 64 = 0 ∧ c % 64 = 0 ∧ d % 64 = 0 ∧
      ldSrc b % 64 = 0 ∧ ldDst b % 64 = 0 ∧ (c + ldCount b ≤ d ∨ d + ldCount b ≤ c) ∧
      (∀ k, k < ldCount b → isTierCell (c + k) = true ∧ isTierCell (d + k) = true)) →
    ∃ t, Machine.exec (if kind = 1 then .copy who [] else .move who []) s = .next t ∧
      memRead t.mem d (ldCount b) = memRead s.mem c (ldCount b) ∧ s.BytesBut d (ldCount b) t ∧
      (∃ k, t.mod.works = s.mod.works ++ [k] ∧ k.id = s.mod.nextId ∧ k.status = stOk ∧ k.open_ = 0) ∧
      (∀ l, t.mod.lineState l = if kind = 2 ∧ c ≤ 64 * l ∧ 64 * l < c + ldCount b then 1 else 0) ∧
      (∀ a, (∀ n, who = .core n → a ≠ Reg.MEM_TRK_USED (n / 96) ∧ a ≠ Reg.MEM_TRK_PEAK (n / 96) ∧ a ≠ Reg.CORE_STEP n ∧
        a ≠ Reg.CORE_MB n) → t.mod.rd a = s.mod.rd a) ∧
      (∀ n, who = .core n → t.mod.rdN (Reg.CORE_STEP n) =
        (s.mod.rdN (Reg.CORE_STEP n) + if (s.Ends n).1 then 1 else 0) % 2 ^ 32) ∧
      (s.mod.tables.hot = [] → t.mod.tables.hot = []) ∧
      t = { s with mem := t.mem, mod := { s.mod with
        regs := t.mod.regs, cores := t.mod.cores, works := t.mod.works, nextId := t.mod.nextId
        badLines := t.mod.badLines, hub := { s.mod.hub with rings := t.mod.hub.rings }
        tables := { s.mod.tables with trk := t.mod.tables.trk, hot := t.mod.tables.hot } } })

/-- Ladle work with every request answered completes with its status; a request without an answer frees its tracker
entry and counts. 16_descriptors_and_records.md R326, 11_memory_tiers.md R228, 11_memory_tiers.md R233,
18_host_loss_and_reattach.md R350, 19_power_and_thermal.md R370. -/
def Obligations.LadleCompletionAndTimeout : Prop :=
  (∀ (s : State) (k : Work), s.mod.findWork k.id = some k → k.unit = .ladle → k.open_ = 0 →
    (∀ n, k.who = .core n → s.mod.dieHalted (n / 96) = true → Machine.exec (.ladleComplete k.id) s = .next s) ∧
    (s.mod.workRetained k.id = false → (∀ n, k.who = .core n → s.mod.dieHalted (n / 96) = false) →
      ∃ t, Machine.exec (.ladleComplete k.id) s = .next t ∧
      t.mod.works = s.mod.works.filter (fun x => x.id != k.id) ∧
      (match k.who with
        | .core n => t.mod.comps = s.mod.comps ∧ t.mod.hub = s.mod.hub ∧
          (if k.status = stOk then t.mod.rdN (Reg.CORE_LD_OPS n) = min (s.mod.rdN (Reg.CORE_LD_OPS n) + 1) 0xFFFFFFFF
          else t.mod.rdN (Reg.CORE_LD_FAIL n) = min (s.mod.rdN (Reg.CORE_LD_FAIL n) + 1) 0xFFFFFFFF)
        | .ring r i => t.mod.comps = s.mod.comps ++
            [s.compOf r i k.status 0 (s.mod.ringTag r i).1 (s.mod.ringTag r i).2] ∧
          t.mod.hub = { s.mod.hub with rings := s.mod.hub.rings.filter (fun x => !(x.ring == r && x.index == i)) }) ∧
      (k.status = stHostEpochChanged →
        t.mod.rdN Reg.HIF_LOSS_VOID = min (s.mod.rdN Reg.HIF_LOSS_VOID + 1) 0xFFFFFFFF) ∧
      (∀ a, (∀ n, k.who = .core n → a ≠ Reg.CORE_LD_OPS n ∧ a ≠ Reg.CORE_LD_FAIL n) →
        (k.status = stHostEpochChanged → a ≠ Reg.HIF_LOSS_VOID) → t.mod.rd a = s.mod.rd a) ∧
      t = { s with mod := { s.mod with
        regs := t.mod.regs, works := t.mod.works, comps := t.mod.comps, hub := t.mod.hub } }) ∧
    (s.mod.workRetained k.id = true → (∀ n, k.who = .core n → s.mod.dieHalted (n / 96) = false) → ∃ t, Machine.exec (.ladleComplete k.id) s = .next t ∧
      t.mod.works = s.mod.works.map (fun x => if x.id = k.id then { x with retained := true } else x) ∧
      t = { s with mod := { s.mod with works := t.mod.works } })) ∧
  (∀ (s : State) (k : Work) (due : Nat), s.mod.findWork k.id = some k → k.unit = .ladle →
    Mod.earliest (k.due.map (·.1)) = some due → (∀ w ∈ s.mod.works, w.waits = []) →
    (s.mod.flag Fld.HEAT_RUNNING = false ∨ due ≤ tickAt s.mod.heat.base (s.mod.heatNo + 1) →
      ∃ t, Machine.exec (.ladleRequestTimeout k.id) s = .next t ∧
        t.mod.works = s.mod.works.map (fun x => if x.id = k.id then
          { x with due := x.due.eraseIdx (k.due.findIdx (fun y => y.1 == due))
                   status := Mod.ladleWorse x.status stTierTimeout } else x) ∧
        t.mod.heat = { s.mod.heat with time := BitVec.ofNat 64 (max s.mod.now due) } ∧
        (match k.who with
          | .core n => n < 384 → t.mod.trkHeld (n / 96) = s.mod.trkHeld (n / 96) - 1 ∧
              t.mod.rdN (Reg.MEM_REQ_TMO (n / 96)) = min (s.mod.rdN (Reg.MEM_REQ_TMO (n / 96)) + 1) 0xFFFFFFFF ∧
              s.RegsBut [Reg.MEM_TRK_USED (n / 96), Reg.MEM_TRK_PEAK (n / 96), Reg.MEM_REQ_TMO (n / 96)] t
          | .ring _ _ => t.mod.regs = s.mod.regs ∧ t.mod.tables = s.mod.tables) ∧
        t = { s with mod := { s.mod with regs := t.mod.regs, works := t.mod.works, heat := t.mod.heat
                                         tables := { s.mod.tables with trk := t.mod.tables.trk } } }) ∧
    (s.mod.flag Fld.HEAT_RUNNING = true → tickAt s.mod.heat.base (s.mod.heatNo + 1) < due →
      Machine.exec (.ladleRequestTimeout k.id) s = .next s))

/-- Enabling a submission ring sets its counts to zero, disabling it stops it, and a fetched descriptor is kept,
refused or completed as its check says. 15_host_interface.md R308, 16_descriptors_and_records.md R324,
16_descriptors_and_records.md R325, 16_descriptors_and_records.md R326, 20_casts_failures_and_recovery.md R406. The
model's own choices in it: log entries 91 and 133. -/
def Obligations.RingDescriptorsAndEnables : Prop :=
  (∀ (s : State) (r : Nat) (v : Word) (o : Origin) (en : Bool), r < 64 →
    (let x := if en then setBit v 31 else clearBit v 31
    let c : Instr := if en then .sqEnable r v o else .sqDisable r v o
    let busy := s.mod.sqOn r = true ∨ s.mod.flag (Fld.HIF_SQ_ACTIVE r) = true
    s.Accepts (Reg.HIF_SQ_CFG r) x o →
    (6 ≤ wordBits v 20 16 → wordBits v 20 16 ≤ 16 → (busy → wordBits v 20 16 = s.mod.fget (Fld.HIF_SQ_LOG2 r)) →
      ∃ t, Machine.exec c s = .next t ∧ s.Stored t (Reg.HIF_SQ_CFG r) x ∧ s.Journalled t (Reg.HIF_SQ_CFG r) x o ∧
        t.mod.sqOn r = en ∧
        (if en = true ∧ s.mod.sqOn r = false then
          t.mod.rdN (Reg.HIF_SQ_ACCEPTED r) = 0 ∧ t.mod.rdN (Reg.HIF_SQ_DONE r) = 0 ∧ t.mod.rdN (Reg.HIF_SQ_HELD r) = 0 ∧
          s.RegsBut [Reg.HIF_SQ_CFG r, Reg.HIF_SQ_ACCEPTED r, Reg.HIF_SQ_DONE r, Reg.HIF_SQ_HELD r] t
        else s.RegsBut [Reg.HIF_SQ_CFG r] t) ∧
        (if en = true ∧ s.mod.sqOn r = false then t.mod.hub.rings = s.mod.hub.rings ∧ t.mod.lastCount r = 0 ∧
          t.mod.overrunOf r = false
        else t.mod.hub.rings = s.mod.hub.rings.map (fun w =>
            if en = false ∧ s.mod.sqOn r = true ∧ w.ring = r ∧ w.started = false then { w with stopping := true } else w) ∧
          t.mod.lastCount r = s.mod.lastCount r) ∧
        (∀ k, k ≠ r → t.mod.lastCount k = s.mod.lastCount k ∧ t.mod.overrunOf k = s.mod.overrunOf k) ∧
        t = { s with mod := { s.mod with
          regs := t.mod.regs, jnlPend := t.mod.jnlPend, out := t.mod.out
          hub := { s.mod.hub with rings := t.mod.hub.rings, counts := t.mod.hub.counts, overrun := t.mod.hub.overrun } } }) ∧
    (wordBits v 20 16 < 6 ∨ 16 < wordBits v 20 16 → ∃ t, Machine.exec c s = .next t ∧
      s.Dropped t stMalformed (Reg.HIF_SQ_CFG r) x o) ∧
    (6 ≤ wordBits v 20 16 → wordBits v 20 16 ≤ 16 → busy → wordBits v 20 16 ≠ s.mod.fget (Fld.HIF_SQ_LOG2 r) →
      ∃ t, Machine.exec c s = .next t ∧ s.Dropped t stAccessDenied (Reg.HIF_SQ_CFG r) x o))) ∧
  (∀ (s : State) (r i : Nat) (w : RingWork) (body : Option (BitVec 512)), s.mod.ringWork r i = some w →
    w.body = none → w.started = false →
    ∃ t, Machine.exec (.descriptorFetch r i body) s = .next t ∧
      (match (if s.mod.detached = true then none else body) with
        | none => t.mod.comps = s.mod.comps ++ [s.compOf r i stTierError 0 0 0]
        | some v =>
          let code := s.mod.ladleError none (some (r, i)) v.toNat
          let done := fun (st err : Nat) => t.mod.comps = s.mod.comps ++
            [s.compOf r i st err (bitsOf v.toNat 127 64) (bitsOf v.toNat 7 0)] ∧ t.mod.ringWork r i = none
          if w.stopping = true then t.mod.comps = s.mod.comps ∧ t.mod.ringWork r i = some { w with body := some v }
          else if w.refused = true then done stBusyRefused 0
          else if code = 6 then done stAccessDenied 6
          else if code ≠ 0 then done stMalformed code
          else t.mod.comps = s.mod.comps ∧ t.mod.ringWork r i = some { w with body := some v }) ∧
      (∀ a b, ¬ (a = r ∧ b = i) → t.mod.ringWork a b = s.mod.ringWork a b) ∧
      t = { s with mod := { s.mod with
        comps := t.mod.comps, hub := { s.mod.hub with rings := t.mod.hub.rings } } }) ∧
  (∀ (s : State) (r i b : Nat), s.mod.ringDesc r i 8 = some b →
    ∃ t, Machine.exec (.nop r i) s = .next t ∧
      t.mod.comps = s.mod.comps ++ [s.compOf r i stOk 0 (bitsOf b 127 64) (bitsOf b 7 0)] ∧
      t.mod.ringWork r i = none ∧ (∀ x y, ¬ (x = r ∧ y = i) → t.mod.ringWork x y = s.mod.ringWork x y) ∧
      t = { s with mod := { s.mod with
        comps := t.mod.comps, hub := { s.mod.hub with rings := t.mod.hub.rings } } })

/-- A PATTERN_LOAD copies its image into the inactive bank and starts the check; with a switch armed or a load running
it is refused. 01_heat.md R18, 16_descriptors_and_records.md R324, 02_cores_and_patterns.md R61,
02_cores_and_patterns.md R39. The model's own choices in it: log entries 93 and 133. -/
def Obligations.PatternLoadFillsTheInactiveBank : Prop :=
  ∀ (s : State) (r i b : Nat), s.mod.ringDesc r i 7 = some b → Mod.plTarget b < 384 →
    (let n := Mod.plTarget b
    let bank := bankCell n (1 - s.mod.activeBank n)
    ((s.mod.flag (Fld.CORE_SWITCH_ARM n) = true ∨ (s.mod.coreSt n).loading.isSome = true) →
      (s.mod.clusterSt (n / 8)).missing = false → ∀ rs, ∃ t, Machine.exec (.patternLoad r i rs) s = .next t ∧
        t.mod.comps = s.mod.comps ++ [s.compOf r i stBusyRefused 0 (bitsOf b 127 64) (bitsOf b 7 0)] ∧
        t = { s with mod := { s.mod with
          comps := t.mod.comps, hub := { s.mod.hub with rings := t.mod.hub.rings } } }) ∧
    ((s.mod.clusterSt (n / 8)).missing = true → ∀ rs, Machine.exec (.patternLoad r i rs) s = .next s) ∧
    (∀ c, (s.mod.clusterSt (n / 8)).missing = false → s.mod.flag (Fld.CORE_SWITCH_ARM n) = false → (s.mod.coreSt n).loading = none → s.mod.badLines = [] →
      plSrc b % 64 = 0 → s.OwnStretch (plSrc b) 65536 c true →
      (∀ k, k < 65536 → s.mod.reach (globalOf s.mod (bank + k)) false = stOk) →
      ∃ t, Machine.exec (.patternLoad r i []) s = .next t ∧
        memRead t.mem bank 65536 = memRead s.mem c 65536 ∧ s.BytesBut bank 65536 t ∧
        t.mod.flag (Fld.CORE_VALIDATING n) = true ∧ t.mod.flag (Fld.CORE_INACTIVE_OK n) = false ∧
        t.mod.coreSt n = { s.mod.coreSt n with lastCheck := none, loading := some (r, i) } ∧
        t.mod.coreState n = s.mod.coreState n ∧ t.mod.activeBank n = s.mod.activeBank n ∧ t.mod.comps = s.mod.comps ∧
        (∀ k, k ≠ n → t.mod.coreSt k = s.mod.coreSt k) ∧ s.RegsBut [Reg.CORE_STATUS n] t ∧
        t = { s with mem := t.mem, mod := { s.mod with
          regs := t.mod.regs, cores := t.mod.cores, hub := { s.mod.hub with rings := t.mod.hub.rings } } }))

/-- A dense apply that its check lets pass rewrites master and moments by the rule; a suppressed one writes nothing;
one that must wait waits; a wrong one stops. 08_parameter_state.md R155, 08_parameter_state.md R157,
08_parameter_state.md R158, 08_parameter_state.md R160, 05_numerical_guard.md R114, 08_parameter_state.md R169. The
model's own choices in it: log entries 58, 59, 60 and 117. -/
def Obligations.DenseApplyUpdates : Prop :=
  (∀ (s : State) (n w pos b : Nat) (rs : Replies) (drift : Bool), n < 384 → s.FreshNumbers →
    s.mod.issuedFor n 7 = some (w, pos, b) → s.mod.coreApplies n 1 = [] → abKind b = 1 →
    (let at_ := s.mod.atIssue n (abRule b)
    let r := (s.mod.issuedWord n).rule
    let k := ruleMoments r
    let cnt := abCount b
    let sc := (placeCell (placeOf s.mod (abState b))).getD 0
    let gc := (placeCell (placeOf s.mod (abGrad b))).getD 0
    let wc := (placeCell (placeOf s.mod (abWork b))).getD 0
    let slen := 4 * cnt * (1 + k)
    let wlen := rowBytes (cvFmt (abConv b)) cnt
    (at_.applyError w b ≠ 0 → ∃ t, Machine.exec (.denseApply n rs drift) s = .next t ∧
      t.mod.rdN (Reg.CORE_OPT_ERR n) = at_.applyError w b ∧ (t.mod.coreSt n).stopMalformed = true ∧
      (t.mod.coreSt n).issued = none ∧ s.RegsBut [Reg.CORE_OPT_ERR n] t ∧
      t = { s with mod := { s.mod with regs := t.mod.regs, cores := t.mod.cores } }) ∧
    (at_.applyError w b = 0 →
    (∀ c, s.mod.denseCheck b r (s.mod.boundStep n) = some c → c.status = stOk → s.mod.badLines = [] →
      (∀ x ∈ [sc, gc, wc], s.mod.stackDown x = false) →
      (∀ y ∈ rs, (y.1 < abState b ∨ abState b + slen ≤ y.1) ∧ (y.1 < abGrad b ∨ abGrad b + 4 * cnt ≤ y.1)) →
      (sc + slen ≤ wc ∨ wc + wlen ≤ sc) →
      ∃ t, Machine.exec (.denseApply n rs drift) s = .next t ∧
        (let val := fun (c i : Nat) => f32Of (memNat s.mem (c + 4 * i) 4)
        let le := (s.mod.leOf (s.mod.boundStep n)).getD 0
        let new := fun (i : Nat) => denseElem (denseConst r (s.mod.boundStep n))
          ⟨val sc i, if 1 ≤ k then val (sc + 4 * cnt) i else valZero, if 2 ≤ k then val (sc + 8 * cnt) i else valZero⟩
          (f32Mul (val gc i) (scaleVal le))
        ∀ i, i < cnt → memNat t.mem (sc + 4 * i) 4 = f32Enc (new i).w % 2 ^ 32 ∧
          (1 ≤ k → memNat t.mem (sc + 4 * cnt + 4 * i) 4 = f32Enc (new i).m % 2 ^ 32) ∧
          (2 ≤ k → memNat t.mem (sc + 8 * cnt + 4 * i) 4 = f32Enc (new i).v % 2 ^ 32)) ∧
        (∀ x, (x < sc ∨ sc + slen ≤ x) → (x < wc ∨ wc + wlen ≤ x) → t.byteAt x = s.byteAt x) ∧
        t.mod.rdN Reg.MEM_OPT_APPLIED = min (s.mod.rdN Reg.MEM_OPT_APPLIED + 1) 0xFFFFFFFF ∧
        t.mod.rdN (Reg.CORE_OPT_OPS n) = min (s.mod.rdN (Reg.CORE_OPT_OPS n) + 1) 0xFFFFFFFF ∧
        t.mod.works = s.mod.works ∧ (t.mod.coreSt n).issued = none ∧
        t = { s with mem := t.mem, mod := { s.mod with
          regs := t.mod.regs, cores := t.mod.cores, nextId := t.mod.nextId, num := t.mod.num, events := t.mod.events
          free := t.mod.free, tables := { s.mod.tables with applies := t.mod.tables.applies } } }) ∧
    (∀ c, s.mod.denseCheck b r (s.mod.boundStep n) = some c → c.status ≠ stOk →
      ∃ t, Machine.exec (.denseApply n rs drift) s = .next t ∧ t.mem = s.mem ∧ t.mod.works = s.mod.works ∧
        t.mod.rdN (Reg.CORE_OPT_OPS n) = min (s.mod.rdN (Reg.CORE_OPT_OPS n) + 1) 0xFFFFFFFF ∧
        t.mod.rdN Reg.MEM_OPT_APPLIED = s.mod.rdN Reg.MEM_OPT_APPLIED ∧ (t.mod.coreSt n).issued = none ∧
        t = { s with mod := { s.mod with
          regs := t.mod.regs, cores := t.mod.cores, nextId := t.mod.nextId, num := t.mod.num, events := t.mod.events
          tables := { s.mod.tables with applies := t.mod.tables.applies, suppressed := t.mod.tables.suppressed } } }) ∧
    (s.mod.denseCheck b r (s.mod.boundStep n) = none →
      ∃ t, Machine.exec (.denseApply n rs drift) s = .next t ∧ t.mem = s.mem ∧
        (∃ x, t.mod.works = s.mod.works ++ [x] ∧ x.id = s.mod.nextId ∧ x.who = .core n ∧ x.unit = .optimiser) ∧
        ((s.mod.flag Fld.NUM_GUARD_EN = true ∧ s.mod.verdictOf (s.mod.boundStep n) = none) ∨
          s.mod.leOf (s.mod.boundStep n) = none → (t.mod.readValue Reg.NUM_STATUS).toNat % 2 = 1) ∧
        (t.mod.coreSt n).issued = none ∧ s.Advanced n [] t ∧
        t = { s with mod := { s.mod with
          regs := t.mod.regs, cores := t.mod.cores, works := t.mod.works, nextId := t.mod.nextId
          tables := { s.mod.tables with applies := t.mod.tables.applies } } })))) ∧
  (∀ (s : State) (k : Nat) (v : Word) (o : Origin), k < 256 → s.Accepts (Reg.MEM_OPT_CTRL k) (setBit v 31) o →
    ∃ t, Machine.exec (.memOptArm k v o) s = .next t ∧ s.Journalled t (Reg.MEM_OPT_CTRL k) (setBit v 31) o ∧
      t.mod.flag (Fld.MEM_OPT_ARM k) = true ∧ t.mod.flag (Fld.MEM_OPT_PEND k) = true ∧
      t.mod.fget (Fld.MEM_OPT_RULE k) = wordBits v 3 0 ∧
      t.mod.tables.ruleArms = s.mod.tables.ruleArms.filter (fun a => a.1 != k) ++ [(k, setBit v 31, o)] ∧
      (∀ i, t.mod.ruleOf i = s.mod.ruleOf i) ∧ s.RegsBut [Reg.MEM_OPT_CTRL k] t ∧
      t = { s with mod := { s.mod with
        regs := t.mod.regs, jnlPend := t.mod.jnlPend, out := t.mod.out
        tables := { s.mod.tables with ruleArms := t.mod.tables.ruleArms } } })

/-- A ledger drain takes its word, applies an entry whose norms pass to its row, frees it, and completes when none is
left. 08_parameter_state.md R164, 08_parameter_state.md R165, 08_parameter_state.md R166,
10_sparse_updates_and_hot_rows.md R203. The model's own choices in it: log entries 59, 60 and 117. -/
def Obligations.LedgerDrainApplies : Prop :=
  ∀ (s : State) (n w pos b : Nat), n < 384 → s.FreshNumbers → s.mod.issuedFor n 7 = some (w, pos, b) →
    s.mod.coreApplies n 2 = [] → (∀ x ∈ s.mod.works, x.who = .core n → x.posted = false) → abKind b = 2 →
    (let k := abLedger b
    let at_ := s.mod.atIssue n (abRule b)
    let r := (s.mod.issuedWord n).rule
    let heat := (s.mod.issuedWord n).heat
    let step := s.mod.boundStep n
    let o : OptWork := { work := s.mod.nextId, core := n, block := b, rule := r, heat := heat }
    let wk : Work := { id := s.mod.nextId, who := .core n, unit := .optimiser, pos := pos, heat := s.mod.boundHeat n
                       word := w, step := step, mb := s.mod.boundMb n, dst := [] }
    (∀ rs, at_.applyError w b ≠ 0 → ∃ t, Machine.exec (.ledgerDrain n rs) s = .next t ∧
      t.mod.rdN (Reg.CORE_OPT_ERR n) = at_.applyError w b ∧ (t.mod.coreSt n).stopMalformed = true ∧
      (t.mod.coreSt n).issued = none ∧ s.RegsBut [Reg.CORE_OPT_ERR n] t ∧
      t = { s with mod := { s.mod with regs := t.mod.regs, cores := t.mod.cores } }) ∧
    (at_.applyError w b = 0 → (s.mod.lgDelay k = 0 ∨ s.mod.capacityProfile = true) →
    (∀ rs, s.mod.drainDue s.mem o wk = [] → ∃ t, Machine.exec (.ledgerDrain n rs) s = .next t ∧
      t.mod.rdN (Reg.MEM_LG_DRAINED k) = (step + (2 ^ 32 - s.mod.lgDelay k)) % 2 ^ 32 ∧
      t.mod.rdN (Reg.CORE_OPT_OPS n) = min (s.mod.rdN (Reg.CORE_OPT_OPS n) + 1) 0xFFFFFFFF ∧
      t.mod.works = s.mod.works ∧ (t.mod.coreSt n).issued = none ∧ t.mem = s.mem ∧
      s.Advanced n [Reg.MEM_LG_DRAINED k, Reg.CORE_OPT_OPS n] t ∧
      t = { s with mod := { s.mod with
        regs := t.mod.regs, cores := t.mod.cores, nextId := t.mod.nextId
        tables := { s.mod.tables with applies := t.mod.tables.applies, ledgers := t.mod.tables.ledgers } } }) ∧
    (∀ rs i e, s.mod.drainDue s.mem o wk = [i] → s.mod.dirEntry (s.mod.lgTable k) = some e →
      Mod.leVersion s.mem (s.mod.lgCell k i) = tdVersion e → s.mod.badLines = [] → replyFor rs (globalOf s.mod (s.mod.lgCell k i)) = none →
      s.mod.stackDown (s.mod.lgCell k i) = false → s.mod.sramDown (s.mod.lgCell k i) = false →
      s.mod.drainCheck (s.mod.lgTable k) r (Mod.leStep s.mem (s.mod.lgCell k i)) = none →
      ∃ t, Machine.exec (.ledgerDrain n rs) s = .next t ∧ t.mem = s.mem ∧ (t.mod.coreSt n).issued = none ∧
        (∃ x, t.mod.works = s.mod.works ++ [x] ∧ x.id = s.mod.nextId ∧ x.who = .core n ∧ x.unit = .optimiser) ∧
        t.mod.rdN (Reg.MEM_LG_DRAINED k) = (step + (2 ^ 32 - s.mod.lgDelay k)) % 2 ^ 32 ∧
        s.Advanced n [Reg.MEM_LG_DRAINED k] t ∧
        t = { s with mod := { s.mod with
          regs := t.mod.regs, cores := t.mod.cores, works := t.mod.works, nextId := t.mod.nextId
          tables := { s.mod.tables with applies := t.mod.tables.applies, ledgers := t.mod.tables.ledgers } } }) ∧
    (∀ i e c q, s.Inv → s.mod.drainDue s.mem o wk = [i] → s.mod.dirEntry (s.mod.lgTable k) = some e →
      (let le := s.mod.lgCell k i
      let row := Mod.leRow s.mem le
      let len := rowBytes (tdFormat e) (tdDim e)
      Mod.leVersion s.mem le = tdVersion e → s.mod.drainCheck (s.mod.lgTable k) r (Mod.leStep s.mem le) = some q →
      q.status = stOk → r.rule = 3 → cvFmt (abConv b) = tdFormat e → s.mod.moveHolds (s.mod.lgTable k) row heat = false →
      s.mod.badLines = [] → s.mod.stackDown le = false → s.mod.sramDown le = false →
      (∀ h ∈ s.mod.tables.hold, Mod.heldForEntry k row (Mod.leStep s.mem le) h = false) →
      s.OwnStretch (s.mod.rowHome e (s.mod.lgTable k) row heat).1 len c true →
      s.OwnStretch (s.mod.rowHome e (s.mod.lgTable k) row heat).1 len c false → isTierCell c = true →
      0 < len → (∀ j, j < s.mod.lgCount k → c + len ≤ s.mod.lgCell k j ∨ s.mod.lgCell k j + s.mod.lgSize k ≤ c) →
      ∃ t, Machine.exec (.ledgerDrain n []) s = .next t ∧
        (let g := (s.mod.leOf (Mod.leStep s.mem le)).getD 0
        let gs := (Mod.readVals s.mem (le + 64) (tdDim e)).map (fun x => f32Mul x (scaleVal g))
        let xs := decodeRun (tdFormat e) 0 (memRead s.mem c len) (tdDim e)
        let new := (xs.zip gs).map (fun p => f32Fma (f32Of r.eta).neg p.2 p.1)
        let conv := insBits (abConv b) 7 7 0
        let modes := (List.range (tdDim e)).map (fun j =>
          cvMode conv (drawAt s.mod.seed step (cvPurpose conv) (s.mod.boundMb n) (row * tdDim e + j)))
        let out := (convRun conv new modes (memRead s.mem c len)
          ((s.mod.rowHome e (s.mod.lgTable k) row heat).1 % 2 ^ 51)).1
        memRead t.mem c out.length = out ∧
        (∀ x, (x < c ∨ c + out.length ≤ x) → x ≠ le + 14 → x ≠ le + 15 → t.byteAt x = s.byteAt x)) ∧
        Mod.leFlags t.mem le = Mod.leFlags s.mem le % 32768 ∧
        t.mod.rdN (Reg.MEM_LG_USED k) = s.mod.rdN (Reg.MEM_LG_USED k) - 1 ∧
        t.mod.rdN Reg.MEM_OPT_APPLIED = min (s.mod.rdN Reg.MEM_OPT_APPLIED + 1) 0xFFFFFFFF ∧
        t.mod.rdN (Reg.CORE_OPT_OPS n) = min (s.mod.rdN (Reg.CORE_OPT_OPS n) + 1) 0xFFFFFFFF ∧
        t.mod.works = s.mod.works ∧ (t.mod.coreSt n).issued = none ∧
        t = { s with mem := t.mem, mod := { s.mod with
          regs := t.mod.regs, cores := t.mod.cores, nextId := t.mod.nextId, num := t.mod.num, events := t.mod.events
          tables := { s.mod.tables with
            applies := t.mod.tables.applies, ledgers := t.mod.tables.ledgers, hot := t.mod.tables.hot } } }))))

/-- A lookup asks for every row, a row's landing or timeout ends its request, a bag is pooled once, and completion
leaves its record. 09_embedding_tables.md R179, 09_embedding_tables.md R181, 09_embedding_tables.md R182,
09_embedding_tables.md R183, 09_embedding_tables.md R184, 11_memory_tiers.md R228. The model's own choices in it: log
entries 69, 73, 113, 141 and 154. -/
def Obligations.LookupsRequestPoolAndComplete : Prop :=
  (∀ (s : State) (n p wait w pos b : Nat), n < 384 → p < 2 → s.mod.issuedFor n 3 = some (w, pos, b) →
    (s.mod.pickerOff (n / 8) p = false → s.mod.flag (Fld.PICK_BUSY (n / 8) p) = false →
      (s.mod.atIssue n 0).lookupError w b = 0 →
      ∃ (t : State) (u : Mod), Machine.exec (.pickerLookup n p wait) s = .next t ∧
      t = { s with mod := u.admitRows.inForce s.mod } ∧
      (∃ k, t.mod.works = s.mod.works ++ [k] ∧ k.id = s.mod.nextId ∧ k.who = .core n ∧ k.unit = .picker) ∧
      t.mod.flag (Fld.PICK_BUSY (n / 8) p) = true ∧ (t.mod.coreSt n).issued = none ∧ t.mod.nextId = s.mod.nextId + 1 ∧
      (∀ d, d < 4 → t.mod.trkHeld d ≤ max (s.mod.trkHeld d) (s.mod.rdN (Reg.MEM_TRK_DEPTH d))) ∧
      (∃ l, u.tables.lookups = s.mod.tables.lookups ++ [l] ∧ l.work = s.mod.nextId ∧ l.core = n ∧ l.picker = p ∧
        l.block = b ∧ l.heat = (s.mod.issuedWord n).heat ∧ l.pooled = [] ∧ (∀ q ∈ l.reqs, q.status = none ∧ q.due = none) ∧
        (tdStored l.entry = true → l.reqs.length + l.padding + l.oor.length = pkBags b * pkG b)) ∧
      u = { s.mod.atIssue n 0 with
        regs := u.regs, cores := u.cores, works := u.works, nextId := u.nextId, events := u.events
        tables := { (s.mod.atIssue n 0).tables with
          lookups := u.tables.lookups, sketch := u.tables.sketch, proposals := u.tables.proposals } }) ∧
    (s.mod.pickerOff (n / 8) p = false → s.mod.flag (Fld.PICK_BUSY (n / 8) p) = true →
      Machine.exec (.pickerLookup n p wait) s = .next s) ∧
    (s.mod.pickerOff (n / 8) p = true → ∃ t, Machine.exec (.pickerLookup n p wait) s = .next t ∧
      (t.mod.coreSt n).issued = none ∧ s.Advanced n [] t ∧
      t = { s with mod := { s.mod with regs := t.mod.regs, cores := t.mod.cores } }) ∧
    (s.mod.pickerOff (n / 8) p = false → s.mod.flag (Fld.PICK_BUSY (n / 8) p) = false →
      (s.mod.atIssue n 0).lookupError w b ≠ 0 →
      ∃ t, Machine.exec (.pickerLookup n p wait) s = .next t ∧
      t.mod.fget (Fld.PICK_ERR (n / 8) p) = (s.mod.atIssue n 0).lookupError w b ∧ (t.mod.coreSt n).stopMalformed = true ∧
      (t.mod.coreSt n).issued = none ∧ s.RegsBut [Reg.PICK_STATUS (n / 8) p] t ∧
      t = { s with mod := { s.mod with regs := t.mod.regs, cores := t.mod.cores } })) ∧
  (∀ (s : State) (l : Lookup) (k due : Nat) (q : RowReq), l.core < 384 → l.picker < 2 → s.mod.findLookup l.work = some l →
    (s.mod.findWork l.work).isSome = true → l.reqs[k]? = some q → q.status = none → q.due = some due →
    (let ended := fun (u v : Mod) (q' : RowReq) (st : Nat) (vals : List Val) =>
      u.findLookup l.work = some { l with reqs := l.reqs.zipIdx.map (fun x =>
        if x.2 == k then { q' with status := some st, vals := vals } else x.1) } ∧
      u.trkHeld (l.core / 96) = s.mod.trkHeld (l.core / 96) - 1 ∧
      u.rdN (Reg.PICK_ROW_FAIL (l.core / 8) l.picker) =
        (if st = stOk then s.mod.rdN (Reg.PICK_ROW_FAIL (l.core / 8) l.picker)
        else min (s.mod.rdN (Reg.PICK_ROW_FAIL (l.core / 8) l.picker) + 1) 0xFFFFFFFF) ∧
      u = { v with
        regs := u.regs, events := u.events, badLines := u.badLines
        tables := { v.tables with lookups := u.tables.lookups, trk := u.tables.trk, chans := u.tables.chans } }
    (∀ ans v st bytes m' (x : RowReq × Mod), s.mod.waitsRefresh l q = false → s.mod.servedHere l k q = some v →
      v.rechoose l q = x →
      (let route := if x.1.drup.isSome then RowRoute.serve x.1.addr false
        else v.rowRoute q.table q.row l.heat x.1.addr
      let e := Mod.reqEntry l q
      (∀ a fwd, route = .serve a fwd →
        (x.2.when (fwd && addrModule x.1.addr == v.self) (fun m => m.inc Reg.MEM_MV_FWD)).tierAns s.mem a (Mod.reqLen l q) ans = (.done st bytes, m') →
        ∃ (t : State) (u : Mod), Machine.exec (.rowLand l.work k ans) s = .next t ∧ t = { s with mod := (u.ladleResume (l.core / 96)).admitRows } ∧
          ended u s.mod { x.1 with addr := a } (Mod.rowStatus st)
            (if Mod.rowStatus st = stOk then (decodeRun (tdFormat e) 0 bytes (tdDim e)).map f32Round
            else List.replicate (tdDim e) .nan)) ∧
      (∀ i a fwd, route = .hold i a fwd →
        ∃ t, Machine.exec (.rowLand l.work k ans) s = .next t ∧ (i, MoveHeld.look l.work k) ∈ t.mod.tables.moveQueue ∧
          t.mod.findLookup l.work = some { l with reqs := l.reqs.zipIdx.map (fun y =>
            if y.2 == k then { x.1 with addr := a } else y.1) } ∧
          t = { s with mod := { s.mod with
            regs := t.mod.regs
            tables := { s.mod.tables with lookups := t.mod.tables.lookups, chans := t.mod.tables.chans
                                          moveQueue := t.mod.tables.moveQueue } } }))) ∧
    (s.mod.flag Fld.HEAT_RUNNING = false ∨ due ≤ tickAt s.mod.heat.base (s.mod.heatNo + 1) →
      ∃ (t : State) (u : Mod), Machine.exec (.pickerRowTimeout l.work k) s = .next t ∧
        t = { s with mod := (u.ladleResume (l.core / 96)).admitRows } ∧
        ended u (s.mod.passTo due) q stTierTimeout (List.replicate (tdDim (Mod.reqEntry l q)) .nan)))) ∧
  (∀ (s : State) (l : Lookup) (b : Nat), l.core < 384 → l.picker < 2 → s.mod.findLookup l.work = some l →
    (s.mod.findWork l.work).isSome = true → s.mod.dieHalted (l.core / 96) = false → b < pkBags l.block → l.pooled.any (fun p => p.1 == b) = false →
    (∀ q ∈ l.reqs, b * pkG l.block ≤ q.pos → q.pos < b * pkG l.block + pkG l.block → q.status.isSome = true) →
    ∃ t, Machine.exec (.bagPool l.work b) s = .next t ∧
      (let width := Mod.lookupWidth l
      let d := Mod.pkDest l
      (∃ x, t.mod.findLookup l.work = some x ∧ x = { l with denied := x.denied
                                                            pooled := l.pooled ++ [(b, Mod.bagOut l width b)] }) ∧
      s.BytesBut (d.span (pkBags l.block) width).addr (d.span (pkBags l.block) width).len t ∧
      (opSpace (pkD l.block) = 0 → d.t = false → pkConv l.block = 1 → 4 * width ≤ 64 * d.pitch →
        64 * opBase (pkD l.block) + 64 * d.pitch * b + 4 * width ≤ 0x1000000 →
        ∀ k, k < width → memNat t.mem (d.at_ + 64 * d.pitch * b + 4 * k) 4 =
          f32Enc ((Mod.bagOut l width b).getD k valZero) % 2 ^ 32)) ∧
      t = { s with mem := t.mem, mod := { s.mod with
        regs := t.mod.regs, events := t.mod.events, num := t.mod.num
        tables := { s.mod.tables with lookups := t.mod.tables.lookups } } }) ∧
  (∀ (s : State) (l : Lookup) (k : Work), l.core < 384 → l.picker < 2 → s.mod.findLookup l.work = some l →
    s.mod.findWork l.work = some k → k.who = .core l.core → k.unit = .picker → l.pooled.length = pkBags l.block →
    s.mod.dieHalted (l.core / 96) = false →
    ∃ t, Machine.exec (.lookupComplete l.work) s = .next t ∧
      t.mod.works = s.mod.works.filter (fun x => x.id != l.work) ∧
      (lsSpace (pkStat l.block) = 0 →
        memRead t.mem (listCell l.core (pkStat l.block)) 16 = Mod.lookupRecord l) ∧
      s.BytesBut (listCell l.core (pkStat l.block)) 16 t ∧
      (l.reqs.all (fun q => q.status.isSome) = true →
        t.mod.tables.lookups = s.mod.tables.lookups.filter (fun x => x.work != l.work)) ∧
      t.mod.rdN (Reg.PICK_LOOKUPS (l.core / 8) l.picker) =
        min (s.mod.rdN (Reg.PICK_LOOKUPS (l.core / 8) l.picker) + 1) 0xFFFFFFFF ∧
      t = { s with mem := t.mem, mod := { s.mod with
        regs := t.mod.regs, works := t.mod.works
        tables := { s.mod.tables with lookups := t.mod.tables.lookups } } })

/-- Directory, hot-map, moved-row and bucket operations are armed with their shadow and heat, or refused with their
code; drains clear when free. 09_embedding_tables.md R185, 09_embedding_tables.md R186, 09_embedding_tables.md R188,
09_embedding_tables.md R190, 10_sparse_updates_and_hot_rows.md R214, 10_sparse_updates_and_hot_rows.md R216,
14_collectives_and_job_mapping.md R279. The model's own choices in it: log entry 87. -/
def Obligations.MapOperationsAreArmed : Prop :=
  (∀ (s : State) (v : Word) (o : Origin), ∀ p ∈ [(Instr.install v o, 0), (.switch v o, 1), (.retire v o, 2)],
    (let x := setOp v p.2
    s.Accepts Reg.MEM_TD_CMD x o →
    (s.mod.tdArmError p.2 = 0 → ∃ t, Machine.exec p.1 s = .next t ∧ s.Journalled t Reg.MEM_TD_CMD x o ∧
      t.mod.dirOp s.mod.tdSel = some ⟨p.2, s.mod.tdAt, s.mod.shadowOf (Reg.MEM_TD_SHADOW 0) 16, x, o, true⟩ ∧
      (∀ i, i ≠ s.mod.tdSel → t.mod.dirOp i = s.mod.dirOp i) ∧ (∀ i, t.mod.dirEntry i = s.mod.dirEntry i) ∧
      t.mod.fget Fld.MEM_TD_OP = p.2 ∧ s.RegsBut [Reg.MEM_TD_CMD] t ∧
      t = { s with mod := { s.mod with regs := t.mod.regs, jnlPend := t.mod.jnlPend, out := t.mod.out
                                       tables := { s.mod.tables with dirOps := t.mod.tables.dirOps } } }) ∧
    (s.mod.tdArmError p.2 ≠ 0 → ∃ t, Machine.exec p.1 s = .next t ∧
      t.mod.rdN Reg.MEM_TD_ERR = s.mod.tdArmError p.2 ∧
      t.mod.jnlPend = s.mod.jnlPend ++ [s.entryOf (Mod.dirStatus (s.mod.tdArmError p.2)) Reg.MEM_TD_CMD x o] ∧
      t.mod.out = s.mod.out ++ State.replyOf (Mod.dirStatus (s.mod.tdArmError p.2)) o ∧
      (∀ i, t.mod.dirOp i = if i = s.mod.tdSel then (s.mod.dirOp i).map (fun y => { y with armed := false }) else s.mod.dirOp i) ∧
      s.RegsBut [Reg.MEM_TD_ERR] t ∧
      t = { s with mod := { s.mod with regs := t.mod.regs, jnlPend := t.mod.jnlPend, out := t.mod.out
                                       tables := { s.mod.tables with dirOps := t.mod.tables.dirOps } } }))) ∧
  (∀ (s : State) (v : Word) (o : Origin), ∀ p ∈ [(Instr.promote v o, 0), (.demote v o, 1)],
    (let x := setOp v p.2
    s.Accepts Reg.MEM_HOT_CMD x o →
    (s.mod.hotArmError p.2 = 0 → ∃ t, Machine.exec p.1 s = .next t ∧ s.Journalled t Reg.MEM_HOT_CMD x o ∧
      t.mod.hotOp s.mod.hotSel = some ⟨p.2, s.mod.hotAt, s.mod.shadowOf (Reg.MEM_HOT_SHADOW 0) 32, x, o, true⟩ ∧
      (∀ i, i ≠ s.mod.hotSel → t.mod.hotOp i = s.mod.hotOp i) ∧ s.RegsBut [Reg.MEM_HOT_CMD] t ∧
      t = { s with mod := { s.mod with regs := t.mod.regs, jnlPend := t.mod.jnlPend, out := t.mod.out
                                       tables := { s.mod.tables with hotOps := t.mod.tables.hotOps } } }) ∧
    (s.mod.hotArmError p.2 ≠ 0 → ∃ t, Machine.exec p.1 s = .next t ∧
      t.mod.rdN Reg.MEM_HOT_ERR = s.mod.hotArmError p.2 ∧
      t.mod.jnlPend = s.mod.jnlPend ++ [s.entryOf stMalformed Reg.MEM_HOT_CMD x o] ∧
      t.mod.out = s.mod.out ++ State.replyOf stMalformed o ∧
      (∀ i, t.mod.hotOp i = if i = s.mod.hotSel then (s.mod.hotOp i).map (fun y => { y with armed := false }) else s.mod.hotOp i) ∧
      s.RegsBut [Reg.MEM_HOT_ERR] t ∧
      t = { s with mod := { s.mod with regs := t.mod.regs, jnlPend := t.mod.jnlPend, out := t.mod.out
                                       tables := { s.mod.tables with hotOps := t.mod.tables.hotOps } } }))) ∧
  (∀ (s : State) (v : Word) (o : Origin), s.Accepts Reg.MEM_MV_CMD (setBit v 31) o →
    (s.mod.moveArmError = 0 → ∃ t, Machine.exec (.moveRowArm v o) s = .next t ∧
      s.Journalled t Reg.MEM_MV_CMD (setBit v 31) o ∧
      t.mod.movedOp s.mod.mvSel = some ⟨0, s.mod.mvAt, s.mod.shadowOf (Reg.MEM_MV_SHADOW 0) 4, setBit v 31, o, true⟩ ∧
      (∀ i, i ≠ s.mod.mvSel → t.mod.movedOp i = s.mod.movedOp i) ∧
      t = { s with mod := { s.mod with jnlPend := t.mod.jnlPend, out := t.mod.out
                                       tables := { s.mod.tables with movedOps := t.mod.tables.movedOps } } }) ∧
    (s.mod.moveArmError ≠ 0 → ∃ t, Machine.exec (.moveRowArm v o) s = .next t ∧
      t.mod.rdN Reg.MEM_MV_ERR = s.mod.moveArmError ∧
      t.mod.jnlPend = s.mod.jnlPend ++ [s.entryOf stMalformed Reg.MEM_MV_CMD (setBit v 31) o] ∧
      t.mod.out = s.mod.out ++ State.replyOf stMalformed o ∧
      (∀ i, t.mod.movedOp i =
        if i = s.mod.mvSel then (s.mod.movedOp i).map (fun y => { y with armed := false }) else s.mod.movedOp i) ∧
      s.RegsBut [Reg.MEM_MV_ERR] t ∧
      t = { s with mod := { s.mod with regs := t.mod.regs, jnlPend := t.mod.jnlPend, out := t.mod.out
                                       tables := { s.mod.tables with movedOps := t.mod.tables.movedOps } } })) ∧
  (∀ (s : State) (v : Word) (o : Origin), ∀ p ∈ [(Instr.bucketInstall v o, 0), (.bucketRemove v o, 1)],
    (let x := setOp v p.2
    let st := s.mod.bucketOpStatus s.mod.bkSel p.2 s.mod.bkShadow
    s.Accepts Reg.COL_BK_CMD x o →
    (st = stOk → ∃ t, Machine.exec p.1 s = .next t ∧ s.Journalled t Reg.COL_BK_CMD x o ∧
      tabGet (fun _ => none) t.mod.col.ops s.mod.bkSel = some ⟨p.2, 0, s.mod.bkShadow, x, o, true⟩ ∧
      (∀ b, t.mod.bucketEntry b = s.mod.bucketEntry b) ∧ s.RegsBut [Reg.COL_BK_CMD] t ∧
      t = { s with mod := { s.mod with regs := t.mod.regs, jnlPend := t.mod.jnlPend, out := t.mod.out
                                       col := { s.mod.col with ops := t.mod.col.ops } } }) ∧
    (st ≠ stOk → ∃ t, Machine.exec p.1 s = .next t ∧
      t = { s with mod := { s.mod with
        jnlPend := s.mod.jnlPend ++ [s.entryOf st Reg.COL_BK_CMD x o], out := s.mod.out ++ State.replyOf st o
        col := { s.mod.col with ops := s.mod.col.ops.map (fun y =>
          (y.1, y.2.map (fun z => { z with armed := false }))) } } }))) ∧
  (∀ (s : State) (v : Word) (o : Origin), s.Accepts Reg.MEM_TD_MAP_HI v o →
    (s.mod.mapInUse s.mod.mapSel = false → s.mod.rdN Reg.MEM_TD_MAP_LO % 64 = 0 →
      ∃ t, Machine.exec (.homeMapWrite v o) s = .next t ∧ s.Stored t Reg.MEM_TD_MAP_HI v ∧
        s.Journalled t Reg.MEM_TD_MAP_HI v o ∧ t.mod.mapEntry s.mod.mapSel = t.mod.rd64 Reg.MEM_TD_MAP_LO ∧
        (∀ k, k ≠ s.mod.mapSel → t.mod.mapEntry k = s.mod.mapEntry k) ∧ s.RegsBut [Reg.MEM_TD_MAP_HI] t ∧
        t = { s with mod := { s.mod with regs := t.mod.regs, jnlPend := t.mod.jnlPend, out := t.mod.out
                                         tables := { s.mod.tables with homeMap := t.mod.tables.homeMap } } }) ∧
    (s.mod.mapInUse s.mod.mapSel = true ∨ s.mod.rdN Reg.MEM_TD_MAP_LO % 64 ≠ 0 →
      ∃ t, Machine.exec (.homeMapWrite v o) s = .next t ∧
        s.Dropped t (if s.mod.mapInUse s.mod.mapSel = true then stAccessDenied else stMalformed) Reg.MEM_TD_MAP_HI v o)) ∧
  (∀ (s : State) (i h : Nat),
    (tabGet (fun _ => none) s.mod.tables.dirDrain i = some h →
      ∃ t, Machine.exec (.memTdDrainClear i) s = .next t ∧
        (tabGet (fun _ => none) t.mod.tables.dirDrain i = none ↔
          (∀ l ∈ s.mod.tables.lookups, (l.table = i ∨ l.partA = some i ∨ l.partB = some i) → l.heat < h →
            ∀ q ∈ l.reqs, q.status.isSome = true) ∧ s.mod.issuedNames i h = false) ∧
        (∀ k, k ≠ i → tabGet (fun _ => none) t.mod.tables.dirDrain k = tabGet (fun _ => none) s.mod.tables.dirDrain k) ∧
        t = { s with mod := { s.mod with tables := { s.mod.tables with dirDrain := t.mod.tables.dirDrain } } }) ∧
    (tabGet (fun _ => none) s.mod.tables.hotDrain i = some h →
      ∃ t, Machine.exec (.memHotDrainClear i) s = .next t ∧
        (tabGet (fun _ => none) t.mod.tables.hotDrain i = none ↔
          ∀ l ∈ s.mod.tables.lookups, l.heat < h →
            ∀ q ∈ l.reqs, q.drup.map (·.1) = some i → q.status.isSome = true) ∧
        (∀ k, k ≠ i → tabGet (fun _ => none) t.mod.tables.hotDrain k = tabGet (fun _ => none) s.mod.tables.hotDrain k) ∧
        t = { s with mod := { s.mod with tables := { s.mod.tables with hotDrain := t.mod.tables.hotDrain } } }))

/-- A contribution starts its rows, each row ends with its home's outcome or its timeout, and the whole leaves its
status record. 10_sparse_updates_and_hot_rows.md R195, 10_sparse_updates_and_hot_rows.md R196,
10_sparse_updates_and_hot_rows.md R198, 10_sparse_updates_and_hot_rows.md R199, 10_sparse_updates_and_hot_rows.md
R200, 08_parameter_state.md R163, 08_parameter_state.md R164, 11_memory_tiers.md R228. The model's own choices in it:
log entries 63, 113 and 141. -/
def Obligations.ContributionsReachTheirHomes : Prop :=
  (∀ (s : State) (n p wait w pos b : Nat), n < 384 → p < 2 → s.mod.issuedFor n 6 = some (w, pos, b) →
    (s.mod.pickerOff (n / 8) p = false → s.mod.flag (Fld.PICK_BUSY (n / 8) p) = false →
      (s.mod.atIssue n 0).contribError w b = 0 →
      ∃ (t : State) (u : Mod), Machine.exec (.contribution n p wait) s = .next t ∧
      t = { s with mod := u.admitRows.inForce s.mod } ∧
      (∃ k, t.mod.works = s.mod.works ++ [k] ∧ k.id = s.mod.nextId ∧ k.who = .core n ∧ k.unit = .crucible) ∧
      t.mod.flag (Fld.PICK_BUSY (n / 8) p) = true ∧ (t.mod.coreSt n).issued = none ∧ t.mod.nextId = s.mod.nextId + 1 ∧
      (∀ d, d < 4 → t.mod.trkHeld d ≤ max (s.mod.trkHeld d) (s.mod.rdN (Reg.MEM_TRK_DEPTH d))) ∧
      (∃ c, u.tables.contribs = s.mod.tables.contribs ++ [c] ∧ c.work = s.mod.nextId ∧ c.core = n ∧ c.picker = p ∧
        c.block = b ∧ (∀ x ∈ c.rows, x.due = none ∧ x.landed = false) ∧
        (ccKind b = 2 → c.rows.length + c.oor ≤ ccRows b * ccG b) ∧
        (ccKind b = 1 → c.oor = 0 ∧ c.rows.length = ccRows b ∧ ∀ r, r < ccRows b → ∃ x, c.rows[r]? = some x ∧
          x.far.addr = ccDest b + r * ccDPitch b * crBytes (ccFmt b) ∧ x.far.vals = (s.mod.atIssue n 0).ccSource s.mem n b r ∧
          x.far.heat = (s.mod.issuedWord n).heat ∧ x.far.time = (s.mod.issuedWord n).time ∧
          x.outcome = (if addrModule x.far.addr = s.mod.self ∨ s.mod.moduleReachable (addrModule x.far.addr) = true then none
            else some stTierError))) ∧
      u = { s.mod.atIssue n 0 with
        regs := u.regs, cores := u.cores, works := u.works, nextId := u.nextId
        tables := { (s.mod.atIssue n 0).tables with contribs := u.tables.contribs } }) ∧
    (s.mod.pickerOff (n / 8) p = false → s.mod.flag (Fld.PICK_BUSY (n / 8) p) = true →
      Machine.exec (.contribution n p wait) s = .next s) ∧
    (s.mod.pickerOff (n / 8) p = false → s.mod.flag (Fld.PICK_BUSY (n / 8) p) = false →
      (s.mod.atIssue n 0).contribError w b ≠ 0 →
      ∃ t, Machine.exec (.contribution n p wait) s = .next t ∧
        t.mod.rdN (Reg.CORE_CR_ERR n) = (s.mod.atIssue n 0).contribError w b ∧ (t.mod.coreSt n).stopMalformed = true ∧
        (t.mod.coreSt n).issued = none ∧ s.RegsBut [Reg.CORE_CR_ERR n] t ∧
        t = { s with mod := { s.mod with regs := t.mod.regs, cores := t.mod.cores } }) ∧
    (s.mod.pickerOff (n / 8) p = true → ∃ t, Machine.exec (.contribution n p wait) s = .next t ∧
      (t.mod.coreSt n).issued = none ∧ s.Advanced n [] t ∧
      t = { s with mod := { s.mod with regs := t.mod.regs, cores := t.mod.cores } })) ∧
  (∀ (s : State) (c : Contribution) (k due : Nat) (r : ContribRow), c.core < 384 → c.picker < 2 →
    s.mod.findContrib c.work = some c → (s.mod.findWork c.work).isSome = true → c.rows[k]? = some r → r.outcome = none →
    r.due = some due →
    (let ended := fun (u v : Mod) (st : Nat) (landed : Bool) =>
      u.findContrib c.work = some { c with rows := c.rows.zipIdx.map (fun x =>
        if x.2 == k then { x.1 with outcome := some (Mod.ccStatus st), landed := landed } else x.1) } ∧
      u.trkHeld (c.core / 96) = v.trkHeld (c.core / 96) - (if r.track = true then 1 else 0) ∧
      u.rdN Reg.MEM_CR_FAIL = (if Mod.ccStatus st = stTierTimeout ∨ Mod.ccStatus st = stTierError then
        min (v.rdN Reg.MEM_CR_FAIL + 1) 0xFFFFFFFF else v.rdN Reg.MEM_CR_FAIL) ∧
      u = { v with regs := u.regs, tables := { v.tables with contribs := u.tables.contribs, trk := u.tables.trk } }
    let len := r.far.vals.length * crBytes r.far.dfmt
    let turn := if s.mod.reach r.far.addr false ≠ stOk then some (s.mod.leaveQueue r.far.addr len (.contrib c.work k))
      else s.mod.serve r.far.addr len (.contrib c.work k)
    (∀ ans v mem m, r.landed = false → addrModule r.far.addr = s.mod.self → s.mod.rowBehind c k r = false →
      turn = some v →
      (∀ st, v.homeRow s.mem r.far ans = (mem, m, .ended st) →
        ∃ (t : State) (u : Mod), Machine.exec (.contributionRow (.own c.work k ans)) s = .next t ∧ ended u m st true ∧
          t = { s with mem := mem, mod := (u.ladleResume (c.core / 96)).admitRows }) ∧
      (v.homeRow s.mem r.far ans = (mem, m, .away) →
        ∃ t, Machine.exec (.contributionRow (.own c.work k ans)) s = .next t ∧
          t.mod.findContrib c.work = some { c with rows := c.rows.zipIdx.map (fun x =>
            if x.2 == k then { x.1 with landed := true } else x.1) } ∧
          t = { s with mem := mem, mod := { m with
            regs := t.mod.regs, tables := { m.tables with contribs := t.mod.tables.contribs } } }) ∧
      (∀ i a, v.homeRow s.mem r.far ans = (mem, m, .held i a) →
        ∃ t, Machine.exec (.contributionRow (.own c.work k ans)) s = .next t ∧
          (i, MoveHeld.own c.work k) ∈ t.mod.tables.moveQueue ∧
          t.mod.findContrib c.work = some { c with rows := c.rows.zipIdx.map (fun x =>
            if x.2 == k then { x.1 with landed := true, far := { x.1.far with addr := a } } else x.1) } ∧
          t = { s with mem := mem, mod := { m with
            regs := t.mod.regs
            tables := { m.tables with contribs := t.mod.tables.contribs, moveQueue := t.mod.tables.moveQueue } } })) ∧
    (∀ st, addrModule r.far.addr ≠ s.mod.self ∨ r.landed = true →
      ∃ (t : State) (u : Mod), Machine.exec (.contributionRow (.ack c.work k st)) s = .next t ∧ ended u s.mod st true ∧
        t = { s with mod := (u.ladleResume (c.core / 96)).admitRows }) ∧
    (s.mod.flag Fld.HEAT_RUNNING = false ∨ due ≤ tickAt s.mod.heat.base (s.mod.heatNo + 1) →
      ∃ (t : State) (u : Mod), Machine.exec (.contributionRowTimeout c.work k) s = .next t ∧
        ended u (s.mod.passTo due) stTierTimeout r.landed ∧
        t = { s with mod := (u.ladleResume (c.core / 96)).admitRows }))) ∧
  (∀ (s : State) (src k i tab e c : Nat) (r : FarRow), k < 64 → r.table = some tab → addrModule r.addr = s.mod.self →
    s.mod.rowRoute tab r.row r.heat r.addr = .serve r.addr false →
    s.mod.dirEntry tab = some e → tdVersion e = r.version → s.mod.reach r.addr false = stOk →
    placeCell (placeOf s.mod r.addr) = some c → isTierCell c = true → s.mod.homeRefused c = false →
    s.mod.lgSlot tab = some k → s.mod.lgDelay k = 0 ∨ s.mod.capacityProfile = true →
    (∀ d, (s.mod.lgSt k).drained = some d → laterStep r.step d = true) → r.ordered = false →
    s.mod.lgFind s.mem k r.row r.step = none → s.mod.lgFree s.mem k = some i → r.sfmt = 1 ∨ r.sfmt = 2 →
    r.vals.length ≤ tdDim e → s.mod.badLines = [] → s.mod.lgCell k i + s.mod.lgSize k ≤ sramBase →
    ∃ t, Machine.exec (.contributionRow (.arrive src r none)) s = .next t ∧
      (let le := s.mod.lgCell k i
      Mod.leRow t.mem le = r.row % 2 ^ 40 ∧ Mod.leStep t.mem le = r.step % 2 ^ 32 ∧
      Mod.leVersion t.mem le = r.version % 2 ^ 16 ∧ Mod.leFlags t.mem le = (32768 + tab) % 2 ^ 16 ∧
      memNat t.mem (le + 16) 4 = 1 ∧
      (∀ j v, r.vals[j]? = some v → memNat t.mem (le + 64 + 4 * j) 4 = (crAdd 1 r.sfmt 0 v).1 % 2 ^ 32) ∧
      s.BytesBut le (s.mod.lgSize k) t) ∧
      t.mod.rdN (Reg.MEM_LG_USED k) = (s.mod.rdN (Reg.MEM_LG_USED k) + 1) % 2 ^ 32 ∧
      t.mod.out = s.mod.out ++ [.ack src stOk r] ∧ s.RegsBut [Reg.MEM_LG_USED k] t ∧
      t = { s with mem := t.mem, mod := { s.mod with regs := t.mod.regs, out := t.mod.out } }) ∧
  (∀ (s : State) (c : Contribution) (k : Work), c.core < 384 → c.picker < 2 → s.mod.findContrib c.work = some c →
    s.mod.findWork c.work = some k → k.who = .core c.core → k.unit = .crucible →
    c.rows.all (fun r => r.outcome.isSome) = true →
    ∃ t, Machine.exec (.contributionComplete c.work) s = .next t ∧
      t.mod.works = s.mod.works.filter (fun x => x.id != c.work) ∧
      (lsSpace (ccStat c.block) = 0 →
        memRead t.mem (listCell c.core (ccStat c.block)) 16 = Mod.contribRecord c) ∧
      s.BytesBut (listCell c.core (ccStat c.block)) 16 t ∧
      (c.rows.all (fun r => !s.mod.mayLand r) = true →
        t.mod.tables.contribs = s.mod.tables.contribs.filter (fun x => x.work != c.work)) ∧
      t.mod.rdN (Reg.CORE_CR_OPS c.core) = min (s.mod.rdN (Reg.CORE_CR_OPS c.core) + 1) 0xFFFFFFFF ∧
      t = { s with mem := t.mem, mod := { s.mod with
        regs := t.mod.regs, works := t.mod.works
        tables := { s.mod.tables with contribs := t.mod.tables.contribs } } })

/-- ADD puts the rounded or saturated sum into each element; READ_CLEAR returns the bytes after their fold and leaves
zeros. 10_sparse_updates_and_hot_rows.md R192, 10_sparse_updates_and_hot_rows.md R193,
10_sparse_updates_and_hot_rows.md R203, 20_casts_failures_and_recovery.md R406. The model's own choices in it: log
entry 75. -/
def Obligations.CrucibleAddAndReadClear : Prop :=
  (∀ (s : State) (a df sf c : Nat) (codes : List Nat), placeCell (placeOf s.mod a) = some c → isTierCell c = true →
    crPairOk df sf = true → c % crBytes df = 0 → s.mod.reach a false = stOk →
    (∀ ans, s.mod.homeRefused c = true → Machine.exec (.crucibleAdd a df sf (codes, ans)) s = .next s) ∧
    (∀ x, answerStatus x ≠ stOk → (∀ o, x ≠ .uncorrectable o) →
      Machine.exec (.crucibleAdd a df sf (codes, some x)) s = .next s) ∧
    (s.mod.homeRefused c = false → s.mod.badLines = [] →
      ∃ t, Machine.exec (.crucibleAdd a df sf (codes, none)) s = .next t ∧
        (let e := crBytes df
        (∀ k v, codes[k]? = some v →
          memNat t.mem (c + e * k) e = (crAdd df sf (memNat s.mem (c + e * k) e) v).1 % 2 ^ (8 * e)) ∧
        s.BytesBut c (e * codes.length) t ∧
        t.mod.rdN Reg.MEM_CR_INT_SAT = min (s.mod.rdN Reg.MEM_CR_INT_SAT +
          (codes.zipIdx.filter (fun x => (crAdd df sf (memNat s.mem (c + e * x.2) e) x.1).2)).length) 0xFFFFFFFF) ∧
        s.RegsBut [Reg.MEM_CR_INT_SAT] t ∧ t = { s with mem := t.mem, mod := { s.mod with regs := t.mod.regs } })) ∧
  (∀ (s : State) (src a f n c : Nat), placeCell (placeOf s.mod a) = some c → isTierCell c = true →
    crFmtOk f = true → c % crBytes f = 0 → s.mod.reach a false = stOk →
    (let len := n * crBytes f
    (∀ ans, s.mod.homeRefused c = true → ∃ t, Machine.exec (.readClear src a f (n, ans)) s = .next t ∧
      t = { s with mod := { s.mod with out := s.mod.out ++ [.packet src 4 (leBytes 1 stBusyRefused)] } }) ∧
    (∀ x, s.mod.homeRefused c = false → s.mod.badIn c len = false → answerStatus x ≠ stOk → (∀ o, x ≠ .uncorrectable o) →
      ∃ t, Machine.exec (.readClear src a f (n, some x)) s = .next t ∧
        t = { s with mod := { s.mod with out := s.mod.out ++ [.packet src 4 (leBytes 1 (answerStatus x))] } }) ∧
    (s.mod.homeRefused c = false → s.mod.badIn c len = false → s.mod.heldIn c len = false →
      ∃ t, Machine.exec (.readClear src a f (n, none)) s = .next t ∧
        t.mod.out = s.mod.out ++ [.packet src 4 (leBytes 1 stOk ++ memRead s.mem c len)] ∧
        memRead t.mem c len = List.replicate len 0 ∧ s.BytesBut c len t ∧
        t = { s with mem := t.mem, mod := { s.mod with out := t.mod.out } }) ∧
    (∀ r x v, s.mod.homeRefused c = false → s.mod.badIn c len = false → 0 < len → c / 64 = (c + len - 1) / 64 →
      s.mod.tables.hold = [r] → r.els = [(x, v)] → r.dest = .addr x → c ≤ x → x + crBytes r.dfmt ≤ c + len →
      ∃ t, Machine.exec (.readClear src a f (n, none)) s = .next t ∧
        t.mod.out = s.mod.out ++ [.packet src 4 (leBytes 1 stOk ++ memRead (memWrite s.mem x
          (leBytes (crBytes r.dfmt) (crAdd r.dfmt r.sfmt (memNat s.mem x (crBytes r.dfmt)) v).1)) c len)] ∧
        memRead t.mem c len = List.replicate len 0 ∧ s.BytesBut c len t ∧
        t.mod.tables.hold = [] ∧ t.mod.rdN Reg.MEM_CR_HOLD_USED = 0 ∧
        t.mod.rdN Reg.MEM_CR_FOLDS = min (s.mod.rdN Reg.MEM_CR_FOLDS + 1) 0xFFFFFFFF ∧
        s.RegsBut [Reg.MEM_CR_FOLDS, Reg.MEM_CR_HOLD_USED, Reg.MEM_CR_INT_SAT] t ∧
        t = { s with mem := t.mem, mod := { s.mod with
          regs := t.mod.regs, out := t.mod.out, tables := { s.mod.tables with hold := t.mod.tables.hold } } })))

/-- The sketch decays when due, a drupelet refresh copies the home row to every slot, and a row move copies and lands
or is abandoned. 10_sparse_updates_and_hot_rows.md R207, 10_sparse_updates_and_hot_rows.md R210,
10_sparse_updates_and_hot_rows.md R217, 10_sparse_updates_and_hot_rows.md R218. The model's own choices in it: log
entry 149. -/
def Obligations.HotRowsRefreshAndRowsMove : Prop :=
  (∀ s : State, tabWf (fun _ => 0) s.mod.tables.sketch = true →
    (let d := s.mod.fget Fld.MEM_HOT_DECAY
    let due := s.mod.ready = true ∧ d ≠ 0 ∧ s.mod.heatNo % 2 ^ d = 0 ∧ s.mod.tables.decayed ≠ some s.mod.heatNo
    (due → ∃ t, Machine.exec .sketchDecay s = .next t ∧ t.mod.tables.decayed = some s.mod.heatNo ∧
      (∀ k, tabGet (fun _ => 0) t.mod.tables.sketch k = tabGet (fun _ => 0) s.mod.tables.sketch k / 2) ∧
      t = { s with mod := { s.mod with tables := { s.mod.tables with
        decayed := t.mod.tables.decayed, sketch := t.mod.tables.sketch } } }) ∧
    (¬ due → Machine.exec .sketchDecay s = .next s))) ∧
  (∀ (s : State) (i e ch : Nat) (h : HotEntry) (cd : Nat → Nat), s.mod.hotEntry i = some h →
    s.mod.dirEntry (hmTable h.entry) = some e → h.done ≠ some s.mod.heatNo → s.mod.refreshDue h = true →
    s.mod.hotHomeHere h = true → s.mod.badLines = [] →
    (∀ bytes : List Byte, let len := rowBytes (tdFormat e) (tdDim e)
    let v := s.mod.heatNo % 2
    0 < len → bytes.length = len →
    ((h.read = none ∧ s.mod.moveHolds (hmTable h.entry) (hmRow h.entry) s.mod.heatNo = false ∧ isTierCell ch = true ∧ bytes = memRead s.mem ch len ∧
        s.OwnStretch (s.mod.rowHome e (hmTable h.entry) (hmRow h.entry) s.mod.heatNo).1 len ch true) ∨
      h.read = some (s.mod.heatNo, stOk, bytes)) →
    (∀ k, k < hmCount h.entry → isTierCell (cd k) = true ∧
      s.OwnStretch (hmDrup h.entry k + v * tdStride e) len (cd k) false) →
    (∀ j k, j < k → k < hmCount h.entry → cd j + len ≤ cd k ∨ cd k + len ≤ cd j) →
    ∃ t, Machine.exec (.drupeletRefresh i []) s = .next t ∧
      (∀ k, k < hmCount h.entry → memRead t.mem (cd k) len = bytes) ∧
      (∀ x, (∀ k, k < hmCount h.entry → x < cd k ∨ cd k + len ≤ x) → t.byteAt x = s.byteAt x) ∧
      (∃ g, t.mod.hotEntry i = some g ∧ g.done = some s.mod.heatNo ∧ g.entry = h.entry ∧ g.wrote = h.wrote ∧ g.read = none ∧
        ∀ k, k < hmCount h.entry → 2 * k + v ∈ g.valid) ∧
      (∀ j, j ≠ i → (t.mod.hotEntry j).map (fun x => { x with wrote := [] }) =
        (s.mod.hotEntry j).map (fun x => { x with wrote := [] })) ∧
      t.mod.rdN Reg.MEM_HOT_REFRESHED = min (s.mod.rdN Reg.MEM_HOT_REFRESHED + 1) 0xFFFFFFFF ∧
      s.RegsBut [Reg.MEM_HOT_REFRESHED] t ∧
      t = { s with mem := t.mem, mod := { s.mod with
        regs := t.mod.regs, tables := { s.mod.tables with hot := t.mod.tables.hot } } })) ∧
  (∀ (s : State) (i : Nat) (h : HotEntry) (rs : Replies), s.mod.hotEntry i = some h → h.done = some s.mod.heatNo →
    Machine.exec (.drupeletRefresh i rs) s = .next s) ∧
  (∀ (s : State) (i e : Nat) (h : HotEntry), s.mod.hotEntry i = some h → s.mod.dirEntry (hmTable h.entry) = some e →
    h.done ≠ some s.mod.heatNo → s.mod.hotHomeHere h = false →
    ∃ t, Machine.exec (.drupeletRefresh i []) s = .next t ∧
      t.mod.hotEntry i = some { h with done := some s.mod.heatNo } ∧ (∀ j, j ≠ i → t.mod.hotEntry j = s.mod.hotEntry j) ∧
      t = { s with mod := { s.mod with tables := { s.mod.tables with hot := t.mod.tables.hot } } }) ∧
  (∀ (s : State) (i c fo : Nat) (r : MovedRow), s.mod.movedEntry i = some r → r.moving = true → r.failed = false →
    (let x := Mod.moveSite r
    let len := rowBytes (tdFormat x.entry) (tdDim x.entry)
    let own := fun (a n cell : Nat) (read : Bool) => s.OwnStretch a n cell read ∧ isTierCell cell = true
    addrModule x.old = s.mod.self → own x.old len c true → 0 < len → s.mod.badLines = [] →
    (∀ a, s.mod.stateAt x x.old = some a → own a 2 fo true) →
    (r.copied = false → s.mod.moveBusy x r.fence = true → Machine.exec (.rowMoveCopy i []) s = .next s) ∧
    (r.copied = false → s.mod.moveBusy x r.fence = false → ∃ t, Machine.exec (.rowMoveCopy i []) s = .next t ∧
      t.mod.movedEntry i = some { r with copied := true } ∧
      (addrModule x.new = s.mod.self → t.mod.out = s.mod.out) ∧
      (addrModule x.new ≠ s.mod.self → ∃ k, t.mod.out = s.mod.out ++ [.move (addrModule x.new) k] ∧
        k.row = memRead s.mem c len ∧ ((s.mod.stateAt x x.old).isSome = true → k.state = memNat s.mem fo 2)) ∧
      t = { s with mod := { s.mod with out := t.mod.out, free := t.mod.free
                                       tables := { s.mod.tables with moved := t.mod.tables.moved } } }) ∧
    (∀ d f, r.copied = true → r.put = 0 → canon x.new ≠ canon x.base → own x.new len d false →
      own (x.new + tdStride x.entry) 2 f false → (d + len ≤ f ∨ f + 2 ≤ d) →
      ∃ t u : State, Machine.exec (.rowMoved i (.landed none) []) s = .next t ∧
        t = { u with mem := (u.mod.releaseMove u.mem i []).1, mod := (u.mod.releaseMove u.mem i []).2 } ∧
        memRead u.mem d len = memRead s.mem c len ∧
        ((s.mod.stateAt x x.old).isSome = true → memNat u.mem f 2 = memNat s.mem fo 2) ∧
        (∀ y, (y < d ∨ d + len ≤ y) → (y < f ∨ f + 2 ≤ y) → u.byteAt y = s.byteAt y) ∧
        u.mod.movedEntry i = (if r.doomed = true then none else some { r with moving := false, copied := false }) ∧
        u.mod.rdN Reg.MEM_MV_DONE = min (s.mod.rdN Reg.MEM_MV_DONE + 1) 0xFFFFFFFF ∧
        (s.mod.ready = true → ∃ v, u.mod.events = s.mod.events ++ [v] ∧ v.code = 0x08B ∧ v.heat = s.mod.heatNo) ∧
        s.RegsBut [Reg.MEM_MV_DONE] u ∧ (s.mod.tables.hot = [] → u.mod.tables.hot = []) ∧
        u = { s with mem := u.mem, mod := { s.mod with
          regs := u.mod.regs, events := u.mod.events, free := u.mod.free
          tables := { s.mod.tables with moved := u.mod.tables.moved, hot := u.mod.tables.hot } } }) ∧
    (∀ st, r.copied = true → r.put = 0 → ∃ t u : State, Machine.exec (.rowMoved i (.failed st) []) s = .next t ∧
      t = { u with mem := (u.mod.releaseMove u.mem i []).1, mod := (u.mod.releaseMove u.mem i []).2 } ∧
      u.mod.movedEntry i = some { r with failed := true } ∧
      u.mod.rdN Reg.MEM_MV_ABANDONED = min (s.mod.rdN Reg.MEM_MV_ABANDONED + 1) 0xFFFFFFFF ∧
      (s.mod.ready = true → ∃ v, u.mod.events = s.mod.events ++ [v] ∧ v.code = 0x08C ∧ v.heat = s.mod.heatNo) ∧
      s.RegsBut [Reg.MEM_MV_ABANDONED] u ∧
      u = { s with mod := { s.mod with regs := u.mod.regs, events := u.mod.events
                                       tables := { s.mod.tables with moved := u.mod.tables.moved } } })))

/-- A scrub counts and poisons, an idle pooled credit goes back, and a stack's temperature gives its thermal state.
11_memory_tiers.md R230, 11_memory_tiers.md R234, 11_memory_tiers.md R235, 11_memory_tiers.md R237. -/
def Obligations.TierScrubsCreditsAndStacks : Prop :=
  (∀ (s : State) (ch k : Nat) (bad : List Nat), ch < 288 → (∀ c ∈ bad, c < 2 ^ 51) →
    (s.mod.ready = true → s.mod.flag Fld.MEM_SCRUB_EN = true →
      (let u := if ch < 256 then ch / 64 else 4
      ∃ t, Machine.exec (.scrub ch k bad) s = .next t ∧
        t.mod.rdN (Reg.MEM_ECC_CE u) = min (s.mod.rdN (Reg.MEM_ECC_CE u) + k) 0xFFFFFFFF ∧
        (∀ c ∈ bad, isTierCell c = true → channelOf c = ch → t.mod.lineState (c / 64) ≠ 0 ∧
          (s.mod.lineState (c / 64) = 0 → t.mod.lineState (c / 64) = 2)) ∧
        (∀ l, (∀ c ∈ bad, isTierCell c = true → channelOf c = ch → c / 64 ≠ l) → t.mod.lineState l = s.mod.lineState l) ∧
        (∀ c, bad = [c] → isTierCell c = true → channelOf c = ch → s.mod.lineState (c / 64) = 0 →
          t.mod.rdN (Reg.MEM_ECC_UE u) = min (s.mod.rdN (Reg.MEM_ECC_UE u) + 1) 0xFFFFFFFF ∧
          ∃ v, t.mod.events = s.mod.events ++ [v] ∧ v.code = 0x081 ∧ v.heat = s.mod.heatNo) ∧
        s.RegsBut [Reg.MEM_ECC_CE u, Reg.MEM_ECC_UE u] t ∧
        t = { s with mod := { s.mod with
          regs := t.mod.regs, events := t.mod.events, badLines := t.mod.badLines } })) ∧
    (s.mod.ready = false ∨ s.mod.flag Fld.MEM_SCRUB_EN = false → Machine.exec (.scrub ch k bad) s = .next s)) ∧
  (∀ (s : State) (ch src : Nat), ch < 288 → src < 6 →
    (let idle := s.mod.capacityProfile = true ∧ 0 < s.mod.pooled ch src ∧ s.mod.creditsUsed ch src < 2 + s.mod.pooled ch src
    let due := tabGet (fun _ => 0) (s.mod.chan ch).idle src + 1000
    let comes := s.mod.flag Fld.HEAT_RUNNING = false ∨ due ≤ tickAt s.mod.heat.base (s.mod.heatNo + 1)
    (idle → comes → ∃ (t : State) (u : Mod), Machine.exec (.creditReclaim ch src) s = .next t ∧
      t = { s with mod := u.admitRows } ∧ u.pooled ch src = s.mod.pooled ch src - 1 ∧
      (∀ c d, (c ≠ ch ∨ d ≠ src) → u.pooled c d = s.mod.pooled c d) ∧
      (∀ c, (u.chan c).queue = (s.mod.chan c).queue) ∧
      u = { s.mod.passTo due with tables := { s.mod.tables with chans := u.tables.chans } }) ∧
    (¬ (idle ∧ comes) → Machine.exec (.creditReclaim ch src) s = .next { s with mod := s.mod.admitRows }))) ∧
  (∀ (s : State) (k c : Nat), k < 16 → s.mod.ready = true →
    (let tf := Fld.MEM_STK_TEMP (k / 4) (k % 4)
    let sf := Fld.MEM_STK_STATE (k / 4) (k % 4)
    let old := s.mod.fget sf
    let new := if old = 3 ∨ 105 ≤ c then 3 else if 95 ≤ c ∨ (old = 2 ∧ 92 < c) then 2
      else if 85 ≤ c ∨ (1 ≤ old ∧ 82 < c) then 1 else 0
    ∃ t, Machine.exec (.stackTempReport k c) s = .next t ∧ t.mod.fget tf = min c 255 ∧ t.mod.fget sf = new ∧
      (old = new → t.mod.events = s.mod.events) ∧
      (old ≠ new → ∃ v, t.mod.events = s.mod.events ++ [v] ∧ v.code = 0x082 ∧ v.chip = s.mod.chip (k / 4) ∧
        v.heat = s.mod.heatNo) ∧
      s.RegsBut [tf.reg, sf.reg] t ∧ t = { s with mod := { s.mod with regs := t.mod.regs, events := t.mod.events } }))

/-- A BAR2 access that is not mapped, or whose request fails, is answered with 0xFF or dropped, and counted. R245. -/
def Obligations.Bar2MissesAndFailures : Prop :=
  (∀ (s : State) (off len : Nat) (bytes : List Byte) (ans : Option Answer), s.mod.ready = true →
    s.mod.boot.powered = true → 0 < len → bytes.length = len →
    (∀ k, k < len → s.mod.bar2Map (off + k) = none) →
    (∃ t, Machine.exec (.bar2Read off len ans) s = .next t ∧
      t.mod.out = s.mod.out ++ [.bar2Data (List.replicate len 0xFF) false] ∧
      t.mod.rdN Reg.HIF_B2_MISS = min (s.mod.rdN Reg.HIF_B2_MISS + 1) 0xFFFFFFFF ∧ s.RegsBut [Reg.HIF_B2_MISS] t ∧
      t = { s with mod := { s.mod with regs := t.mod.regs, out := t.mod.out } }) ∧
    (∃ t, Machine.exec (.bar2Write off bytes ans) s = .next t ∧
      t.mod.rdN Reg.HIF_B2_MISS = min (s.mod.rdN Reg.HIF_B2_MISS + 1) 0xFFFFFFFF ∧ s.RegsBut [Reg.HIF_B2_MISS] t ∧
      t = { s with mod := { s.mod with regs := t.mod.regs } })) ∧
  (∀ (s : State) (off len a st : Nat) (bytes : List Byte) (ans : Option Answer), s.mod.ready = true →
    s.mod.boot.powered = true → 0 < len → bytes.length = len → off / 64 = (off + len - 1) / 64 →
    s.mod.bar2Map off = some a → st = stTierTimeout ∨ st = stTierError →
    (∀ bs, (s.mod.readReq s.mem a len ans).1 = .done st bs →
      ∃ t, Machine.exec (.bar2Read off len ans) s = .next t ∧
        t.mod.out = s.mod.out ++ [.bar2Data (List.replicate len 0xFF) true] ∧ t.mem = s.mem ∧
        t.mod.rdN Reg.HIF_B2_FAIL = min (s.mod.rdN Reg.HIF_B2_FAIL + 1) 0xFFFFFFFF ∧
        t.mod.rdN Reg.HIF_B2_MISS = s.mod.rdN Reg.HIF_B2_MISS ∧
        t = { s with mod := { s.mod with
          regs := t.mod.regs, out := t.mod.out, events := t.mod.events, badLines := t.mod.badLines } }) ∧
    ((s.mod.writeReq s.mem true false a bytes .far ans).2.2 = some st →
      s.mod.bar2Overruns s.mem (some a, len) = false →
      ∃ t, Machine.exec (.bar2Write off bytes ans) s = .next t ∧ s.SameBytes t ∧ t.mod.out = s.mod.out ∧
        t.mod.rdN Reg.HIF_B2_FAIL = min (s.mod.rdN Reg.HIF_B2_FAIL + 1) 0xFFFFFFFF ∧
        t.mod.rdN Reg.HIF_B2_MISS = s.mod.rdN Reg.HIF_B2_MISS ∧
        t = { s with mod := { s.mod with
          regs := t.mod.regs, events := t.mod.events, badLines := t.mod.badLines } }))

/-- A BAR2 read returns the bytes of the mapped memory, a write stores them, and one that overruns a lane is dropped
and counted. 12_address_space.md R244, 12_address_space.md R253, 17_ingest_reservoir.md R342. The model's own choices
in it: log entries 76 and 77. -/
def Obligations.Bar2ReachesMemory : Prop :=
  ∀ (s : State) (off len a c : Nat) (bytes : List Byte), s.mod.ready = true → s.mod.boot.powered = true →
    0 < len → bytes.length = len → off / 64 = (off + len - 1) / 64 → s.mod.bar2Map off = some a →
    placeCell (placeOf s.mod a) = some c → s.mod.badLines = [] →
    (s.mod.reachAll a len true = stOk → ∃ t, Machine.exec (.bar2Read off len none) s = .next t ∧
      t = { s with mod := { s.mod with out := s.mod.out ++ [.bar2Data (memRead s.mem c len) false] } }) ∧
    (s.mod.reachAll a len false = stOk → s.mod.unreleased s.mem c len = false → isTierCell c = false →
      ∃ t, Machine.exec (.bar2Write off bytes none) s = .next t ∧
        t = { s with mem := (s.mod.store s.mem true c bytes).1, mod := (s.mod.store s.mem true c bytes).2.1 }) ∧
    (s.mod.reachAll a len false = stOk → s.mod.unreleased s.mem c len = false → isTierCell c = true →
      ∃ t, Machine.exec (.bar2Write off bytes none) s = .next t ∧ memRead t.mem c len = bytes ∧
        s.BytesBut c len t ∧ (s.mod.tables.hot = [] → t.mod.tables.hot = []) ∧
        t = { s with mem := t.mem, mod := { s.mod with tables := { s.mod.tables with hot := t.mod.tables.hot } } }) ∧
    (s.mod.unreleased s.mem c len = true → ∃ t, Machine.exec (.bar2Write off bytes none) s = .next t ∧
      t.mod.rdN Reg.ING_OVERRUN = min (s.mod.rdN Reg.ING_OVERRUN + 1) 0xFFFFFFFF ∧ s.RegsBut [Reg.ING_OVERRUN] t ∧
      t = { s with mod := { s.mod with regs := t.mod.regs } })

/-- Apertures, the host map and peer probes: what their writes start, and what the answers leave. 12_address_space.md
R244, 15_host_interface.md R310, 15_host_interface.md R313, 15_host_interface.md R314, 15_host_interface.md R316. -/
def Obligations.HostMapApertureAndProbe : Prop :=
  (∀ (s : State) (a : Nat) (v : Word) (o : Origin), a < 64 → s.Accepts (Reg.HIF_B2_MAP_HI a) v o →
    (let b := 2 ^ 32 * v.toNat + bitsOf (s.mod.rdN (Reg.HIF_B2_MAP_LO a)) 31 30 * 2 ^ 30
    let ok := bitsOf b 63 51 = s.mod.self ∧ (bitsOf b 48 0 < 0xC00000000 ∨
      (tier1Base ≤ bitsOf b 48 0 ∧ bitsOf b 48 0 < tier1Base + 0x4000000000) ∨
      (sramBase ≤ bitsOf b 48 0 ∧ bitsOf b 48 0 < sramBase + 0x30000000))
    (ok → ∃ t, Machine.exec (.hifB2Map a v o) s = .next t ∧ s.Stored t (Reg.HIF_B2_MAP_HI a) v ∧
      s.Journalled t (Reg.HIF_B2_MAP_HI a) v o ∧
      t.mod.aperture a = (if s.mod.flag (Fld.HIF_B2_VALID a) = true then some b else none) ∧
      (∀ k, k ≠ Reg.HIF_B2_MAP_LO a → t.mod.base64 k = s.mod.base64 k) ∧ s.RegsBut [Reg.HIF_B2_MAP_HI a] t ∧
      t = { s with mod := { s.mod with
        regs := t.mod.regs, taken := t.mod.taken, jnlPend := t.mod.jnlPend, out := t.mod.out } }) ∧
    (¬ ok → ∃ t, Machine.exec (.hifB2Map a v o) s = .next t ∧ s.Dropped t stMalformed (Reg.HIF_B2_MAP_HI a) v o))) ∧
  (∀ (s : State) (v : Word) (o : Origin), s.Accepts Reg.HIF_T2_CMD (setBit v 31) o →
    (let x := setBit v 31
    let j := s.mod.jnlPend ++ [s.entryOf stOk Reg.HIF_T2_CMD x o]
    let free := s.mod.flag Fld.HIF_DB_EN = false ∧ s.mod.tier2Busy = false
    (free → s.mod.flag Fld.HIF_LINK_UP = true → ∃ t, Machine.exec (.hifT2Load v o) s = .next t ∧
      t.mod.jnlPend = j ∧
      (let k := max s.mod.hub.pcie.maxRead 1
      t.mod.out = s.mod.out ++ (List.range ((131072 + k - 1) / k)).map (fun i =>
        .hostRead (s.mod.rd64 Reg.HIF_T2_TAB_LO + k * i) (min k (131072 - k * i))) ++ State.replyOf stOk o) ∧
      t = { s with mod := { s.mod with
        jnlPend := t.mod.jnlPend, out := t.mod.out
        hub := { s.mod.hub with mapLoad := true, mapDue := s.mod.now + 50000 } } }) ∧
    (free → s.mod.flag Fld.HIF_LINK_UP = false → ∃ t, Machine.exec (.hifT2Load v o) s = .next t ∧
      t.mod.flag Fld.HIF_T2_ERR = true ∧ t.mod.flag Fld.HIF_T2_LOADED = false ∧ s.Journalled t Reg.HIF_T2_CMD x o ∧
      s.RegsBut [Reg.HIF_T2_CMD] t ∧
      t = { s with mod := { s.mod with regs := t.mod.regs, jnlPend := t.mod.jnlPend, out := t.mod.out } }) ∧
    (¬ free → ∃ t, Machine.exec (.hifT2Load v o) s = .next t ∧ s.Dropped t stAccessDenied Reg.HIF_T2_CMD x o))) ∧
  (∀ (s : State) (w : Nat) (v : Word) (o : Origin), w < 8 → s.Accepts (Reg.HIF_PW_CTRL w) (setBit v 30) o →
    (let x := setBit v 30
    (s.mod.windowInUse w = false → ∃ t, Machine.exec (.hifPwProbe w v o) s = .next t ∧
      t.mod.flag (Fld.HIF_PW_BUSY w) = true ∧ t.mod.flag (Fld.HIF_PW_VALID w) = bitOf x.toNat 31 ∧
      t.mod.fget (Fld.HIF_PW_RESULT w) = (if bitOf x.toNat 31 = true ∧ s.mod.flag (Fld.HIF_PW_VALID w) = false then 0
        else s.mod.fget (Fld.HIF_PW_RESULT w)) ∧
      tabGet (fun _ => none) t.mod.hub.probing w = some (s.mod.rd64 (Reg.HIF_PW_EXPECT_LO w)) ∧
      tabGet (fun _ => 0) t.mod.hub.probeDue w = s.mod.now + 50000 ∧
      t.mod.jnlPend = s.mod.jnlPend ++ [s.entryOf stOk (Reg.HIF_PW_CTRL w) x o] ∧
      (s.mod.detached = false → t.mod.out = s.mod.out ++
        [.host ⟨s.mod.base64 (Reg.HIF_PW_BASE_LO w), leBytes 8 (s.mod.rd64 (Reg.HIF_PW_EXPECT_LO w)), false, .probe⟩,
          .hostRead (s.mod.base64 (Reg.HIF_PW_BASE_LO w)) 8] ++ State.replyOf stOk o) ∧
      s.RegsBut [Reg.HIF_PW_CTRL w, Reg.HIF_LOSS_STATUS, Reg.HIF_RETAIN_KIB] t ∧
      t = { s with mod := { s.mod with
        regs := t.mod.regs, jnlPend := t.mod.jnlPend, out := t.mod.out
        hub := { s.mod.hub with
          probing := t.mod.hub.probing, probeDue := t.mod.hub.probeDue, retained := t.mod.hub.retained } } }) ∧
    (s.mod.windowInUse w = true → ∃ t, Machine.exec (.hifPwProbe w v o) s = .next t ∧
      s.Dropped t stAccessDenied (Reg.HIF_PW_CTRL w) x o))) ∧
  (∀ (s : State) (x : Option (List (BitVec 64))), s.mod.hub.mapLoad = true →
    ∃ t, Machine.exec (.hostMapLoadDone x) s = .next t ∧ t.mod.hub.mapLoad = false ∧ s.RegsBut [Reg.HIF_T2_CMD] t ∧
      (let good := s.mod.now ≤ s.mod.hub.mapDue ∧ ∃ l, x = some l ∧ ∀ k e, k < s.mod.rdN Reg.MEM_T2_SIZE → l[k]? = some e → bitsOf e.toNat 29 1 = 0
      t.mod.flag Fld.HIF_T2_LOADED = decide (t.mod.flag Fld.HIF_T2_ERR = false) ∧
      (t.mod.flag Fld.HIF_T2_ERR = false ↔ good) ∧
      (¬ good → t.mod.hub.hostMap = s.mod.hub.hostMap) ∧
      (good → ∀ k, tabGet (fun _ => 0) t.mod.hub.hostMap k = if k < 16384 then
        (((x.getD [])[k]?).getD 0).toNat else 0)) ∧
      t = { s with mod := { s.mod with
        regs := t.mod.regs, hub := { s.mod.hub with mapLoad := false, hostMap := t.mod.hub.hostMap } } }) ∧
  (∀ (s : State) (w k sent : Nat) (x : Option (Option (BitVec 64))), w < 8 → tabGet (fun _ => none) s.mod.hub.probing w = some sent →
    ∃ t, Machine.exec (.peerProbeDone w x k) s = .next t ∧ t.mod.flag (Fld.HIF_PW_BUSY w) = false ∧
      (let late := 50000 < k ∨ tabGet (fun _ => 0) s.mod.hub.probeDue w < s.mod.now
      t.mod.fget (Fld.HIF_PW_RESULT w) = (if late then 4 else match x with
        | none => 4
        | some none => 2
        | some (some b) => if b.toNat = sent then 1 else 3) ∧
      t.mod.rdN (Reg.HIF_PW_RTT w) = if x.isSome = true ∧ ¬ late then min k 65535 else s.mod.rdN (Reg.HIF_PW_RTT w)) ∧
      tabGet (fun _ => none) t.mod.hub.probing w = none ∧ s.RegsBut [Reg.HIF_PW_CTRL w, Reg.HIF_PW_RTT w] t ∧
      t = { s with mod := { s.mod with
        regs := t.mod.regs, hub := { s.mod.hub with probing := t.mod.hub.probing } } })

/-- A session opens when R356 lets it, after the epoch word is read where writes are retained; a held module is
released. 18_host_loss_and_reattach.md R354, 18_host_loss_and_reattach.md R356, 18_host_loss_and_reattach.md R357,
18_host_loss_and_reattach.md R359. The model's own choices in it: log entries 37, 156 and 157. -/
def Obligations.HostSessionOpensAndResumes : Prop :=
  (let castLost := fun (s : State) (void : Bool) => ({ s.mod.cast with
    run := s.mod.cast.run.map (fun (r : CastRun) => { r with epochLost := r.epochLost || (void && decide (s.mod.castState = 4)) }) } : CastSt)
  (∀ (s : State) (v : Word) (o : Origin), s.Accepts Reg.HIF_OPEN v o →
    (let ready := s.mod.flag Fld.HIF_DETACHED = true ∧ s.mod.flag Fld.HIF_LINK_UP = true
    let wrong := v = 0 ∨ v = s.mod.rd Reg.HIF_SESSION ∨ s.mod.base64 Reg.HIF_EPOCH_NEXT_LO = 0
    (¬ ready → ∃ t, Machine.exec (.hifOpen v o) s = .next t ∧ s.Dropped t stAccessDenied Reg.HIF_OPEN v o) ∧
    (ready → wrong → ∃ t, Machine.exec (.hifOpen v o) s = .next t ∧ s.Dropped t stMalformed Reg.HIF_OPEN v o) ∧
    (ready → ¬ wrong → s.mod.fget Fld.HIF_RETAIN_RESULT = 1 → ∃ t, Machine.exec (.hifOpen v o) s = .next t ∧
      t.mod.out = s.mod.out ++ [.hostRead (s.mod.rd64 Reg.HIF_EPOCH_ADDR_LO) 8] ++ State.replyOf stOk o ∧
      t.mod.jnlPend = s.mod.jnlPend ++ [s.entryOf stOk Reg.HIF_OPEN v o] ∧
      t = { s with mod := { s.mod with
        jnlPend := t.mod.jnlPend, out := t.mod.out
        hub := { s.mod.hub with opening := some v.toNat, openDue := s.mod.now + 50000 } } }) ∧
    (ready → ¬ wrong → s.mod.fget Fld.HIF_RETAIN_RESULT ≠ 1 → ∃ t, Machine.exec (.hifOpen v o) s = .next t ∧
      t.mod.rd Reg.HIF_SESSION = v ∧ t.mod.flag Fld.HIF_SESSION_OPEN = true ∧ t.mod.flag Fld.HIF_DETACHED = false ∧
      t.mod.rd64 Reg.HIF_EPOCH_LO = s.mod.base64 Reg.HIF_EPOCH_NEXT_LO % 2 ^ 64 ∧
      t.mod.rd64 Reg.HIF_EPOCH_ADDR_LO = s.mod.base64 Reg.HIF_EPOCH_NEXT_ADDR_LO % 2 ^ 64 ∧
      t.mod.fget Fld.HIF_OPEN_STATUS =
        (if 3 ≤ s.mod.fget Fld.HIF_RETAIN_RESULT then stHostEpochChanged else stOk) ∧
      t.mod.hub.opening = none ∧ t.mod.hub.retainOver = false ∧ s.Journalled t Reg.HIF_OPEN v o ∧
      t.mod.flag castHostField = false ∧
      (∀ a, (a < 0x20000 ∨ 0x30000 ≤ a) → a ≠ Reg.CAST_STATUS → t.mod.rd a = s.mod.rd a) ∧
      t = { s with mod := { s.mod with
        regs := t.mod.regs, comps := t.mod.comps, hub := t.mod.hub, jnlPend := t.mod.jnlPend, out := t.mod.out
        cast := castLost s (decide (3 ≤ s.mod.fget Fld.HIF_RETAIN_RESULT)) } }))) ∧
  (∀ (s : State) (k : Nat) (w : Option (BitVec 64)), s.mod.hub.opening = some k →
    (let held := s.mod.fget Fld.HIF_RETAIN_RESULT = 1
    let same := w.map (·.toNat) = some (s.mod.rd64 Reg.HIF_EPOCH_LO) ∧ s.mod.now ≤ s.mod.hub.openDue ∧
      s.mod.flag Fld.HIF_LINK_UP = true
    ∃ t, Machine.exec (.epochCheck w) s = .next t ∧ t.mod.hub.opening = none ∧
      t.mod.rdN Reg.HIF_SESSION = k % 2 ^ 32 ∧ t.mod.flag Fld.HIF_SESSION_OPEN = true ∧
      t.mod.flag Fld.HIF_DETACHED = false ∧ t.mod.flag castHostField = false ∧
      t.mod.rd64 Reg.HIF_EPOCH_LO = s.mod.base64 Reg.HIF_EPOCH_NEXT_LO % 2 ^ 64 ∧
      (held → same → t.mod.fget Fld.HIF_RETAIN_RESULT = 2 ∧ t.mod.fget Fld.HIF_OPEN_STATUS = stOk ∧
        t.mod.hub.retained = [] ∧
        (∃ ys, t.mod.out = s.mod.out ++ s.mod.hub.retained.map Out.host ++ [.hostRead (s.mod.rd64 Reg.HIF_EPOCH_ADDR_LO) 0] ++ ys ∧
          (∀ y ∈ ys, ∃ a, y = .hostRead a 0) ∧
          ((∀ k ∈ s.mod.works, k.flush = none) → ys = [])) ∧
        (∀ x ∈ s.mod.hub.retained, ∀ id k, x.src = .work id → s.mod.findWork id = some k → k.retained = true →
          k.flush = none → (∀ a ∈ s.mod.tables.applies, a.work ≠ id) → t.mod.findWork id = none)) ∧
      (held → ¬ same → t.mod.fget Fld.HIF_RETAIN_RESULT = 3 ∧ t.mod.fget Fld.HIF_OPEN_STATUS = stHostEpochChanged ∧
        t.mod.hub.retained = [] ∧ t.mod.out = s.mod.out ∧
        (∀ x ∈ s.mod.hub.retained, ∀ id, x.src = .work id → t.mod.findWork id = none) ∧
        (∀ id, s.mod.hub.retained ≠ [] → (∀ x ∈ s.mod.hub.retained, x.src = .work id) →
          (s.mod.findWork id).isSome = true →
          t.mod.rdN Reg.HIF_LOSS_VOID = min (s.mod.rdN Reg.HIF_LOSS_VOID + 1) 0xFFFFFFFF)) ∧
      (¬ held → t.mod.fget Fld.HIF_RETAIN_RESULT = s.mod.fget Fld.HIF_RETAIN_RESULT ∧
        t.mod.fget Fld.HIF_OPEN_STATUS = (if 3 ≤ s.mod.fget Fld.HIF_RETAIN_RESULT then stHostEpochChanged else stOk) ∧
        t.mod.hub.retained = s.mod.hub.retained ∧ t.mod.out = s.mod.out ∧ t.mod.works = s.mod.works) ∧
      t = { s with mod := { s.mod with
        regs := t.mod.regs, comps := t.mod.comps, events := t.mod.events, hub := t.mod.hub, out := t.mod.out
        works := t.mod.works
        tables := { s.mod.tables with moved := t.mod.tables.moved, orphans := t.mod.tables.orphans }
        cast := castLost s (decide (t.mod.fget Fld.HIF_OPEN_STATUS = stHostEpochChanged)) } })) ∧
  (∀ (s : State) (v : Word) (o : Origin), s.Accepts Reg.HIF_LOSS_CFG (setBit v 31) o →
    (let x := setBit v 31
    let ok := 1 ≤ wordBits x 29 16 ∧ wordBits x 29 16 ≤ 10000
    (s.mod.flag Fld.HIF_SESSION_OPEN = false → ∃ t, Machine.exec (.hifHeldRelease v o) s = .next t ∧
      s.Dropped t stAccessDenied Reg.HIF_LOSS_CFG x o) ∧
    (s.mod.flag Fld.HIF_SESSION_OPEN = true → ¬ ok → ∃ t, Machine.exec (.hifHeldRelease v o) s = .next t ∧
      s.Dropped t stMalformed Reg.HIF_LOSS_CFG x o) ∧
    (s.mod.flag Fld.HIF_SESSION_OPEN = true → ok → ∃ t, Machine.exec (.hifHeldRelease v o) s = .next t ∧
      (∀ n, n < 384 → t.mod.coreState n = if s.mod.coreState n = 2 then 1 else s.mod.coreState n) ∧
      t.mod.flag Fld.HIF_HOST_HELD = false ∧ t.mod.fget Fld.HIF_RETAIN_MS = wordBits x 29 16 ∧
      (∀ g, g < 48 → t.mod.clusterSt g = { s.mod.clusterSt g with held := false }) ∧
      s.Journalled t Reg.HIF_LOSS_CFG x o ∧
      (∀ a, a ≠ Reg.HIF_LOSS_CFG → a ≠ Reg.HIF_LOSS_STATUS → (∀ n, n < 384 → a ≠ (Fld.CORE_STATE n).reg) →
        t.mod.rd a = s.mod.rd a) ∧
      t = { s with mod := { s.mod with
        regs := t.mod.regs, clusters := t.mod.clusters, jnlPend := t.mod.jnlPend, out := t.mod.out } }))))

/-- A change of the host link is reported; the end of a session detaches the module, and retained writes last their
time. 15_host_interface.md R300, 15_host_interface.md R315, 18_host_loss_and_reattach.md R348,
18_host_loss_and_reattach.md R350, 18_host_loss_and_reattach.md R352, 18_host_loss_and_reattach.md R358. The model's
own choices in it: log entries 133, 134, 156 and 157. -/
def Obligations.HostLossDetaches : Prop :=
  (let ended := fun (e t : State) (cause : Nat) (kept : List HostWrite) =>
    t.mod.flag Fld.HIF_DETACHED = true ∧ t.mod.flag Fld.HIF_SESSION_OPEN = false ∧
    t.mod.fget Fld.HIF_LOSS_CAUSE = cause ∧ t.mod.rd64 Reg.HIF_LOSS_TIME_LO = e.mod.now ∧
    t.mod.fget Fld.HIF_RETAIN_RESULT = (if kept = [] then 0 else 1) ∧
    t.mod.rdN Reg.HIF_RETAIN_KIB = min (((kept.map (·.bytes.length)).sum + 1023) / 1024) 65536 ∧
    t.mod.flag castHostField = (e.mod.flag castHostField || decide (e.mod.castState = 4)) ∧
    t.mod.flag Fld.HIF_DB_EN = false ∧ (∀ r, r < 64 → t.mod.flag (Fld.HIF_SQ_EN r) = false) ∧
    (∀ x, x < 8 → t.mod.flag (Fld.HIF_ER_EN x) = false) ∧
    (∀ q, q < 64 → e.mod.flag (Fld.HIF_CQ_EN q) = true →
      (t.mod.flag (Fld.HIF_CQ_EN q) = true ↔ t.mod.cqDue q ≠ 0)) ∧
    (∀ w ∈ t.mod.hub.rings, w.body.isSome = true) ∧ t.mod.hub.mapLoad = false ∧ t.mod.hub.hostMap = e.mod.hub.hostMap ∧
    (∀ w, w < 8 → tabGet (fun _ => none) t.mod.hub.probing w = none) ∧
    (∀ k ∈ e.mod.works, k.posted = true → (∀ a ∈ e.mod.tables.applies, a.work ≠ k.id) →
      (∀ x ∈ kept, x.src ≠ .work k.id ∧ ∀ a b c d, x.src ≠ .drain k.id a b c d) → t.mod.findWork k.id = none) ∧
    ∃ u : Mod, t = { e with mod := u.endHostReads.clearEnables } ∧
      (∀ a, (a < 0x20000 ∨ 0x30000 ≤ a) → a ≠ Reg.CAST_STATUS →
        (∀ n, a ≠ Reg.CORE_LD_OPS n ∧ a ≠ Reg.CORE_LD_FAIL n) → u.rd a = e.mod.rd a) ∧
      u = { e.mod with
        regs := u.regs, works := u.works, comps := u.comps
        tables := { e.mod.tables with moved := u.tables.moved }
        hub := { e.mod.hub with
          retained := kept, retainOver := false, detachAt := e.mod.now, retainMs := e.mod.fget Fld.HIF_RETAIN_MS
          rings := u.hub.rings } }
  let gone := fun (s t : State) (cause k : Nat) => ∃ e, Machine.exec (.epochCheck none) s = .next e ∧
    (e.mod.flag Fld.HIF_DETACHED = true → t = { e with mod := e.mod.endHostReads.clearEnables }) ∧
    (e.mod.flag Fld.HIF_DETACHED = false → ended e t cause
      (((hostWrites s.mod.out).drop ((hostWrites s.mod.out).length - k)).filter
        (fun w => decide (w.src ≠ .notice ∧ w.src ≠ .cast))))
  (∀ (s : State) (up flit : Bool) (rate width : Nat),
    (let r := if up then rate else 0
    let w := if up then width else 0
    let same := s.mod.flag Fld.HIF_LINK_UP = up ∧ s.mod.fget Fld.HIF_LINK_RATE = r ∧ s.mod.fget Fld.HIF_LINK_WIDTH = w
    (s.mod.ready = false → Machine.exec (.hostLink up rate width flit) s = .next s) ∧
    (s.mod.ready = true → same → Machine.exec (.hostLink up rate width flit) s =
      .next { s with mod := s.mod.fput Fld.HIF_FLIT (up && flit) }) ∧
    (s.mod.ready = true → ¬ same → ∃ b t, Machine.exec (.hostLink up rate width flit) s = .next t ∧
      b.mod.flag Fld.HIF_LINK_UP = up ∧ b.mod.fget Fld.HIF_LINK_RATE = r % 16 ∧
      b.mod.fget Fld.HIF_LINK_WIDTH = w % 32 ∧ b.mod.flag Fld.HIF_FLIT = (up && flit) ∧ s.RegsBut [Reg.HIF_STATUS] b ∧
      b = { s with mod := { s.mod with
        regs := b.mod.regs, free := b.mod.free
        events := s.mod.events ++ [⟨s.mod.now, s.mod.heatNo, 0x041, s.mod.chip 0, 15, 0,
          padBytes 14 (leBytes 1 r ++ leBytes 1 w)⟩] } } ∧
      (up = true → b.mod.free = s.mod.free ∧ t = b) ∧
      (up = false → ∃ k, k ≤ (hostWrites s.mod.out).length ∧ gone b t 1 k)))) ∧
  (∀ (s : State) (cause : LossCause) (k : Nat),
    (s.mod.ready = false → Machine.exec (.hostLoss cause k) s = .next s) ∧
    (s.mod.ready = true → ∃ b t, gone s b (match cause with | .linkDown => 1 | .hotReset => 2 | .flr => 3 | .d3hot => 4) k ∧
      Machine.exec (.hostLoss cause k) s = .next t ∧
      (cause ≠ .linkDown → t = b) ∧ (cause = .linkDown → Machine.exec (.hostLink false 0 0 false) b = .next t))) ∧
  (∀ s : State,
    (let due := s.mod.flag Fld.HIF_DETACHED = true ∧ s.mod.hub.retainOver = false ∧
      s.mod.flag Fld.HEAT_RUNNING = true ∧ s.mod.hub.detachAt + s.mod.hub.retainMs * 1000000 ≤ s.mod.heat.tickTime
    (¬ due → Machine.exec .retentionExpiry s = .next s) ∧
    (due → ∃ t, Machine.exec .retentionExpiry s = .next t ∧ t.mod.fget Fld.HIF_RETAIN_RESULT = 4 ∧
      t.mod.hub.retained = [] ∧ t.mod.hub.retainOver = true ∧ t.mod.rdN Reg.HIF_RETAIN_KIB = 0 ∧
      (∀ x ∈ s.mod.hub.retained, ∀ id, x.src = .work id → t.mod.findWork id = none) ∧ t.mod.out = s.mod.out ∧
      t = { s with mod := { s.mod with
        regs := t.mod.regs, comps := t.mod.comps, events := t.mod.events, hub := t.mod.hub, works := t.mod.works
        tables := { s.mod.tables with moved := t.mod.tables.moved, orphans := t.mod.tables.orphans } } }))))

/-- A port trains stage by stage to UP, DOWN or FAULT, and FAB_P_RETRAIN, disable and enable move it as Table 13.5
says. 13_fabric.md R257, 13_fabric.md R259, 13_fabric.md R261, 13_fabric.md R262, 13_fabric.md R263, 13_fabric.md
R269. The model's own choices in it: log entries 4, 81, 124 and 155. -/
def Obligations.PortsTrainAndTheirWrites : Prop :=
  (let told := fun (s u t : State) => t = { s with mod := u.mod.ownPorts } ∧
    t.mod.fab.noticeNo = s.mod.fab.noticeNo + 1 ∧
    ∃ l, t.mod.out = u.mod.out ++ ((List.range 13).filter (fun q => u.mod.isUp q)).map (fun q =>
      Out.linkState q ⟨s.mod.self, s.mod.fab.noticeNo + 1, u.mod.fget Fld.FAB_PORTS_UP⟩) ++ l
  let begun := fun (s t : State) (p : Nat) => ∃ u : State, told s u t ∧ t.mod.portState p = u.mod.portState p ∧
    (if s.mod.portInService p = true ∧ s.mod.flag (Fld.FAB_P_DISABLE p) = false then
      u.mod.portState p = portTraining ∧ u.mod.fget (Fld.FAB_P_FAULT p) = 0 ∧ u.mod.fget (Fld.FAB_P_WIDTH p) = 0 ∧
      u.mod.flag (Fld.FAB_P_RETRAIN p) = false ∧ u.mod.portWord p = s.mod.rd Reg.FAB_CTRL ∧
      u.mod.portSt p = { tried := true, stage := 1, stageAt := s.mod.now }
    else u.mod.portState p = portDisabled) ∧
    (∀ q, q ≠ p → u.mod.portSt q = s.mod.portSt q ∧ u.mod.portWord q = s.mod.portWord q) ∧
    s.RegsBut [Reg.FAB_P_STATUS p, Reg.FAB_P_CTRL p] u ∧
    u = { s with mod := { s.mod with regs := u.mod.regs
                                     fab := { s.mod.fab with ports := u.mod.fab.ports, ctrl := u.mod.fab.ctrl } } }
  (∀ (s : State) (p : Nat), p < 13 →
    (let due := s.mod.fabricOn = true ∧ s.mod.portState p = portDown ∧ (s.mod.portSt p).tried = false
    (due → ∃ t, Machine.exec (.linkTraining p) s = .next t ∧ begun s t p) ∧
    (¬ due → Machine.exec (.linkTraining p) s = .next s))) ∧
  (∀ (s : State) (p : Nat), p < 13 →
    (let due := s.mod.fabricOn = true ∧ s.mod.portState p = portDown ∧ (s.mod.portSt p).tried = true ∧
      (s.mod.portSt p).downAt + s.mod.rdN Reg.FAB_RETRAIN_S * 1000000000 ≤ s.mod.now
    (due → ∃ t, Machine.exec (.retrainTimer p) s = .next t ∧ begun s t p) ∧
    (¬ due → Machine.exec (.retrainTimer p) s = .next s))) ∧
  (∀ (s : State) (p : Nat), p < 13 → s.mod.portState p = portTraining →
    (let event := fun (code : Nat) (l : List Byte) => if s.mod.ready then
      [(⟨s.mod.now, s.mod.heatNo, code, s.mod.chip 0, 15, 0, padBytes 14 l⟩ : EvRec)] else []
    let next := fun (t : State) (o : List Out) (e : List EvRec) => t.mod.portState p = portTraining ∧
      t.mod.out = s.mod.out ++ o ∧ t.mod.events = s.mod.events ++ e ∧
      (t.mod.portSt p).stage = (s.mod.portSt p).stage + 1 ∧ (t.mod.portSt p).stageAt = s.mod.now ∧
      (∀ q, q ≠ p → t.mod.portSt q = s.mod.portSt q) ∧
      t = { s with mod := { s.mod with
        regs := t.mod.regs, events := t.mod.events, out := t.mod.out
        fab := { s.mod.fab with ports := t.mod.fab.ports } } }
    let fault := fun (t : State) (r : Nat) => ∃ u : State, told s u t ∧ t.mod.portState p = portFault ∧
      u.mod.portState p = portFault ∧ u.mod.fget (Fld.FAB_P_FAULT p) = r ∧
      u.mod.fget (Fld.FAB_P_WIDTH p) = 0 ∧ (u.mod.portSt p).stage = 0 ∧
      u.mod.events = s.mod.events ++ event 0x0A4 (leBytes 1 p ++ leBytes 1 r) ∧ s.RegsBut [Reg.FAB_P_STATUS p] u ∧
      u = { s with mod := { s.mod with
        regs := u.mod.regs, events := u.mod.events, fab := { s.mod.fab with ports := u.mod.fab.ports } } }
    (∀ loss, (s.mod.portSt p).stage = 1 → ∃ t, Machine.exec (.trainingStageEnd p (.lanes loss)) s = .next t ∧
      (trainLanes loss = none → fault t 1) ∧
      (∀ w, trainLanes loss = some w → next t [] (if w = 4 then event 0x0A3 (leBytes 1 p ++ leBytes 1 w) else []) ∧
        t.mod.fget (Fld.FAB_P_WIDTH p) = w ∧
        t.mod.fget (Fld.FAB_P_LOSS_CLASS p) = worstLane loss ∧ s.RegsBut [Reg.FAB_P_STATUS p] t)) ∧
    ((s.mod.portSt p).stage = 2 → ∃ t, Machine.exec (.trainingStageEnd p .aligned) s = .next t ∧ next t [] [] ∧
      s.RegsBut [] t) ∧
    (∀ k, (s.mod.portSt p).stage = 3 → ∃ t, Machine.exec (.trainingStageEnd p (.probes k)) s = .next t ∧
      next t [.identity p s.mod.self (s.mod.ownCaps p)] [] ∧ (t.mod.portSt p).rtt = k ∧ s.RegsBut [] t) ∧
    (∀ x q caps, (s.mod.portSt p).stage = 4 → x < 8192 → q < 16 →
      ∃ t, Machine.exec (.trainingStageEnd p (.identity x q caps)) s = .next t ∧ next t [] [] ∧
        t.mod.rdN (Reg.FAB_P_PARTNER p) = q * 2 ^ 16 + x ∧ t.mod.rd (Reg.FAB_P_CAPS p) = caps ∧
        t.mod.rdN (Reg.FAB_P_DELAY p) =
          min (((s.mod.portSt p).rtt - Config.fixedLatency p - t.mod.fget (Fld.FAB_CAP_FIXED_NS p)) / 2) 65535 ∧
        t.mod.rdN (Reg.FAB_P_LENGTH p) = min (Mod.linkLength p (t.mod.rdN (Reg.FAB_P_DELAY p))) 65535 ∧
        s.RegsBut [Reg.FAB_P_PARTNER p, Reg.FAB_P_CAPS p, Reg.FAB_P_DELAY p, Reg.FAB_P_LENGTH p] t) ∧
    ((s.mod.portSt p).stage = 5 → ∃ t, Machine.exec (.trainingStageEnd p .checks) s = .next t ∧
      (s.mod.faultReason p ≠ 0 → fault t (s.mod.faultReason p)) ∧
      (s.mod.faultReason p = 0 → ∃ u : State, told s u t ∧ t.mod.portState p = portUp ∧ u.mod.portState p = portUp ∧
        u.mod.fget Fld.FAB_PORTS_UP = s.mod.fget Fld.FAB_PORTS_UP ||| 2 ^ p ∧
        u.mod.events = s.mod.events ++ event 0x0A1 (leBytes 1 p ++
          leBytes 2 (bitsOf (s.mod.rdN (Reg.FAB_P_PARTNER p)) 12 0) ++ leBytes 1 (s.mod.fget (Fld.FAB_P_WIDTH p)) ++
          leBytes 2 (s.mod.rdN (Reg.FAB_P_LENGTH p))) ∧
        s.RegsBut [Reg.FAB_P_STATUS p, Reg.FAB_STATUS] u ∧ (∀ q, q ≠ p → u.mod.portSt q = s.mod.portSt q) ∧
        u = { s with mod := { s.mod with
          regs := u.mod.regs, events := u.mod.events, fab := { s.mod.fab with ports := u.mod.fab.ports } } })))) ∧
  (∀ (s : State) (p : Nat), p < 13 →
    (let due := s.mod.portState p = portTraining ∧
      (s.mod.portSt p).stageAt + Mod.trainLimit p (s.mod.portSt p).stage * 1000000 ≤ s.mod.now
    (¬ due → Machine.exec (.trainingStageTimeout p) s = .next s) ∧
    (due → ∃ t u : State, Machine.exec (.trainingStageTimeout p) s = .next t ∧ told s u t ∧ t.mod.portState p = portDown ∧
      u.mod.portState p = portDown ∧ (u.mod.portSt p).downAt = s.mod.now ∧ (u.mod.portSt p).stage = 0 ∧
      u.mod.rdN (Reg.FAB_P_DOWNS p) = min (s.mod.rdN (Reg.FAB_P_DOWNS p) + 1) 0xFFFFFFFF ∧
      s.RegsBut [Reg.FAB_P_STATUS p, Reg.FAB_P_DOWNS p] u ∧
      u = { s with mod := { s.mod with regs := u.mod.regs, fab := { s.mod.fab with ports := u.mod.fab.ports } } }))) ∧
  (∀ (s : State) (p : Nat) (v : Word) (o : Origin), p < 13 →
    (let entry := fun (t : State) (x : Word) => t.mod.jnlPend = s.mod.jnlPend ++ [s.entryOf stOk (Reg.FAB_P_CTRL p) x o]
    let quiet := fun (t : State) => s.RegsBut [Reg.FAB_P_STATUS p, Reg.FAB_P_CTRL p] t ∧
      t = { s with mod := { s.mod with
        regs := t.mod.regs, jnlPend := t.mod.jnlPend, out := s.mod.out ++ State.replyOf stOk o
        fab := { s.mod.fab with ports := t.mod.fab.ports } } }
    (s.Accepts (Reg.FAB_P_CTRL p) (setBit v 0) o → ∃ t, Machine.exec (.portDisable p v o) s = .next t ∧
      t.mod.portState p = portDisabled ∧ t.mod.flag (Fld.FAB_P_DISABLE p) = true ∧
      t.mod.fget (Fld.FAB_P_WIDTH p) = 0 ∧ entry t (setBit v 0) ∧ t.mem = s.mem ∧
      (s.mod.isUp p = true → bitOf (t.mod.fget Fld.FAB_PORTS_UP) p = false) ∧
      (s.mod.portState p ≠ portDisabled → t.mod.fab.noticeNo = s.mod.fab.noticeNo + 1) ∧
      (s.mod.portState p = portDisabled → quiet t)) ∧
    (s.Accepts (Reg.FAB_P_CTRL p) (clearBit v 0) o → bitOf v.toNat 1 = false →
      ∃ t, Machine.exec (.portEnable p v o) s = .next t ∧ t.mod.flag (Fld.FAB_P_DISABLE p) = false ∧
        (let falls := s.mod.flag (Fld.FAB_P_DISABLE p) = true ∧ s.mod.portInService p = true
        t.mod.portState p = (if falls then portDown else s.mod.portState p) ∧
        (falls → t.mod.rdN (Reg.FAB_P_DOWNS p) = min (s.mod.rdN (Reg.FAB_P_DOWNS p) + 1) 0xFFFFFFFF ∧ t.mem = s.mem) ∧
        (¬ falls → quiet t)) ∧
        entry t (clearBit v 0)) ∧
    (s.Accepts (Reg.FAB_P_CTRL p) (setBit v 1) o → bitOf v.toNat 0 = false → s.mod.flag (Fld.FAB_P_DISABLE p) = false →
      s.mod.portInService p = true → ∃ t, Machine.exec (.portRetrain p v o) s = .next t ∧
        (let starts := s.mod.portState p = portDown ∨ s.mod.portState p = portFault
        t.mod.portState p = (if starts then portTraining else s.mod.portState p) ∧
        (starts → t.mod.portSt p = { tried := true, stage := 1, stageAt := s.mod.now } ∧
          t.mod.fab.noticeNo = s.mod.fab.noticeNo + 1 ∧ t.mem = s.mem) ∧
        (¬ starts → quiet t)) ∧
        entry t (setBit v 1)))))

/-- A flit in its turn is acknowledged, one in error or out of turn asks for a replay, and eight replays or a loss of
lock take the link DOWN. 13_fabric.md R266, 13_fabric.md R269, 13_fabric.md R270, 13_fabric.md R271. The model's own
choices in it: log entries 4, 61, 78, 79, 81, 109 and 155. -/
def Obligations.LinkLayerReplaysAndLoss : Prop :=
  (∀ (s : State) (p : Nat) (f : FlitReport), s.mod.isUp p = true → f.seq < 65536 → (s.mod.portSt p).rxSeq < 65536 →
    (let x := s.mod.portSt p
    (f.good = false → ∃ t, Machine.exec (.flitReceive p f) s = .next t ∧
      t.mod.rdN (Reg.FAB_P_FLIT_ERR p) = min (s.mod.rdN (Reg.FAB_P_FLIT_ERR p) + 1) 0xFFFFFFFF ∧
      t.mod.out = s.mod.out ++ [.replay p f.seq] ∧ s.RegsBut [Reg.FAB_P_FLIT_ERR p] t ∧
      t = { s with mod := { s.mod with regs := t.mod.regs, out := t.mod.out } }) ∧
    (f.good = true → f.replay = none → x.waiting = [] → ∃ t, Machine.exec (.flitReceive p f) s = .next t ∧
      (let known := x.unacked.any (fun u => u.1 == f.ack)
      let left := if known then (x.unacked.dropWhile (fun u => u.1 != f.ack)).drop 1 else x.unacked
      let limits := x.limits.drop (x.unacked.length - left.length)
      let fresh := known = true ∨ f.ack ≠ x.lastAck
      t.mod.out = s.mod.out ++ [if f.seq = x.rxSeq then .flitAck p f.seq
        else if (f.seq + 65536 - x.rxSeq) % 65536 < 32768 then .replay p x.rxSeq else .flitAck p f.seq] ∧
      t.mod.portSt p = { x with
        rxSeq := if f.seq = x.rxSeq then (x.rxSeq + 1) % 65536 else x.rxSeq
        unacked := left, limits := limits, lastAck := f.ack, replays := if fresh then 0 else x.replays
        ackDue := if fresh then s.mod.now + x.rtt + limits.headD (s.mod.rdN Reg.FAB_RETRY_US) * 1000 else x.ackDue }) ∧
      (∀ q, q ≠ p → t.mod.portSt q = s.mod.portSt q) ∧
      t = { s with mod := { s.mod with out := t.mod.out, fab := { s.mod.fab with ports := t.mod.fab.ports } } }))) ∧
  (∀ (s : State) (p : Nat),
    (let x := s.mod.portSt p
    let down := fun (b : Mod) (t : State) (cause : Nat) => t.mod.portState p = portDown ∧
      t.mod.rdN (Reg.FAB_P_DOWNS p) = min (s.mod.rdN (Reg.FAB_P_DOWNS p) + 1) 0xFFFFFFFF ∧
      bitOf (t.mod.fget Fld.FAB_PORTS_UP) p = false ∧ bitOf (t.mod.portsOf s.mod.self) p = false ∧
      t.mod.fab.noticeNo = s.mod.fab.noticeNo + 1 ∧
      (s.mod.ready = true → ∃ l, t.mod.events = s.mod.events ++ ⟨b.now, b.heatNo, 0x0A2, b.chip 0, 15, 0,
        padBytes 14 (leBytes 1 p ++ leBytes 1 cause)⟩ :: l) ∧
      (∀ q k, x.unacked = [(q, some k)] →
        (let a := s.mod.fget (Fld.FAB_RT_ALT k.dst)
        a ≠ p → s.mod.isUp a = true → k.hops < 23 → (∀ j, (s.mod.portSt j).waiting = []) →
          (s.mod.portSt a).unacked.length + flitCount k ≤ retryFlits a →
          t.mod.rdN Reg.FAB_DETOURS =
            min (s.mod.rdN Reg.FAB_DETOURS + (Config.freeWord s.mod.free).toNat + 1) 0xFFFFFFFF ∧
          ∃ l, t.mod.out = s.mod.out ++ .sent a { k with detour := p, hops := k.hops - 1 + 1 } :: l)) ∧
      ∃ u : State, t = { s with mod := u.mod.ownPorts } ∧ u.mod.portState p = portDown ∧
        u.mod.portSt p = { tried := true, downAt := b.now } ∧
        s.RegsBut [Reg.FAB_P_STATUS p, Reg.FAB_P_DOWNS p, Reg.FAB_P_REPLAYS p, Reg.FAB_STATUS, Reg.FAB_DETOURS,
          Reg.FAB_HOP_DROP] u ∧
        u = { s with mod := { b with
          regs := u.mod.regs, events := u.mod.events, out := u.mod.out, free := s.mod.free + 1
          fab := { s.mod.fab with ports := u.mod.fab.ports } } }
    let passed := s.mod.passTo x.ackDue
    let due := s.mod.isUp p = true ∧
      (s.mod.flag Fld.HEAT_RUNNING = false ∨ x.ackDue ≤ tickAt s.mod.heat.base (s.mod.heatNo + 1))
    (s.mod.isUp p = true → ∃ t, Machine.exec (.lossOfLock p) s = .next t ∧ down s.mod t 0) ∧
    (due → 7 ≤ x.replays → ∃ t, Machine.exec (.replayTimeout p) s = .next t ∧ down passed t 1 ∧
      t.mod.rdN (Reg.FAB_P_REPLAYS p) = min (s.mod.rdN (Reg.FAB_P_REPLAYS p) + 1) 0xFFFFFFFF) ∧
    (due → x.replays < 7 → ∃ t, Machine.exec (.replayTimeout p) s = .next t ∧
      t.mod.rdN (Reg.FAB_P_REPLAYS p) = min (s.mod.rdN (Reg.FAB_P_REPLAYS p) + 1) 0xFFFFFFFF ∧
      t.mod.portSt p = { x with
        replays := x.replays + 1
        ackDue := passed.now + x.rtt + x.limits.headD (s.mod.rdN Reg.FAB_RETRY_US) * 1000 } ∧
      t.mod.out = s.mod.out ++ [.resend p (match x.unacked with | f :: _ => f.1 | [] => (x.lastAck + 1) % 65536)] ∧
      s.RegsBut [Reg.FAB_P_REPLAYS p] t ∧ (∀ q, q ≠ p → t.mod.portSt q = s.mod.portSt q) ∧
      t = { s with mod := { passed with
        regs := t.mod.regs, out := t.mod.out, fab := { s.mod.fab with ports := t.mod.fab.ports } } }) ∧
    (¬ due → Machine.exec (.replayTimeout p) s = .next s) ∧
    (s.mod.isUp p = false → Machine.exec (.lossOfLock p) s = .next s ∧
      ∀ f, Machine.exec (.flitReceive p f) s = .next s)))

/-- A packet is delivered in flow order, forwarded by the table, or dropped and counted; notices spread once; a map is
armed or refused. 13_fabric.md R264, 13_fabric.md R268, 13_fabric.md R269, 13_fabric.md R271, 13_fabric.md R272,
13_fabric.md R274. The model's own choices in it: log entries 139, 149 and 150. -/
def Obligations.PacketsFlowsAndRoutes : Prop :=
  (∀ (s : State) (p : Nat) (hb payload : List Byte) (rs : Replies), s.mod.isUp p = true →
    (let k := parsePacket hb payload
    let f := s.mod.flowSt k.src
    (packetOk hb = false → ∃ t, Machine.exec (.packetReceive p hb (payload, rs)) s = .next t ∧
      t.mod.rdN Reg.FAB_BAD_PKT = min (s.mod.rdN Reg.FAB_BAD_PKT + 1) 0xFFFFFFFF ∧ s.RegsBut [Reg.FAB_BAD_PKT] t ∧
      t = { s with mod := { s.mod with regs := t.mod.regs } }) ∧
    (packetOk hb = true → k.kind ≠ 7 → k.dst = s.mod.self →
      (k.seq < f.next ∨ f.held.any (fun x => x.2.seq == k.seq) = true → ∃ t, Machine.exec (.packetReceive p hb (payload, rs)) s = .next t ∧
        t.mod.rdN Reg.FAB_DUP = min (s.mod.rdN Reg.FAB_DUP + 1) 0xFFFFFFFF ∧ s.RegsBut [Reg.FAB_DUP] t ∧
        t = { s with mod := { s.mod with regs := t.mod.regs } }) ∧
      (f.next < k.seq → f.held = [] → s.mod.reseqBytes + 32 + k.payload.length ≤ 0x1000000 →
        ∃ t, Machine.exec (.packetReceive p hb (payload, rs)) s = .next t ∧
          t.mod.flowSt k.src = { f with
            held := [(s.mod.now + s.mod.rdN Reg.FAB_RESEQ_TMO * 1000000, k)] } ∧
          (∀ x, x ≠ k.src → t.mod.flowSt x = s.mod.flowSt x) ∧
          t = { s with mod := { s.mod with fab := { s.mod.fab with flows := t.mod.fab.flows } } }) ∧
      (∀ c, k.seq = f.next → f.held = [] → isTierCell c = true → s.mod.buddyCell (k.addr / 64 * 64) = none →
        s.mod.buddyCell k.addr = none → s.mod.badLines = [] →
        (k.kind = 2 → placeCell (placeOf s.mod k.addr) = some c → s.mod.reachAll k.addr k.payload.length false = stOk →
          s.mod.readRoute k.addr = .serve k.addr false →
          ∃ t, Machine.exec (.packetReceive p hb (payload, rs)) s = .next t ∧
            memRead t.mem c k.payload.length = k.payload ∧ s.BytesBut c k.payload.length t ∧
            t.mod.flowSt k.src = { f with next := f.next + 1 } ∧
            t.mod.out = s.mod.out ++ [.handed k, .packet k.src 4 (leBytes 1 stOk)] ∧
            (s.mod.tables.hot = [] → t.mod.tables.hot = []) ∧
            t = { s with mem := t.mem, mod := { s.mod with
              out := t.mod.out, fab := { s.mod.fab with flows := t.mod.fab.flows }
              tables := { s.mod.tables with hot := t.mod.tables.hot } } }) ∧
        (k.kind = 1 → placeCell (placeOf s.mod (k.addr / 64 * 64)) = some c →
          s.mod.reachAll (k.addr / 64 * 64) 64 true = stOk →
          s.mod.readRoute (k.addr / 64 * 64) = .serve (k.addr / 64 * 64) false →
          ∃ t, Machine.exec (.packetReceive p hb (payload, rs)) s = .next t ∧
            t.mod.flowSt k.src = { f with next := f.next + 1 } ∧
            t.mod.out = s.mod.out ++ [.handed k, .packet k.src 4 (leBytes 1 stOk ++ memRead s.mem c 64)] ∧
            t = { s with mod := { s.mod with
              out := t.mod.out, fab := { s.mod.fab with flows := t.mod.fab.flows } } }) ∧
        (∀ i a w, (k.kind = 1 ∧ s.mod.readRoute (k.addr / 64 * 64) = .hold i a w) ∨
            (k.kind = 2 ∧ s.mod.readRoute k.addr = .hold i a w) →
          ∃ t, Machine.exec (.packetReceive p hb (payload, rs)) s = .next t ∧
            (i, if k.kind = 1 then MoveHeld.read k else MoveHeld.write k) ∈ t.mod.tables.moveQueue ∧
            t.mod.flowSt k.src = { f with next := f.next + 1 } ∧ t.mod.out = s.mod.out ++ [.handed k] ∧
            t = { s with mod := { s.mod with
              out := t.mod.out, fab := { s.mod.fab with flows := t.mod.fab.flows }
              tables := { s.mod.tables with moveQueue := t.mod.tables.moveQueue } } })) ∧
      (∀ c, k.seq = f.next → f.held = [] → k.kind = 2 → s.mod.buddyCell k.addr = some c → s.mod.badLines = [] →
        ∃ t, Machine.exec (.packetReceive p hb (payload, rs)) s = .next t ∧
          t.mod.flowSt k.src = { f with next := f.next + 1 } ∧
          (let own := k.src = Nat.xor s.mod.self 1
          t.mem = (if own then memWrite s.mem c k.payload else s.mem) ∧
          t.mod.out = s.mod.out ++ [.handed k, .packet k.src 4 (leBytes 1 (if own then stOk else stTierError))]) ∧
          t = { s with mem := t.mem, mod := { s.mod with
            out := t.mod.out, fab := { s.mod.fab with flows := t.mod.fab.flows } } })) ∧
    (packetOk hb = true → k.kind ≠ 7 → k.dst ≠ s.mod.self → k.detour = 15 →
      (let j := s.mod.fget (Fld.FAB_RT_PRIMARY k.dst)
      let a := s.mod.fget (Fld.FAB_RT_ALT k.dst)
      let valid := s.mod.flag (Fld.FAB_RT_VALID k.dst)
      let room := fun (q : Nat) => (s.mod.portSt q).waiting = [] ∧
        (s.mod.portSt q).unacked.length + flitCount k ≤ retryFlits q
      (valid = false ∨ (23 ≤ k.hops ∧ s.mod.isUp j = true ∧ (s.mod.portSt j).waiting = []) → ∃ t, Machine.exec (.packetReceive p hb (payload, rs)) s = .next t ∧
        t.mod.rdN Reg.FAB_HOP_DROP = min (s.mod.rdN Reg.FAB_HOP_DROP + 1) 0xFFFFFFFF ∧ s.RegsBut [Reg.FAB_HOP_DROP] t ∧
        t = { s with mod := { s.mod with regs := t.mod.regs } }) ∧
      (valid = true → k.hops < 23 → s.mod.isUp j = true → room j →
        ∃ t, Machine.exec (.packetReceive p hb (payload, rs)) s = .next t ∧
          t.mod.out = s.mod.out ++ [.sent j { k with hops := k.hops + 1 }] ∧
          t = { s with mod := { s.mod with
            out := t.mod.out, fab := { s.mod.fab with ports := t.mod.fab.ports } } }) ∧
      (valid = true → k.hops < 23 → s.mod.isUp j = false → a ≠ j → s.mod.isUp a = true → room a →
        ∃ t, Machine.exec (.packetReceive p hb (payload, rs)) s = .next t ∧
          t.mod.out = s.mod.out ++ [.sent a { k with detour := j, hops := k.hops + 1 }] ∧
          t.mod.rdN Reg.FAB_DETOURS = min (s.mod.rdN Reg.FAB_DETOURS + 1) 0xFFFFFFFF ∧ s.RegsBut [Reg.FAB_DETOURS] t ∧
          t = { s with mod := { s.mod with
            regs := t.mod.regs, out := t.mod.out, fab := { s.mod.fab with ports := t.mod.fab.ports } } }))))) ∧
  (∀ (s : State) (src due : Nat) (k : Packet) (rs : Replies), (s.mod.flowSt src).held = [(due, k)] →
    (due ≤ s.mod.now → ∃ t, Machine.exec (.reseqGapTimeout (src, rs)) s = .next t ∧
      (t.mod.flowSt src).held = [] ∧ (t.mod.flowSt src).next = k.seq + 1 ∧
      t.mod.rdN Reg.FAB_RESEQ_GAP = min (s.mod.rdN Reg.FAB_RESEQ_GAP + 1) 0xFFFFFFFF ∧
      (s.mod.ready = true → ∃ l, t.mod.events = s.mod.events ++ ⟨s.mod.now, s.mod.heatNo, 0x0A6, s.mod.chip 0, 15, 0,
        padBytes 14 (leBytes 2 src ++ leBytes 6 (s.mod.flowSt src).next)⟩ :: l) ∧
      ∃ l, t.mod.out = s.mod.out ++ .handed k :: l) ∧
    (s.mod.now < due → Machine.exec (.reseqGapTimeout (src, rs)) s = .next s)) ∧
  (∀ (s : State) (p : Nat) (x : LinkNotice),
    (let new := s.mod.isUp p = true ∧ x.src ≠ s.mod.self ∧ tabGet (fun _ => 0) s.mod.fab.seen x.src < x.num
    (¬ new → Machine.exec (.linkStateNotice p x) s = .next s) ∧
    (new → ∃ t, Machine.exec (.linkStateNotice p x) s = .next t ∧
      tabGet (fun _ => 0) t.mod.fab.seen x.src = x.num ∧
      (∃ l, t.mod.out = s.mod.out ++
        ((List.range 13).filter (fun q => q != p && s.mod.isUp q)).map (fun q => Out.linkState q x) ++ l) ∧
      (s.mod.routesWait = false → t.mod.portsOf x.src = x.up % 0x2000) ∧
      (s.mod.routesWait = true → t.mod.portsOf x.src = s.mod.portsOf x.src &&& (x.up % 0x2000)) ∧
      ∃ u : State, t = { s with mod := u.mod.notePorts x.src (x.up % 0x2000) } ∧
        u = { s with mod := { s.mod with out := u.mod.out, fab := { s.mod.fab with seen := u.mod.fab.seen } } }))) ∧
  (∀ (s : State) (v : Word) (o : Origin), s.Accepts Reg.FAB_LDIM_HI (setBit v 31) o →
    (let x := setBit v 31
    let l := s.mod.rdN Reg.FAB_LDIM_LO + 2 ^ 32 * wordBits x 19 0
    let h := s.mod.rdN Reg.FAB_LDIM_AT_LO + 2 ^ 32 * s.mod.rdN Reg.FAB_LDIM_AT_HI
    let ok := s.mod.heatNo + 2 ≤ h ∧ Mod.ldimOk (s.mod.fget Fld.FAB_DIMS) l = true
    (ok → ∃ t, Machine.exec (.fabLdimArm v o) s = .next t ∧ t.mod.fab.ldim = some (h, l) ∧
      s.Stored t Reg.FAB_LDIM_HI x ∧ s.Journalled t Reg.FAB_LDIM_HI x o ∧ s.RegsBut [Reg.FAB_LDIM_HI] t ∧
      t = { s with mod := { s.mod with regs := t.mod.regs, jnlPend := t.mod.jnlPend, out := t.mod.out
                                       fab := { s.mod.fab with ldim := t.mod.fab.ldim } } }) ∧
    (¬ ok → ∃ t, Machine.exec (.fabLdimArm v o) s = .next t ∧ t.mod.fab.ldim = none ∧
      t.mod.flag Fld.FAB_LDIM_ARM = false ∧
      t.mod.jnlPend = s.mod.jnlPend ++ [s.entryOf stMalformed Reg.FAB_LDIM_HI x o] ∧ s.RegsBut [Reg.FAB_LDIM_HI] t ∧
      t = { s with mod := { s.mod with regs := t.mod.regs, jnlPend := t.mod.jnlPend
                                       out := s.mod.out ++ State.replyOf stMalformed o
                                       fab := { s.mod.fab with ldim := none } } })))

/-- A collective packet is taken in its exchange, kept or counted stray; an instance ends by its exchanges, an ABORT
or its time, and leaves its record. 14_collectives_and_job_mapping.md R284, 14_collectives_and_job_mapping.md R285,
14_collectives_and_job_mapping.md R286, 14_collectives_and_job_mapping.md R291, 14_collectives_and_job_mapping.md
R293, 14_collectives_and_job_mapping.md R296. The model's own choices in it: log entries 88, 122 and 151. -/
def Obligations.CollectivesExchangeAndEnd : Prop :=
  (∀ (s : State) (x : CollMsg),
    (s.mod.col.insts.all (fun i => !(i.bucket == x.bucket && i.step == x.step)) = true →
      (s.mod.instEnded x.bucket x.step = true → ∃ t, Machine.exec (.collectivePacket x) s = .next t ∧
        t.mod.rdN Reg.COL_STRAY = min (s.mod.rdN Reg.COL_STRAY + 1) 0xFFFFFFFF ∧ s.RegsBut [Reg.COL_STRAY] t ∧
        t = { s with mod := { s.mod with regs := t.mod.regs } }) ∧
      (s.mod.instEnded x.bucket x.step = false → 0x2000000 < s.mod.earlyBytes + earlySize x →
        Machine.exec (.collectivePacket x) s = .next s) ∧
      (s.mod.instEnded x.bucket x.step = false → s.mod.earlyBytes + earlySize x ≤ 0x2000000 →
        ∃ t, Machine.exec (.collectivePacket x) s = .next t ∧ t.mod.col.early = s.mod.col.early ++ [x] ∧
          t.mod.rdN Reg.COL_STORE_USED = (s.mod.earlyBytes + earlySize x + 1023) / 1024 ∧
          s.RegsBut [Reg.COL_STORE_USED] t ∧
          t = { s with mod := { s.mod with regs := t.mod.regs, col := { s.mod.col with early := t.mod.col.early } } }))) ∧
  (∀ (s : State) (i : Inst) (x : CollMsg), s.mod.findInst x.bucket = some i → i.step = x.step → i.bucket ≠ 0 →
    i.status = none → (∀ st, x.body ≠ .abort st) →
    (x.op ≠ Mod.instOp i ∨ x.count ≠ Mod.instCount i → ∃ t, Machine.exec (.collectivePacket x) s = .next t ∧
      t.mod.findInst x.bucket = some { i with status := some stMalformed, partner := x.src } ∧
      t = { s with mod := { s.mod with out := t.mod.out, col := { s.mod.col with insts := t.mod.col.insts } } }) ∧
    (let g := s.mod.instDims i
    let me := s.mod.instRank i
    let r := i.round
    let from_ := s.mod.instMember i (pairRank me (g - 1 - r))
    x.op = 1 → Mod.instOp i = 1 → x.count = Mod.instCount i → r + 1 < g → i.inbox = [] →
      (x.src ≠ from_ ∨ x.round ≠ r → ∃ t, Machine.exec (.collectivePacket x) s = .next t ∧
        t.mod.findInst x.bucket = some (noteStart { i with inbox := [x] } x) ∧
        t = { s with mod := { s.mod with col := { s.mod.col with insts := t.mod.col.insts } } }) ∧
      (∀ cs, x.src = from_ → x.round = r → x.body = .chunks cs → s.mod.bodyOk i r x.body = true →
        ∃ t, Machine.exec (.collectivePacket x) s = .next t ∧
          (∃ j, t.mod.findInst x.bucket = some j ∧ j.round = r + 1 ∧ j.inbox = [] ∧ j.status = none ∧
            j.held = (i.held.filter (fun c => Mod.liveChunk g me (r + 1) c.1)).map (fun c =>
              (c.1, if bitOf me (g - 1 - r) = false then sumChunks c.2 (((cs.find? (·.1 == c.1)).map (·.2)).getD [])
                else sumChunks (((cs.find? (·.1 == c.1)).map (·.2)).getD []) c.2)) ∧
            ∃ y, t.mod.out = s.mod.out ++ [.coll (s.mod.instMember i (pairRank me (g - 1 - (r + 1)))) y] ∧
              y.bucket = i.bucket ∧ y.step = i.step ∧ y.round = r + 1 ∧
              y.body = .chunks (j.held.filter (fun c => !Mod.liveChunk g me (r + 2) c.1))) ∧
          t = { s with mod := { s.mod with out := t.mod.out, col := { s.mod.col with insts := t.mod.col.insts } } }))) ∧
  (∀ (s : State) (i : Inst) (src st : Nat), s.mod.findInst i.bucket = some i → i.status = none →
    (let ended := fun (t : State) (st partner : Nat) =>
      t.mod.findInst i.bucket = some { i with status := some st, partner := partner } ∧
      t.mod.out = s.mod.out ++ (s.mod.instExpects i).map (fun d => Out.coll d
        ⟨s.mod.self, i.bucket, i.step, Mod.instOp i, Mod.instCount i, i.round, i.startAt, .abort st⟩) ∧
      t = { s with mod := { s.mod with out := t.mod.out, col := { s.mod.col with insts := t.mod.col.insts } } }
    (∃ t, Machine.exec (.abort src i.bucket i.step st) s = .next t ∧ ended t (st % 16) src) ∧
    (i.due ≤ s.mod.now → ∃ t, Machine.exec (.collectiveTimeout i.bucket) s = .next t ∧ ∃ q, ended t stTierTimeout q) ∧
    (s.mod.now < i.due → Machine.exec (.collectiveTimeout i.bucket) s = .next s))) ∧
  (∀ (s : State) (i : Inst), s.mod.findInst 0 = some i → i.status = none → i.begun = false → i.round = 0 → i.step < 2 ^ 32 →
    (s.mod.closeWaits i = true → Machine.exec .stepClose s = .next s) ∧
    (s.mod.closeWaits i = false → i.inbox = [] → ∃ t, Machine.exec .stepClose s = .next t ∧
      (let sums := (s.mod.closeTake i).2
      t.mod.closeTaken i.step = true ∧ (∀ a ∈ t.mod.col.steps, a.step ≠ i.step) ∧
      (∃ j, t.mod.findInst 0 = some j ∧ j.begun = true ∧ j.sums = some sums ∧ j.names = s.mod.tableNames ∧
        j.status = if s.mod.instDims i = 0 then some stOk else none) ∧
      t.mod.out = (if s.mod.instDims i = 0 then s.mod.out else s.mod.out ++
        [.coll (s.mod.instMember i (pairRank (s.mod.instRank i) 0))
          ⟨s.mod.self, 0, i.step, 0, 0, 0, i.startAt, .close sums⟩]) ∧
      t = { s with mod := { s.mod with out := t.mod.out, num := { s.mod.num with recs := t.mod.num.recs }
                                       col := t.mod.col } }))) ∧
  (∀ (s : State) (b c st : Nat) (i : Inst), 0 < b → b < 1024 → s.mod.findInst b = some i → i.status = some st →
    i.notify = none → s.mod.col.starts = [] → s.mod.badLines = [] →
    i.stat.bind (fun a => s.mod.ownRegion a 16 true) = some c → isTierCell c = true → s.mod.stackDown c = false →
    ∃ t n, Machine.exec (.collectiveEnd b) s = .next t ∧ t.mod.findInst b = none ∧
      memRead t.mem c 16 = Mod.collRecord i st n ∧
      (st = stOk ∨ i.written ≠ 0 ∨ i.refuses = true → n = i.written) ∧
      (st ≠ stOk → i.written = 0 → n ≤ Mod.instCount i) ∧
      t.mod.cores = s.mod.cores ∧ t.mod.works = s.mod.works ∧ t.mod.out = s.mod.out ∧
      (∀ x, (x < c ∨ c + 16 ≤ x) → (st ≠ stOk → ∀ d, s.mod.ownRegion (bkDst i.entry) (s.mod.dstBytes i) true = some d →
        x < d ∨ d + s.mod.dstBytes i ≤ x) → t.byteAt x = s.byteAt x) ∧
      t.mod.rdN (Reg.COL_BK_LAST_STEP b) = i.step % 2 ^ 32 ∧ t.mod.rdN (Reg.COL_BK_LAST_STATUS b) = st % 2 ^ 32 ∧
      (st = stOk → t.mod.rdN Reg.COL_DONE = min (s.mod.rdN Reg.COL_DONE + 1) 0xFFFFFFFF ∧
        t.mod.rdN (Reg.COL_BK_NORM2 b) = (if Mod.instNorm i = true then accRead i.acc else 0) % 2 ^ 32 ∧
        t.mod.events = s.mod.events) ∧
      (st ≠ stOk → t.mod.rdN Reg.COL_FAILED = min (s.mod.rdN Reg.COL_FAILED + 1) 0xFFFFFFFF ∧
        (s.mod.ready = true → t.mod.events = s.mod.events ++ [⟨s.mod.now, s.mod.heatNo, 0x0C1, s.mod.chip 0, 15, 0,
          padBytes 14 (leBytes 2 b ++ leBytes 4 i.step ++ leBytes 1 st ++ leBytes 2 i.partner)⟩])))

/-- A producer is enabled with an empty lane, disabled with its last notice, and an evaluation sets free bytes,
positions and the hold state. 17_ingest_reservoir.md R337, 17_ingest_reservoir.md R338, 17_ingest_reservoir.md R342,
17_ingest_reservoir.md R343, 17_ingest_reservoir.md R345. The model's own choices in it: log entry 95. -/
def Obligations.IngestLanesAndHeadroom : Prop :=
  (∀ (s : State) (p : Nat) (v : Word) (o : Origin), p < 16 →
    (let x := setBit v 31
    let told := fun (t : State) (k : Nat) (peer : Bool) => s.mod.flag Fld.HIF_LINK_UP = true →
      s.mod.flag Fld.HIF_DETACHED = false → peer = false → ∃ w, t.mod.out = s.mod.out ++ [.host w] ++ State.replyOf stOk o ∧
        w.addr = s.mod.base64 (Reg.ING_P_NOTE_LO p) ∧ w.bytes.length = 32 ∧ w.bytes[14]? = some (BitVec.ofNat 8 k)
    (s.Accepts (Reg.ING_P_CTRL p) x o → s.mod.laneOn p = false →
      (s.mod.laneOk p = false → ∃ t, Machine.exec (.producerEnable p v o) s = .next t ∧
        s.Dropped t stMalformed (Reg.ING_P_CTRL p) x o) ∧
      (s.mod.laneOk p = true → ∃ t, Machine.exec (.producerEnable p v o) s = .next t ∧ t.mod.laneOn p = true ∧
        t.mod.flag (Fld.ING_P_HELD p) = false ∧ t.mod.rd64 (Reg.ING_P_CONSUME_POS_LO p) = 0 ∧
        t.mod.rd64 (Reg.ING_P_COMMIT_POS_LO p) = 0 ∧
        t.mod.laneSt p = { at_ := s.mod.now, free := (s.mod.laneBytes p - 4096 : Nat), shown := s.mod.laneBytes p - 4096 } ∧
        memRead t.mem (s.mod.laneCell p) 64 = List.replicate 64 0 ∧ s.BytesBut (s.mod.laneCell p) 64 t ∧
        told t 0 (bitOf x.toNat 29) ∧
        t.mod.jnlPend = s.mod.jnlPend ++ [s.entryOf stOk (Reg.ING_P_CTRL p) x o] ∧
        (∀ a, (a < 0x30000 ∨ 0x40000 ≤ a) → t.mod.rd a = s.mod.rd a) ∧
        t = { s with mem := t.mem, mod := { s.mod with
          regs := t.mod.regs, jnlPend := t.mod.jnlPend, out := t.mod.out, ing := t.mod.ing
          badLines := t.mod.badLines } })) ∧
    (s.Accepts (Reg.ING_P_CTRL p) x o → s.mod.laneOn p = true →
      (wordBits x 29 26 ≠ bitsOf (s.mod.rdN (Reg.ING_P_CTRL p)) 29 26 →
        ∃ t, Machine.exec (.producerEnable p v o) s = .next t ∧ s.Dropped t stAccessDenied (Reg.ING_P_CTRL p) x o) ∧
      (wordBits x 29 26 = bitsOf (s.mod.rdN (Reg.ING_P_CTRL p)) 29 26 →
        ∃ t, Machine.exec (.producerEnable p v o) s = .next t ∧ s.Stored t (Reg.ING_P_CTRL p) x ∧
          s.Journalled t (Reg.ING_P_CTRL p) x o ∧ s.RegsBut [Reg.ING_P_CTRL p] t ∧ t.mem = s.mem)) ∧
    (s.Accepts (Reg.ING_P_CTRL p) (clearBit v 31) o → s.mod.laneOn p = true →
      ∃ t, Machine.exec (.producerDisable p v o) s = .next t ∧ t.mod.laneOn p = false ∧
        t.mod.flag (Fld.ING_P_HELD p) = false ∧ told t 2 (s.mod.flag (Fld.ING_P_NOTE_PEER p)) ∧
        t.mod.jnlPend = s.mod.jnlPend ++ [s.entryOf stOk (Reg.ING_P_CTRL p) (clearBit v 31) o] ∧
        (∀ a, (a < 0x30000 ∨ 0x40000 ≤ a) → t.mod.rd a = s.mod.rd a) ∧
        t = { s with mod := { s.mod with
          regs := t.mod.regs, jnlPend := t.mod.jnlPend, out := t.mod.out, ing := t.mod.ing } }))) ∧
  (∀ s : State, s.mod.ready = false → Machine.exec .ingestEvaluation s = .next s) ∧
  (∀ s : State, s.mod.ready = true → ∃ t, Machine.exec .ingestEvaluation s = .next t ∧
    (∀ p ∈ s.mod.producers, ∀ commit cpos consume spos, Mod.readHeader s.mem s.mod p = some (commit, cpos, consume, spos) →
      (let c := s.mod.laneBytes p - 4096
      let f := (c : Int) - ((commit : Int) - consume)
      let bad := commit < consume ∨ c + consume < commit
      t.mod.laneSt p = { overran := (s.mod.laneSt p).overran || decide bad, at_ := s.mod.now, free := f, consume := consume
                         shown := (t.mod.laneSt p).shown
                         short := if f < s.mod.laneStop p then true else if 2 * s.mod.laneStop p ≤ f then false
                           else (s.mod.laneSt p).short } ∧
      (0 ≤ f → (t.mod.laneSt p).shown = f.toNat) ∧
      t.mod.rdN (Reg.ING_P_FREE p) = (t.mod.laneSt p).shown / 1024 % 2 ^ 32 ∧ t.mod.rd64 (Reg.ING_P_COMMIT_POS_LO p) = cpos % 2 ^ 64 ∧
      t.mod.rd64 (Reg.ING_P_CONSUME_POS_LO p) = spos % 2 ^ 64)) ∧
    t.mod.ing.full = (if t.mod.freeSum < s.mod.stopSum then true else if 2 * s.mod.stopSum ≤ t.mod.freeSum then false
      else s.mod.ing.full) ∧
    (∀ p ∈ s.mod.producers,
      t.mod.flag (Fld.ING_P_HELD p) = ((t.mod.laneSt p).overran || (t.mod.laneSt p).short || t.mod.ing.full) ∧
      (let event := fun (code : Nat) => (⟨s.mod.now, s.mod.heatNo, code, s.mod.chip 0, 15, 0, padBytes 14 (leBytes 1 p ++
        leBytes 1 (t.mod.laneCause p) ++ leBytes 8 (t.mod.laneSt p).shown)⟩ : EvRec)
      (t.mod.flag (Fld.ING_P_HELD p) ≠ s.mod.flag (Fld.ING_P_HELD p) →
        event (if t.mod.flag (Fld.ING_P_HELD p) = true then 0x061 else 0x062) ∈ t.mod.events) ∧
      ((t.mod.laneSt p).overran = true → (s.mod.laneSt p).overran = false → event 0x063 ∈ t.mod.events))) ∧
    (∀ a, (a < 0x30000 ∨ 0x40000 ≤ a) → (∀ u, u < 5 → a ≠ Reg.MEM_RELEASED_HIT u) → t.mod.rd a = s.mod.rd a) ∧
    t = { s with mod := { s.mod with
      regs := t.mod.regs, events := t.mod.events, ing := t.mod.ing, out := t.mod.out, free := t.mod.free } })

/-- Supply and sensor reports, a released die, a token reset and the broker's exchange change what chapter 19 says.
19_power_and_thermal.md R362, 19_power_and_thermal.md R364, 19_power_and_thermal.md R366, 19_power_and_thermal.md
R367, 19_power_and_thermal.md R369, 19_power_and_thermal.md R371, 19_power_and_thermal.md R373,
19_power_and_thermal.md R375, 19_power_and_thermal.md R377. The model's own choices in it: log entries 50, 98, 99, 151
and 152. -/
def Obligations.PowerSuppliesAndTokens : Prop :=
  (let event := fun (s : State) (code : Nat) (l : List Byte) =>
    (⟨s.mod.now, s.mod.heatNo, code, s.mod.chip 0, 15, 0, padBytes 14 l⟩ : EvRec)
  (∀ (s : State) (d : Nat), d < 4 → Machine.exec (.voltageReached d) s = .next { s with mod := { s.mod with
    pwr := { s.mod.pwr with clock := tabPut (fun _ => 0) s.mod.pwr.clock d (s.mod.fget ⟨Reg.PWR_D_STEP d, 18, 16⟩) } } }) ∧
  (∀ (s : State) (vin : Nat),
    (let due := s.mod.ready = true ∧ vin < 40000 ∧ s.mod.flag Fld.PWR_VIN_LOW = false
    (¬ due → Machine.exec (.vinLow vin) s = .next s) ∧
    (due → ∃ t, Machine.exec (.vinLow vin) s = .next t ∧ t.mod.flag Fld.PWR_VIN_LOW = true ∧
      s.RegsBut [Reg.PWR_STATUS] t ∧ (∀ b, b ≠ 3 → bitOf (t.mod.rdN Reg.PWR_STATUS) b = bitOf (s.mod.rdN Reg.PWR_STATUS) b) ∧
      t = { s with mod := { s.mod with
        regs := t.mod.regs, events := s.mod.events ++ [event s 0x0E5 (leBytes 2 vin)] } }))) ∧
  (∀ (s : State) (tj : Nat), s.mod.ready = true →
    (let rises := s.mod.pwr.hubHot = false ∧ 105 ≤ tj
    let falls := s.mod.pwr.hubHot = true ∧ tj ≤ 100
    ∃ t, Machine.exec (.hubThermal tj) s = .next t ∧ t.mod.rdN Reg.PWR_HUB_TJ = min tj 255 ∧
      s.RegsBut [Reg.PWR_HUB_TJ] t ∧
      (¬ rises → ¬ falls → t = { s with mod := { s.mod with regs := t.mod.regs } }) ∧
      (rises ∨ falls → t = { s with mod := { s.mod with
        regs := t.mod.regs, events := s.mod.events ++ [event s 0x0E7 (leBytes 1 tj ++ leBytes 1 (if 105 ≤ tj then 1 else 0))]
        pwr := { s.mod.pwr with hubHot := decide (105 ≤ tj) } } }))) ∧
  (∀ (s : State) (a b : Nat), s.mod.ready = false → Machine.exec (.hubThermal a) s = .next s ∧
    Machine.exec (.coolantWarn a b) s = .next s ∧ Machine.exec (.coolantWarnClear a b) s = .next s) ∧
  (∀ (s : State) (x : BrokerMsg), s.mod.pwr.sent = none → Machine.exec (.brokerPacket x) s = .next s) ∧
  (∀ (s : State) (inlet outlet : Nat), s.mod.ready = true →
    (let level := 40 < inlet ∨ inlet + 20 < outlet
    let shown := fun (t : State) => t.mod.rdN Reg.PWR_COOL = min outlet 255 * 256 + min inlet 255 ∧
      s.RegsBut [Reg.PWR_COOL, Reg.PWR_STATUS] t
    (∃ t, Machine.exec (.coolantWarn inlet outlet) s = .next t ∧ shown t ∧
      (level ∧ s.mod.flag Fld.PWR_COOLANT_WARN = false → t.mod.flag Fld.PWR_COOLANT_WARN = true ∧
        t = { s with mod := { s.mod with
          regs := t.mod.regs, events := s.mod.events ++ [event s 0x0E6 (leBytes 1 inlet ++ leBytes 1 outlet)] } }) ∧
      (¬ (level ∧ s.mod.flag Fld.PWR_COOLANT_WARN = false) → t.mod.rd Reg.PWR_STATUS = s.mod.rd Reg.PWR_STATUS ∧
        t = { s with mod := { s.mod with regs := t.mod.regs } })) ∧
    (∃ t, Machine.exec (.coolantWarnClear inlet outlet) s = .next t ∧ shown t ∧
      t.mod.flag Fld.PWR_COOLANT_WARN =
        (if inlet ≤ 38 ∧ outlet ≤ inlet + 18 then false else s.mod.flag Fld.PWR_COOLANT_WARN) ∧
      t = { s with mod := { s.mod with regs := t.mod.regs } }))) ∧
  (∀ (s : State) (v : Word) (o : Origin), s.Accepts Reg.PWR_CTRL (setBit v 1) o →
    ∃ t, Machine.exec (.pwrPhaseClear v o) s = .next t ∧ t.mod.flag Fld.PWR_PHASE_CLEAR = false ∧
      t.mod.flag Fld.PWR_BROKER_EN = bitOf v.toNat 0 ∧ s.Journalled t Reg.PWR_CTRL (setBit v 1) o ∧
      s.RegsBut [Reg.PWR_CTRL] t ∧
      t = { s with mod := { s.mod with
        regs := t.mod.regs, jnlPend := t.mod.jnlPend, out := t.mod.out, pwr := { s.mod.pwr with clear := true } } }) ∧
  (∀ (s : State) (d : Nat) (v : Word) (o : Origin), d < 4 → s.Accepts (Reg.PWR_D_CTRL d) (setBit v 31) o →
    (let cool := s.mod.dieHalted d = true ∧ s.mod.hotStack d ≤ 90 ∧ bitsOf (s.mod.rdN (Reg.PWR_D_TJ d)) 7 0 ≤ 95
    ∃ t, Machine.exec (.pwrDRelease d v o) s = .next t ∧
      (¬ cool → s.Dropped t stAccessDenied (Reg.PWR_D_CTRL d) (setBit v 31) o) ∧
      (cool → tabGet (fun _ => false) t.mod.pwr.release d = true ∧
        (∀ e, e ≠ d → tabGet (fun _ => false) t.mod.pwr.release e = tabGet (fun _ => false) s.mod.pwr.release e) ∧
        t.mod.flag (Fld.PWR_D_HALT_AUTO d) = bitOf v.toNat 0 ∧ s.Journalled t (Reg.PWR_D_CTRL d) (setBit v 31) o ∧
        s.RegsBut [Reg.PWR_D_CTRL d] t ∧
        t = { s with mod := { s.mod with
          regs := t.mod.regs, jnlPend := t.mod.jnlPend, out := t.mod.out
          pwr := { s.mod.pwr with release := t.mod.pwr.release } } }))) ∧
  (∀ (s : State) (v : Word) (o : Origin), s.Accepts Reg.PWR_TOKEN_RESET_AT_HI (setBit v 31) o →
    (let x := setBit v 31
    let h := s.mod.rdN Reg.PWR_TOKEN_RESET_AT_LO + 2 ^ 32 * wordBits v 15 0
    ∃ t, Machine.exec (.tokenResetArm v o) s = .next t ∧ s.RegsBut [Reg.PWR_TOKEN_RESET_AT_HI] t ∧
      t.mod.flag ⟨Reg.PWR_TOKEN_RESET_AT_HI, 31, 31⟩ = decide (s.mod.heatNo + 2 ≤ h) ∧
      (s.mod.heatNo + 2 ≤ h → s.Stored t Reg.PWR_TOKEN_RESET_AT_HI x ∧ s.Journalled t Reg.PWR_TOKEN_RESET_AT_HI x o) ∧
      (h < s.mod.heatNo + 2 → t.mod.out = s.mod.out ++ State.replyOf stMalformed o ∧
        t.mod.jnlPend = s.mod.jnlPend ++ [s.entryOf stMalformed Reg.PWR_TOKEN_RESET_AT_HI x o]) ∧
      t = { s with mod := { s.mod with
        regs := t.mod.regs, jnlPend := t.mod.jnlPend, out := t.mod.out
        pwr := { s.mod.pwr with resetAt := if s.mod.heatNo + 2 ≤ h then some h else none } } })) ∧
  (∀ (s : State) (x : Nat),
    (let h := s.mod.fget Fld.PWR_BROKER_HEATS
    let due := s.mod.ready = true ∧ s.mod.flag Fld.HEAT_RUNNING = true ∧ s.mod.flag Fld.PWR_BROKER_EN = true ∧
      s.mod.heatNo % h = 0 ∧ s.mod.pwr.sent.map (·.heat) ≠ some s.mod.heatNo
    (¬ due ∨ s.mod.brokerPartner (s.mod.heatNo / h) = none → Machine.exec .brokerBoundary s = .next s) ∧
    (due → s.mod.brokerPartner (s.mod.heatNo / h) = some x → ∃ t b, Machine.exec .brokerBoundary s = .next t ∧
      b.src = s.mod.self ∧ b.heat = s.mod.heatNo ∧ b.tokens = s.mod.tokens ∧ b.limited = s.mod.pwr.limited ∧
      b.score = min (s.mod.pwr.missHeats * s.mod.heat.base.p + s.mod.pwr.lag) 0xFFFFFFFF ∧
      b.spare = s.mod.spareTokens ∧ b.room = (3600 - s.mod.rdN Reg.PWR_CAP_NOW) / 10 ∧
      t.mod.rdN Reg.PWR_SCORE = b.score ∧ s.RegsBut [Reg.PWR_SCORE] t ∧
      t.mod.out = s.mod.out ++ [.broker x b] ∧
      t = { s with mod := { s.mod with
        regs := t.mod.regs, out := t.mod.out
        pwr := { s.mod.pwr with
          sent := some b, partner := x, waiting := true, missHeats := 0, lag := 0, peak := 0, limited := false } } }))) ∧
  (∀ step a b, brokerMove step b a = - brokerMove step a b) ∧
  (∀ (s : State) (x own : BrokerMsg), s.mod.pwr.sent = some own →
    (let due := s.mod.pwr.waiting = true ∧ x.src = s.mod.pwr.partner ∧ x.heat = own.heat
    let k := brokerMove (s.mod.fget Fld.PWR_TOKEN_STEP) own x
    (¬ due → Machine.exec (.brokerPacket x) s = .next s) ∧
    (due → ∃ t, Machine.exec (.brokerPacket x) s = .next t ∧
      (s.mod.flag Fld.PWR_TOKENS_FROZEN = true ∨ k = 0 → t = { s with mod := { s.mod with
        pwr := { s.mod.pwr with waiting := false } } }) ∧
      (s.mod.flag Fld.PWR_TOKENS_FROZEN = false → k < 0 →
        t.mod.rdN Reg.PWR_TOKENS = twos 16 (s.mod.tokens + k) ∧ s.RegsBut [Reg.PWR_TOKENS] t ∧
        t = { s with mod := { s.mod with regs := t.mod.regs, pwr := { s.mod.pwr with waiting := false } } }) ∧
      (s.mod.flag Fld.PWR_TOKENS_FROZEN = false → 0 ≤ k → t = { s with mod := { s.mod with
        pwr := { s.mod.pwr with waiting := false, credit := s.mod.pwr.credit + k.toNat } } })))))

/-- A cast is armed, copied, drained and compared as chapter 20 says, and ends with the first status of R392 that
holds. 20_casts_failures_and_recovery.md R384, 20_casts_failures_and_recovery.md R388,
20_casts_failures_and_recovery.md R391, 20_casts_failures_and_recovery.md R392, 20_casts_failures_and_recovery.md
R393, 20_casts_failures_and_recovery.md R400, 20_casts_failures_and_recovery.md R410. The model's own choices in it:
log entries 75, 100, 102, 103, 113, 117 and 125. -/
def Obligations.CastsCopyDrainAndCompare : Prop :=
  (∀ (s : State) (v : Word) (o : Origin), s.Accepts Reg.CAST_CTRL (setBit v 31) o →
    (let x := setBit v 31
    let set := bitsOf v.toNat 3 0
    let bad := fun (t : State) (st : Nat) => t.mod.flag Fld.CAST_ARM = false ∧ s.RegsBut [Reg.CAST_CTRL] t ∧
      t.mod.jnlPend = s.mod.jnlPend ++ [s.entryOf st Reg.CAST_CTRL x o] ∧ t.mod.out = s.mod.out ++ State.replyOf st o ∧
      t = { s with mod := { s.mod with regs := t.mod.regs, jnlPend := t.mod.jnlPend, out := t.mod.out } }
    let slots := 2 ≤ bitsOf v.toNat 7 4 ∧ bitsOf v.toNat 7 4 ≤ 8
    let fits := (s.mod.regStore Reg.CAST_CTRL x).castArmOk s.mem set = true
    ∃ t, Machine.exec (.castArm v o) s = .next t ∧
      (¬ slots → bad t stMalformed) ∧
      (slots → s.mod.castState ≠ 0 → bad t stAccessDenied) ∧
      (slots → s.mod.castState = 0 → ¬ fits → bad t stMalformed) ∧
      (slots → s.mod.castState = 0 → fits →
        s.mod.heatNo + 2 ≤ s.mod.castAt ∧ s.mod.cast.top < s.mod.rdN Reg.CAST_NUMBER ∧
        t.mod.cast = { s.mod.cast with
          run := some {
            number := s.mod.rdN Reg.CAST_NUMBER, heat := s.mod.castAt, set := set, step := s.mod.rdN Reg.CAST_REC_STEP
            mb := bitsOf (s.mod.rdN Reg.CAST_REC_MB) 15 0, paired := bitOf v.toNat 30 }
          top := s.mod.rdN Reg.CAST_NUMBER, partner := none } ∧
        t.mod.castState = 1 ∧ t.mod.flag Fld.CAST_UNCOMPARED = false ∧ s.Stored t Reg.CAST_CTRL x ∧
        s.Journalled t Reg.CAST_CTRL x o ∧ s.RegsBut [Reg.CAST_CTRL, Reg.CAST_STATUS] t ∧
        t = { s with mod := { s.mod with
          regs := t.mod.regs, jnlPend := t.mod.jnlPend, out := t.mod.out, cast := t.mod.cast } }))) ∧
  (∀ (s : State) (r : CastRun), s.mod.cast.run = some r →
    (let due := s.mod.castState = 2 ∧ (∀ g, g < 48 → s.mod.clusterFinished g = true) ∧
      (∀ w ∈ s.mod.works, w.unit = .ladle → ∃ ring i, w.who = .ring ring i)
    (¬ due → Machine.exec .castCopy s = .next s) ∧
    (due → ∃ t objs, Machine.exec .castCopy s = .next t ∧ t.mod.castState = 3 ∧
      t.mod.cast = { s.mod.cast with run := some { r with
        objs := objs, le := (s.mod.leOf r.step).getD s.mod.latestLe.2, clean := s.mod.num.clean, seed := s.mod.seed } } ∧
      (∀ k sp, k < 1024 → s.mod.objIn r.set k = true → s.mod.objSpan k = some sp → ∃ c ∈ objs, c.index = k ∧
        c.addr = s.mod.objAddr k ∧ c.bytes = memRead s.mem sp.addr sp.len ∧
        (s.mod.badIn sp.addr sp.len = false → s.mod.stackDown sp.addr = false → s.mod.sramDown sp.addr = false →
          c.status = stOk) ∧
        (isTierCell sp.addr = true → s.mod.badIn sp.addr sp.len = true ∨ s.mod.stackDown sp.addr = true →
          c.status = stTierError)) ∧
      (∀ g, g < 48 → (t.mod.arr g).tag0 = none ∧ (t.mod.arr g).tag1 = none ∧
        (t.mod.arr g).captures = (s.mod.arr g).captures ∧ ∀ e ∈ t.mod.banks, e.1 / (2 * 256 * 512) ≠ g) ∧
      s.RegsBut ([Reg.CAST_STATUS] ++ (List.range 5).map Reg.MEM_RELEASED_HIT) t ∧
      t = { s with mod := { s.mod with
        regs := t.mod.regs, cast := t.mod.cast, arrays := t.mod.arrays, banks := t.mod.banks } }))) ∧
  (∀ (s : State) (r : CastRun) (late : Nat) (fails : List (Nat × Answer)), s.mod.cast.run = some r →
    (s.mod.castState ≠ 3 → Machine.exec (.castCopyDone late fails) s = .next s) ∧
    (s.mod.castState = 3 → ∃ t objs, Machine.exec (.castCopyDone late fails) s = .next t ∧ t.mod.castState = 4 ∧
      t.mod.rdN Reg.CAST_LATE_WRITE = min (s.mod.rdN Reg.CAST_LATE_WRITE + late) 0xFFFFFFFF ∧
      t.mod.flag castHostField = s.mod.detached ∧
      t.mod.cast = { s.mod.cast with
        run := some { r with objs := objs, late := late != 0 } } ∧
      objs.length = r.objs.length ∧
      (∀ (i : Nat) (a b : CastObj), r.objs[i]? = some a → objs[i]? = some b → { b with bytes := a.bytes, status := a.status } = a ∧
        b.bytes.length = a.bytes.length ∧
        (fails.find? (fun f => f.1 == a.index) = none → b.status = a.status ∧ (a.status = stOk → b = a)) ∧
        (∀ k y, fails.find? (fun f => f.1 == a.index) = some (k, y) →
          b.status = if answerStatus y = stTierTimeout then stTierTimeout else stTierError)) ∧
      s.RegsBut [Reg.CAST_STATUS, Reg.CAST_LATE_WRITE] t ∧
      t = { s with mod := { s.mod with regs := t.mod.regs, cast := t.mod.cast, free := t.mod.free } })) ∧
  (∀ (s : State) (r : CastRun) (buddy host : Answer), s.mod.cast.run = some r →
    (let mate := Nat.xor s.mod.self 1
    let b := match r.buddy with | some st => st | none => s.mod.buddyStatus buddy
    let toBuddy := if r.buddy.isNone = true ∧ b ≠ stUnitLost ∧ b ≠ stRouteLost then
      (Mod.placeObjects r.objs ++ [(0, s.mod.castRecord r)]).map (fun x : Nat × List Byte =>
        Out.packet mate 2 (leBytes 8 (s.mod.buddySlot mate r.number + x.1) ++ x.2)) else []
    let toHost := (Mod.placeObjects r.objs).map (fun x : Nat × List Byte =>
        Out.host ⟨s.mod.hostSlot r.number + x.1, x.2, s.mod.flag Fld.HIF_RO_EN, .cast⟩) ++
      [.host ⟨s.mod.hostSlot r.number, s.mod.castRecord r, false, .cast⟩, .hostRead (s.mod.hostSlot r.number) 64]
    let waits := r.epochLost = false ∧ b = stOk ∧ s.mod.detached = true
    let st := if r.epochLost = true then stHostEpochChanged else if b ≠ stOk then b
      else if answerStatus host ≠ stOk then answerStatus host else Mod.copyStatus r
    let same := (s.mod.cast.compare, s.mod.cast.partner)
    (s.mod.castState ≠ 4 → Machine.exec (.castDrainDone buddy host) s = .next s) ∧
    (s.mod.castState = 4 → waits → ∃ t, Machine.exec (.castDrainDone buddy host) s = .next t ∧
      t.mod.flag castHostField = true ∧ t.mod.castState = 4 ∧ s.RegsBut [Reg.CAST_STATUS] t ∧
      t = { s with mod := { s.mod with
        regs := t.mod.regs, out := s.mod.out ++ toBuddy
        cast := { s.mod.cast with run := some { r with buddy := some stOk } } } }) ∧
    (s.mod.castState = 4 → ¬ waits → ∃ t l, Machine.exec (.castDrainDone buddy host) s = .next t ∧
      t.mod.castState = 0 ∧ t.mod.fget castLastField = st % 256 ∧ t.mod.flag castHostField = false ∧
      (s.mod.ready = true → t.mod.events = s.mod.events ++ l ++ [⟨s.mod.now, s.mod.heatNo, 0x101, s.mod.chip 0, 15, 0,
        padBytes 14 (leBytes 4 r.number ++ leBytes 4 (s.mod.rdN Reg.CAST_STOP_ACT) ++ leBytes 1 st)⟩]) ∧
      (st ≠ stOk → l = [] ∧ s.RegsBut [Reg.CAST_STATUS] t ∧ (t.mod.cast.compare, t.mod.cast.partner) = same ∧
        t.mod.out = s.mod.out ++ toBuddy ++
          if r.epochLost = true ∨ (b ≠ stOk ∧ s.mod.detached = true) then [] else toHost) ∧
      (st = stOk → t.mod.rd Reg.CAST_LAST = BitVec.ofNat 32 r.number ∧ (∀ v ∈ l, v.code = 0x103) ∧
        (∀ c ∈ r.objs, c.index < 1024 → t.mod.rd (Reg.CAST_OBJ_LAST c.index) = BitVec.ofNat 32 r.number) ∧
        t.mod.out = s.mod.out ++ toBuddy ++ toHost ++
          (if r.paired then [.packet (Nat.xor s.mod.self 4096) 8 (s.mod.castRecord r)] else []) ∧
        (t.mod.cast.compare, t.mod.cast.partner) = (if r.paired = false then same
          else if s.mod.cast.partner.isSome = true then (s.mod.cast.compare, none)
          else (s.mod.cast.compare ++ [(s.mod.castRecord r, s.mod.now + s.mod.fget Fld.COL_TMO_MS * 1000000)], none))) ∧
      (∀ a, (a < 0x80000 ∨ 0x90000 ≤ a) → t.mod.rd a = s.mod.rd a) ∧
      t = { s with mod := { s.mod with
        regs := t.mod.regs, events := t.mod.events, out := t.mod.out
        cast := { s.mod.cast with run := none, compare := t.mod.cast.compare, partner := t.mod.cast.partner } } }))) ∧
  (∀ (s : State) (record : List Byte), (∀ c ∈ s.mod.cast.compare, c.1.take 4 ≠ record.take 4) →
    Machine.exec (.castCompare record) s = .next (match s.mod.cast.run with
      | some r => if r.paired = true ∧ leNat (record.take 4) = r.number then
          { s with mod := { s.mod with cast := { s.mod.cast with partner := some record } } } else s
      | none => s)) ∧
  (∀ (s : State) (record own : List Byte) (due : Nat),
    s.mod.cast.compare.find? (fun c => c.1.take 4 == record.take 4) = some (own, due) →
    (let differ := (List.range (leNat ((own.drop 6).take 2))).filter (fun j =>
      ((own.drop (256 + 64 * j + 32)).take 32) != ((record.drop (256 + 64 * j + 32)).take 32))
    ∃ t, Machine.exec (.castCompare record) s = .next t ∧
      t.mod.rdN Reg.CAST_DIVERGED_COUNT = min (s.mod.rdN Reg.CAST_DIVERGED_COUNT + differ.length) 0xFFFFFFFF ∧
      s.RegsBut [Reg.CAST_DIVERGED_COUNT] t ∧
      t = { s with mod := { s.mod with
        regs := t.mod.regs
        events := s.mod.events ++ if s.mod.ready then differ.map (fun j => (⟨s.mod.now, s.mod.heatNo, 0x103, s.mod.chip 0, 15, 0,
          padBytes 14 (own.take 4 ++ (own.drop (256 + 64 * j + 12)).take 2)⟩ : EvRec)) else []
        cast := { s.mod.cast with compare := s.mod.cast.compare.filter (fun c => c.1.take 4 != record.take 4) } } })) ∧
  (∀ s : State,
    (let due := s.mod.atTick = true ∧ ∃ c ∈ s.mod.cast.compare, c.2 ≤ s.mod.now
    (¬ due → Machine.exec .castCompareTimeout s = .next s) ∧
    (due → ∃ t, Machine.exec .castCompareTimeout s = .next t ∧ t.mod.flag Fld.CAST_UNCOMPARED = true ∧
      t.mod.castState = s.mod.castState ∧ s.RegsBut [Reg.CAST_STATUS] t ∧
      t = { s with mod := { s.mod with
        regs := t.mod.regs, cast := { s.mod.cast with compare := s.mod.cast.compare.filter (fun c => s.mod.now < c.2) } } })))

/-- A restore is armed as R394 says, writes nothing before every check of R395 has passed, and then objects and
counters. 20_casts_failures_and_recovery.md R394, 20_casts_failures_and_recovery.md R395,
20_casts_failures_and_recovery.md R396, 20_casts_failures_and_recovery.md R397, 20_casts_failures_and_recovery.md
R398, 20_casts_failures_and_recovery.md R410. The model's own choices in it: log entries 4, 70, 105 and 158. -/
def Obligations.RestoresCheckThenWrite : Prop :=
  (∀ (s : State) (v : Word) (o : Origin), s.Accepts Reg.CAST_RS_CTRL (setBit v 31) o →
    (let x := setBit v 31
    let src := bitsOf v.toNat 1 0
    let repl := bitsOf v.toNat 5 4
    let code := fun (c : Nat) => c = 1 ∨ c = 2 ∨ (c = 3 ∧ s.mod.flag Fld.CAST_PAIRED = true)
    let formed := code src ∧ code repl ∧ src ≠ repl ∧ s.mod.fget Fld.CAST_RS_COUNT ≠ 0
    let quiet := (s.mod.castState = 0 ∨ s.mod.castState = 4) ∧ s.mod.noCoreBusy = true ∧ s.mod.producers = []
    let ended := fun (t : State) (st : Nat) => t.mod.cast.restoring = none ∧ t.mod.flag Fld.CAST_RS_ARM = false ∧
      t.mod.flag Fld.CAST_RS_BUSY = false ∧ t.mod.rdN Reg.CAST_RS_STATUS = st
    (s.mod.cast.restoring.isSome = true → ∃ t, Machine.exec (.castRsArm v o) s = .next t ∧
      s.Dropped t stAccessDenied Reg.CAST_RS_CTRL x o) ∧
    (s.mod.cast.restoring = none → ∃ t, Machine.exec (.castRsArm v o) s = .next t ∧
      t.mod.fget Fld.CAST_RS_SRC = src ∧ t.mod.fget Fld.CAST_RS_REPL = repl ∧
      t.mod.jnlPend = s.mod.jnlPend ++ [s.entryOf stOk Reg.CAST_RS_CTRL x o] ∧
      (¬ (formed ∧ quiet) → t.mod.out = s.mod.out ++ State.replyOf stOk o) ∧
      (¬ formed → ended t stMalformed) ∧ (formed → ¬ quiet → ended t stBusyRefused) ∧
      (formed → quiet → (let r : RestoreRun := {
          number := s.mod.rdN Reg.CAST_RS_NUMBER, module := s.mod.rdN Reg.CAST_RS_MODULE, src := src, repl := repl
          first := s.mod.fget Fld.CAST_RS_FIRST, count := s.mod.fget Fld.CAST_RS_COUNT, step := s.mod.rdN Reg.CAST_RS_STEP
          mb := s.mod.rdN Reg.CAST_RS_MB, mask := s.mod.rdN Reg.CAST_RS_PMASK
          pos := (List.range 16).map (fun p => s.mod.rd64 (Reg.CAST_RS_POS_LO p)), t2 := s.mod.rdN Reg.CAST_RS_T2 }
        let reads := fun (c : Nat) => (let a := s.mod.slotAddr r c
          if s.mod.slotReachable r c = false then []
          else if addrModule a ≠ s.mod.self then (List.range 4).map (fun i => Out.packet (addrModule a) 1 (leBytes 8 (a + 64 * i)))
          else if isTier2Offset (addrOffset a) = true then
            (s.mod.hostPieces (addrOffset a - tier2Base) 256).map (fun p => Out.hostRead p.1 p.2)
          else [])
        t.mod.cast.restoring = some r ∧ t.mod.out = s.mod.out ++ reads src ++ reads repl ++ State.replyOf stOk o) ∧
        t.mod.flag Fld.CAST_RS_ARM = true ∧ t.mod.flag Fld.CAST_RS_BUSY = true ∧ t.mod.flag Fld.CAST_RS_LOCKED = false ∧
        t.mod.rd Reg.CAST_RS_STATUS = s.mod.rd Reg.CAST_RS_STATUS) ∧
      s.RegsBut [Reg.CAST_RS_CTRL, Reg.CAST_STATUS, Reg.CAST_RS_STATUS] t ∧
      t = { s with mod := { s.mod with
        regs := t.mod.regs, jnlPend := t.mod.jnlPend, out := t.mod.out
        cast := { s.mod.cast with restoring := t.mod.cast.restoring } } }))) ∧
  (∀ (s : State) (v : Word) (o : Origin),
    (bitOf v.toNat 31 = true → Machine.exec (.castRsUnlock v o) s = Machine.exec (.castRsArm (setBit v 30) o) s) ∧
    (s.Accepts Reg.CAST_RS_CTRL (setBit v 30) o → bitOf v.toNat 31 = false →
      ∃ t, Machine.exec (.castRsUnlock v o) s = .next t ∧ t.mod.flag Fld.CAST_RS_LOCKED = false ∧
        t.mod.fget Fld.CAST_RS_SRC = bitsOf v.toNat 1 0 ∧ t.mod.fget Fld.CAST_RS_REPL = bitsOf v.toNat 5 4 ∧
        t.mod.flag Fld.CAST_RS_ARM = s.mod.flag Fld.CAST_RS_ARM ∧ t.mod.castState = s.mod.castState ∧
        s.Journalled t Reg.CAST_RS_CTRL (setBit v 30) o ∧ s.RegsBut [Reg.CAST_RS_CTRL, Reg.CAST_STATUS] t ∧
        t = { s with mod := { s.mod with regs := t.mod.regs, jnlPend := t.mod.jnlPend, out := t.mod.out } })) ∧
  (∀ (s : State) (d0 : RestoreData), s.mod.cast.restoring = none → Machine.exec (.restoreDone d0) s = .next s) ∧
  (∀ (s : State) (d0 : RestoreData) (r : RestoreRun), s.mod.cast.restoring = some r →
    (let d := s.mod.ownData s.mem r (s.mod.slotData r d0)
    let fails := fun (st : Nat) => ∃ t, Machine.exec (.restoreDone d0) s = .next t ∧
      t.mod.rdN Reg.CAST_RS_STATUS = st ∧ t.mod.flag Fld.CAST_RS_ARM = false ∧ t.mod.flag Fld.CAST_RS_BUSY = false ∧
      s.RegsBut [Reg.CAST_RS_CTRL, Reg.CAST_RS_STATUS] t ∧
      t = { s with mod := { s.mod with regs := t.mod.regs, cast := { s.mod.cast with restoring := none } } }
    (d.record = none ∨ d.replica = none → fails stTierError) ∧
    (∀ a b, d.record = some a → d.replica = some b →
      (let index := fun (i : Nat) => leNat (((a.drop (256 + 64 * (r.first + i))).drop 12).take 2)
      let bytes := fun (i : Nat) => leNat (((a.drop (256 + 64 * (r.first + i))).drop 8).take 4) * 64
      let homed := r.first + r.count ≤ leNat ((a.drop 6).take 2) ∧
        ∀ i, i < r.count → s.mod.destinationOk (index i) (bytes i) (d.objects.getD i none) = true
      let outcome := fun (i : Nat) => match d.objects.getD i none with
        | none => stTierError
        | some x =>
          if leNat (((a.drop (256 + 64 * (r.first + i))).drop 15).take 1) ≠ stOk ∨
            (index i < holdObject ∧ s.mod.stackDown (s.mod.destination (index i)) = true) then stTierError
          else if shake256 (if index i = holdObject then Config.holdImage d.hold else padBytes (bytes i) x) ≠
            ((b.drop (256 + 64 * (r.first + i))).drop 32).take 32 then stDigestMismatch else stOk
      let bad := (List.range r.count).filter (fun i => outcome i != stOk)
      let status := if bad.any (fun i => outcome i == stDigestMismatch) then stDigestMismatch
        else if bad = [] then stOk else stTierError
      let passed := Mod.recordOk r a = true ∧ Mod.recordOk r b = true ∧ Mod.normalRecord r a = Mod.normalRecord r b ∧
        Mod.positionsOk r a = true ∧ homed
      let step := leNat ((a.drop 12).take 4)
      let le := leNat ((a.drop 26).take 1)
      (Mod.recordOk r a = false ∨ Mod.recordOk r b = false → fails stMalformed) ∧
      (Mod.recordOk r a = true → Mod.recordOk r b = true → Mod.normalRecord r a ≠ Mod.normalRecord r b →
        fails stDigestMismatch) ∧
      (Mod.recordOk r a = true → Mod.recordOk r b = true → Mod.normalRecord r a = Mod.normalRecord r b →
        Mod.positionsOk r a = false → fails stPositionMismatch) ∧
      (Mod.recordOk r a = true → Mod.recordOk r b = true → Mod.normalRecord r a = Mod.normalRecord r b →
        Mod.positionsOk r a = true → ¬ homed → fails stMalformed) ∧
      (passed → ∃ t, Machine.exec (.restoreDone d0) s = .next t ∧
        t.mod.rdN Reg.CAST_RS_STATUS = bad.length * 2 ^ 16 + status ∧ t.mod.flag Fld.CAST_RS_ARM = false ∧
        t.mod.flag Fld.CAST_RS_BUSY = false ∧ t.mod.flag Fld.CAST_RS_LOCKED = true ∧
        t.mod.cast = { s.mod.cast with restoring := none } ∧
        t.mod.seed = leNat ((a.drop 40).take 8) ∧ t.mod.rd64 Reg.NUM_SEED_LO = s.mod.rd64 Reg.NUM_SEED_LO ∧
        (∀ n, n < 384 → s.mod.coreState n ≠ 4 →
          t.mod.rdN (Reg.CORE_STEP n) = step ∧ t.mod.rdN (Reg.CORE_MB n) = leNat ((a.drop 16).take 2)) ∧
        t.mod.num = { s.mod.num with
          les := [((step + 1) % 2 ^ 32, le), (step, le)], first := some step, clean := leNat ((a.drop 28).take 4), leRead := none } ∧
        (s.mod.ready = true → t.mod.events = s.mod.events ++ [⟨s.mod.now, s.mod.heatNo, 0x105, s.mod.chip 0, 15, 0,
          padBytes 14 (a.take 4 ++ (a.drop 12).take 6 ++ leBytes 2 bad.length ++ leBytes 1 status)⟩]) ∧
        (∀ i, i < r.count → index i < 1024 → (∀ j, j < r.count → j ≠ i → index j ≠ index i) →
          t.mod.rdN (Reg.CAST_OBJ_RS (index i)) = outcome i) ∧
        ((∀ i, i < r.count → index i < 1024) →
          (let at_ := fun (i : Nat) => s.mod.destination (index i)
          let apart := fun (c n i : Nat) => c + n ≤ at_ i ∨ at_ i + bytes i ≤ c
          (∀ c, (∀ i, i < r.count → apart c 1 i) → t.byteAt c = s.byteAt c) ∧
          (∀ i x, i < r.count → outcome i = stOk → d.objects.getD i none = some x →
            (∀ j, j < r.count → j ≠ i → apart (at_ i) (bytes i) j) →
            memRead t.mem (at_ i) (bytes i) = padBytes (bytes i) x))) ∧
        (∀ n, n / 0x10000 ∉ [4, 8, 9] → (∀ k, k < 384 → n ≠ Reg.CORE_STEP k ∧ n ≠ Reg.CORE_MB k) →
          t.mod.rd n = s.mod.rd n) ∧
        t = { s with mem := t.mem, mod := { s.mod with
          regs := t.mod.regs, events := t.mod.events, cast := t.mod.cast, num := t.mod.num, taken := t.mod.taken
          badLines := t.mod.badLines, tables := t.mod.tables } })))))

/-- Units, modules and functions are declared lost, released, disabled and enabled as R401 to R408 say.
20_casts_failures_and_recovery.md R401, 20_casts_failures_and_recovery.md R402, 20_casts_failures_and_recovery.md
R403, 20_casts_failures_and_recovery.md R405, 20_casts_failures_and_recovery.md R406,
20_casts_failures_and_recovery.md R407, 20_casts_failures_and_recovery.md R408, 19_power_and_thermal.md R377. The
model's own choices in it: log entry 107. -/
def Obligations.UnitsModulesAndFunctionsAreLost : Prop :=
  (let dead := fun (s t : State) (level cause d g k : Nat) =>
    (let hit := fun (n : Nat) => if level = 0 then n = k else if level = 1 then n / 8 = g
      else n / 96 = d ∧ (s.mod.clusterSt (n / 8)).lost = false
    (∀ n, n < 384 → t.mod.coreState n = if hit n then 4 else s.mod.coreState n) ∧
    (∀ w, w ∈ t.mod.works ↔ w ∈ s.mod.works ∧ ¬ ∃ n, w.who = .core n ∧ n < 384 ∧ hit n ∧ s.mod.coreState n ≠ 4) ∧
    (let goes := fun (x : SentMsg) => x.core < 384 ∧ hit x.core ∧ s.mod.coreState x.core ≠ 4
    let gone := fun (x : SentMsg) => t.mod.destGone x.dstChip x.dstCluster x.dstCore
    (∀ x ∈ t.mod.msgs, x ∈ s.mod.msgs ∧ ¬ goes x ∧ gone x = none) ∧
      (∀ x ∈ s.mod.msgs, ¬ goes x → (∀ y ∈ s.mod.msgs, y.id = x.id → gone y = none) → x ∈ t.mod.msgs)) ∧
    (∀ n, n < 384 → hit n → s.mod.coreState n ≠ 4 → (t.mod.coreSt n).choice = none ∧ (t.mod.coreSt n).issued = none ∧
      ∀ r i, (s.mod.coreSt n).loading = some (r, i) →
        ∃ c ∈ t.mod.comps, c.ring = r ∧ c.index = i ∧ c.status = stUnitLost ∧ c.time = s.mod.now) ∧
    ((∀ n, n < 384 → hit n → (s.mod.coreSt n).loading = none) → t.mod.comps = s.mod.comps ∧ t.mod.hub = s.mod.hub) ∧
    (level = 0 → t.mod.banks = s.mod.banks) ∧
    (∀ h, h < 48 → (level = 1 ∧ h = g) ∨ (2 ≤ level ∧ h / 12 = d ∧ (s.mod.clusterSt h).lost = false) →
      (t.mod.arr h).tag0 = none ∧ (t.mod.arr h).tag1 = none ∧ (t.mod.arr h).captures = []) ∧
    (∀ n, n < 384 → ¬ hit n → t.mod.coreSt n = s.mod.coreSt n) ∧
    (∀ h, h < 48 → ((t.mod.clusterSt h).lost = true ↔
      (s.mod.clusterSt h).lost = true ∨ (level = 1 ∧ h = g) ∨ (2 ≤ level ∧ h / 12 = d))) ∧
    (∀ e, t.mod.dieIsLost e = true ↔ s.mod.dieIsLost e = true ∨ (2 ≤ level ∧ e = d)) ∧
    (2 ≤ level → bitOf (t.mod.rdN Reg.CAST_DIE_LOST) d = true) ∧
    (∀ r, (s.mod.castState = 2 ∨ s.mod.castState = 3) → s.mod.cast.run = some r →
      t.mod.cast.run = none ∧ t.mod.castState = 0 ∧ t.mod.fget castLastField = stUnitLost) ∧
    (¬ (s.mod.castState = 2 ∨ s.mod.castState = 3) → t.mod.cast = s.mod.cast ∧ t.mod.castState = s.mod.castState) ∧
    (let place := if level = 0 then (k / 96, k / 8 % 12, k % 8) else if level = 1 then (g / 12, g % 12, 0) else (d, 0, 0)
    s.mod.ready = true → ∃ l, t.mod.events = s.mod.events ++ l ++ [⟨s.mod.now, s.mod.heatNo, 0x104, s.mod.chip place.1, 15, 0,
      padBytes 14 (leBytes 1 level ++ leBytes 1 cause ++ leBytes 1 place.1 ++ leBytes 1 place.2.1 ++ leBytes 1 place.2.2 ++
        leBytes 2 s.mod.self ++ leBytes 4 (s.mod.rdN Reg.CAST_LAST))⟩]) ∧
    (∀ a, a ≠ Reg.CAST_STATUS → a ≠ Reg.CAST_DIE_LOST →
      (∀ n, n < 384 → a ≠ Reg.CORE_STATUS n ∧ a ≠ Reg.CORE_LD_OPS n ∧ a ≠ Reg.CORE_LD_FAIL n ∧
        a ≠ Reg.PICK_STATUS (n / 8) 0 ∧ a ≠ Reg.PICK_STATUS (n / 8) 1) → t.mod.rd a = s.mod.rd a) ∧
    t = { s with mod := { s.mod with
      regs := t.mod.regs, comps := t.mod.comps, hub := { s.mod.hub with rings := t.mod.hub.rings }
      banks := t.mod.banks, jnlPend := t.mod.jnlPend, out := t.mod.out, events := t.mod.events, works := t.mod.works
      msgs := t.mod.msgs, cores := t.mod.cores, clusters := t.mod.clusters, arrays := t.mod.arrays
      tables := t.mod.tables, cast := t.mod.cast, dieLost := t.mod.dieLost } })
  let was := fun (s : State) (level d g k : Nat) => if level = 0 then s.mod.coreState k = 4
    else if level = 1 then (s.mod.clusterSt g).lost = true else s.mod.dieIsLost d = true
  let only := fun (s t : State) => t = { s with mod := { s.mod with jnlPend := t.mod.jnlPend, out := t.mod.out } }
  (∀ (s : State) (v : Word) (o : Origin), s.Accepts Reg.CAST_UNIT_CMD (setBit (setBit v 31) 30) o →
    (let x := setBit (setBit v 31) 30
    let level := bitsOf v.toNat 25 24
    let d := bitsOf v.toNat 13 12
    let g := 12 * d + bitsOf v.toNat 11 8
    let k := 8 * g + bitsOf v.toNat 2 0
    let formed := level ≠ 3 ∧ bitsOf v.toNat 11 8 < 12
    ∃ t, Machine.exec (.unitDeclareLost v o) s = .next t ∧
      (¬ formed → s.Dropped t stMalformed Reg.CAST_UNIT_CMD x o) ∧
      (formed → s.Journalled t Reg.CAST_UNIT_CMD x o ∧
        (was s level d g k → only s t) ∧ (¬ was s level d g k → dead s t level causeRuntime d g k)))) ∧
  (∀ (s : State) (v : Word) (o : Origin), s.Accepts Reg.CAST_UNIT_CMD (clearBit (setBit v 31) 30) o →
    (let x := clearBit (setBit v 31) 30
    let g := 12 * bitsOf v.toNat 13 12 + bitsOf v.toNat 11 8
    let formed := bitsOf v.toNat 25 24 = 1 ∧ bitsOf v.toNat 11 8 < 12
    ∃ t, Machine.exec (.unitRelease v o) s = .next t ∧
      (¬ formed → s.Dropped t stMalformed Reg.CAST_UNIT_CMD x o) ∧
      (formed → (s.mod.clusterSt g).held = false → s.Dropped t stAccessDenied Reg.CAST_UNIT_CMD x o) ∧
      (formed → (s.mod.clusterSt g).held = true →
        (∀ n, n < 384 → t.mod.coreState n = if n / 8 = g ∧ s.mod.coreState n = 2 then 1 else s.mod.coreState n) ∧
        t.mod.clusterSt g = { s.mod.clusterSt g with held := false, wdogDue := false, missing := false, missedTicks := 0 } ∧
        (∀ h, h ≠ g → t.mod.clusterSt h = s.mod.clusterSt h) ∧ t.mod.fget (Fld.HEAT_CM_CONSEC g) = 0 ∧
        (∀ a, a ≠ Reg.HEAT_CLUSTER_MISS g → (∀ n, n / 8 = g → a ≠ Reg.CORE_STATUS n) → t.mod.rd a = s.mod.rd a) ∧
        s.Journalled t Reg.CAST_UNIT_CMD x o ∧
        t = { s with mod := { s.mod with
          regs := t.mod.regs, jnlPend := t.mod.jnlPend, out := t.mod.out, clusters := t.mod.clusters } }))) ∧
  (∀ (s : State) (u : FailedUnit),
    (let p := match u with
      | .core n => (0, causeError, 0, 0, n, n < 384)
      | .cluster g => (1, causeError, 0, g, 0, g < 48)
      | .die d => (2, causeError, d, 0, 0, d < 4)
      | .link d => (2, causeNoLink, d, 0, 0, d < 4)
    let acts := s.mod.boot.powered = true ∧ 6 ≤ s.mod.fget Fld.ID_BOOT_STAGE ∧ p.2.2.2.2.2 ∧
      ¬ was s p.1 p.2.2.1 p.2.2.2.1 p.2.2.2.2.1
    (¬ acts → Machine.exec (.uncorrectableUnitError u) s = .next s) ∧
    (acts → ∃ t, Machine.exec (.uncorrectableUnitError u) s = .next t ∧
      dead s t p.1 p.2.1 p.2.2.1 p.2.2.2.1 p.2.2.2.2.1 ∧ t.mod.jnlPend = s.mod.jnlPend ∧ t.mod.out = s.mod.out)))) ∧
  (∀ (s : State) (v : Word) (o : Origin), s.Accepts Reg.CAST_ML_CMD (setBit (setBit v 31) 30) o →
    (let x := setBit (setBit v 31) 30
    let y := bitsOf v.toNat 12 0
    ∃ t, Machine.exec (.moduleDeclareLost v o) s = .next t ∧
      (y = s.mod.self → s.Dropped t stMalformed Reg.CAST_ML_CMD x o) ∧
      (y ≠ s.mod.self → bitOf (t.mod.rdN (Reg.CAST_ML_MAP (y / 32))) (y % 32) = true ∧
        (∀ z, z < 8192 → z ≠ y →
          bitOf (t.mod.rdN (Reg.CAST_ML_MAP (z / 32))) (z % 32) = bitOf (s.mod.rdN (Reg.CAST_ML_MAP (z / 32))) (z % 32)) ∧
        t.mod.jnlPend = s.mod.jnlPend ++ [s.entryOf stOk Reg.CAST_ML_CMD x o] ∧
        (bitOf (s.mod.rdN (Reg.CAST_ML_MAP (y / 32))) (y % 32) = true →
          t = { s with mod := { s.mod with jnlPend := t.mod.jnlPend, out := s.mod.out ++ State.replyOf stOk o } }) ∧
        (bitOf (s.mod.rdN (Reg.CAST_ML_MAP (y / 32))) (y % 32) = false →
          (let rowOpen := fun (q : RowReq) => q.status = none ∧ q.due ≠ none ∧ addrModule q.addr = y
          let partOpen := fun (r : ContribRow) => r.outcome = none ∧ r.due ≠ none ∧ addrModule r.far.addr = y
          let asked := (∃ k ∈ s.mod.works, ∃ x ∈ k.due ++ k.waits, x.2 = y + 2) ∨
            (∃ k ∈ s.mod.tables.orphans, ∃ x ∈ k.2.2, x.2 = y + 2) ∨ (∃ l ∈ s.mod.tables.lookups, ∃ q ∈ l.reqs, rowOpen q) ∨
            (∃ c ∈ s.mod.tables.contribs, ∃ r ∈ c.rows, partOpen r)
          (∀ id k, t.mod.findWork id = some k → ∀ x ∈ k.due ++ k.waits, x.2 ≠ y + 2) ∧
          (∀ l q, s.mod.tables.lookups = [l] → l.reqs = [q] → rowOpen q → s.mod.tables.contribs = [] →
            t.mod.tables.lookups = if (s.mod.findWork l.work).isSome then [{ l with reqs := [{ q with
              status := some stTierError, vals := List.replicate (tdDim (Mod.reqEntry l q)) .nan }] }] else []) ∧
          (∀ c r, s.mod.tables.contribs = [c] → c.rows = [r] → partOpen r → s.mod.tables.lookups = [] →
            t.mod.tables.contribs = if (s.mod.findWork c.work).isSome then
              [{ c with rows := [{ r with outcome := some stTierError }] }] else []) ∧
          (s.mod.ready = true → ∃ l, t.mod.events = s.mod.events ++ [⟨s.mod.now, s.mod.heatNo, 0x104, s.mod.chip 0, 15, 0,
            padBytes 14 (leBytes 1 3 ++ leBytes 1 causeRuntime ++ leBytes 3 0 ++ leBytes 2 y ++
              leBytes 4 (s.mod.rdN Reg.CAST_LAST))⟩] ++ l ∧ ∀ e ∈ l, e.code = 0x186) ∧
          t.mod.pwr = { s.mod.pwr with cut := s.mod.pwr.cut || s.mod.inJob y } ∧
          (s.mod.col.insts = [] → t.mod.col = s.mod.col) ∧
          (∀ i, s.mod.col.insts = [i] → i.status = none → y ∈ s.mod.instExpects i →
            ∃ st z, t.mod.col = { s.mod.col with insts := [{ i with status := some st, partner := z }] }) ∧
          (∀ m ∈ t.mod.msgs, m ∈ s.mod.msgs ∧ t.mod.destGone m.dstChip m.dstCluster m.dstCore = none) ∧
          (∀ m ∈ s.mod.msgs, (∀ m' ∈ s.mod.msgs, m'.id = m.id → t.mod.destGone m'.dstChip m'.dstCluster m'.dstCore = none) →
            m ∈ t.mod.msgs) ∧
          (¬ asked → s.RegsBut [Reg.CAST_ML_MAP (y / 32)] t ∧ t.mod.works = s.mod.works ∧ t.mod.tables = s.mod.tables ∧
            t.mod.free = s.mod.free ∧ (s.mod.col.insts = [] → t.mod.out = s.mod.out ++ State.replyOf stOk o)) ∧
          t = { s with mod := { s.mod with
            regs := t.mod.regs, msgs := t.mod.msgs, jnlPend := t.mod.jnlPend, out := t.mod.out, events := t.mod.events
            pwr := t.mod.pwr, col := t.mod.col, works := t.mod.works, tables := t.mod.tables, free := t.mod.free } }))))) ∧
  (∀ (s : State) (v : Word) (o : Origin), s.Accepts Reg.CAST_ML_CMD (clearBit (setBit v 31) 30) o →
    (let y := bitsOf v.toNat 12 0
    ∃ t, Machine.exec (.moduleClearLost v o) s = .next t ∧
      (∀ z, z < 8192 → bitOf (t.mod.rdN (Reg.CAST_ML_MAP (z / 32))) (z % 32) =
        (bitOf (s.mod.rdN (Reg.CAST_ML_MAP (z / 32))) (z % 32) && z != y)) ∧
      s.Journalled t Reg.CAST_ML_CMD (clearBit (setBit v 31) 30) o ∧ s.RegsBut [Reg.CAST_ML_MAP (y / 32)] t ∧
      t = { s with mod := { s.mod with regs := t.mod.regs, jnlPend := t.mod.jnlPend, out := t.mod.out } })) ∧
  (∀ (s : State) (v : Word) (o : Origin),
    (let key := s.mod.disSelKey
    let named := Mod.disSelOk (s.mod.rdN Reg.CAST_DIS_SEL) = true
    let becomes := fun (t : State) (x : Word) (y : DisSt) => s.Journalled t Reg.CAST_DIS_CMD x o ∧
      t.mod.disSt key = y ∧ (∀ k, k ≠ key → t.mod.disSt k = s.mod.disSt k) ∧
      t = { s with mod := { s.mod with jnlPend := t.mod.jnlPend, out := t.mod.out, disabled := t.mod.disabled } }
    (s.Accepts Reg.CAST_DIS_CMD (setBit (setBit v 31) 30) o →
      (let x := setBit (setBit v 31) 30
      ∃ t, Machine.exec (.functionDisable v o) s = .next t ∧
        (¬ named → s.Dropped t stMalformed Reg.CAST_DIS_CMD x o) ∧
        (named → becomes t x (if (s.mod.disSt key).on then s.mod.disSt key else { on := true, draining := true })))) ∧
    (s.Accepts Reg.CAST_DIS_CMD (clearBit (setBit v 31) 30) o →
      (let x := clearBit (setBit v 31) 30
      let draining := (s.mod.disSt key).on = true ∧ (s.mod.disSt key).done = false
      ∃ t, Machine.exec (.functionEnable v o) s = .next t ∧
        (¬ named → s.Dropped t stMalformed Reg.CAST_DIS_CMD x o) ∧
        (named → draining → s.Dropped t stAccessDenied Reg.CAST_DIS_CMD x o) ∧
        (named → ¬ draining → becomes t x {}))))) ∧
  (∀ (s : State) (f d c p : Nat),
    (let key := Mod.fnKey f d c p
    let y := s.mod.disSt key
    let due := y.on = true ∧ y.done = false ∧ (∀ w ∈ s.mod.works, s.mod.fnWork f d c p w = false) ∧
      s.mod.fnTracked f d c p = false ∧ (f = 4 → s.mod.hub.rings = []) ∧ (f = 5 → s.mod.col.starts = [])
    (¬ due → Machine.exec (.disableDone f d c p) s = .next s) ∧
    (due → ∃ t l, Machine.exec (.disableDone f d c p) s = .next t ∧
      t.mod.disSt key = { y with done := true, draining := false, closed := true } ∧
      (∀ k, k ≠ key → t.mod.disSt k = s.mod.disSt k) ∧
      (s.mod.ready = true → l = [⟨s.mod.now, s.mod.heatNo, 0x106, s.mod.chip 0, 15, 0,
        padBytes 14 (leBytes 1 f ++ leBytes 1 d ++ leBytes 1 c ++ leBytes 4 y.cancelled)⟩]) ∧
      t = { s with mod := { s.mod with events := s.mod.events ++ l, disabled := t.mod.disabled } })))

/-- Power-on begins stage 1 with every register at reset; each stage ends in the next, in failure, or after stage 8 at
ready, as R412 to R420 say. 21_bringup_and_setup.md R411, 21_bringup_and_setup.md R412, 21_bringup_and_setup.md R414,
21_bringup_and_setup.md R415, 21_bringup_and_setup.md R416, 21_bringup_and_setup.md R417, 21_bringup_and_setup.md
R418, 21_bringup_and_setup.md R419, 21_bringup_and_setup.md R420, 22_firmware_and_configuration.md R435,
22_firmware_and_configuration.md R439. The model's own choices in it: log entries 27, 54, 81, 114, 136, 153 and 159.
-/
def Obligations.BringUpStagesRunInOrder : Prop :=
  (let next := fun (s t : State) (k : Nat) => t.mod.fget Fld.ID_BOOT_STAGE = k + 1 ∧ t.mod.boot.stageStart = s.mod.now ∧
    t.mod.rd (Reg.ID_STAGE_MS (k - 1)) = BitVec.ofNat 32 ((s.mod.now - s.mod.boot.stageStart) / 1000000)
  let failed := fun (t : State) (code : Nat) => t.mod.fget Fld.ID_BOOT_STAGE = 15 ∧ t.mod.fget Fld.ID_BOOT_FAIL = code
  let recovers := fun (s t : State) (cause : Nat) => failed t 1 ∧ t.mod.boot.recovery = true ∧
    ∃ e, t.mod.jnlPend = s.mod.jnlPend ++ [e] ∧ e.kind = 2 ∧ e.origin = 5 ∧ e.new = cause
  let routed := fun (s t : State) => next s t 7 ∧ (∀ a, a / 0x10000 = 5 → t.mod.rd a = s.mod.deriveRoutes.rd a) ∧
    (∀ a, a ≠ Reg.ID_BOOT → a ≠ Reg.ID_STAGE_MS 6 → a / 0x10000 ≠ 5 → t.mod.rd a = s.mod.rd a) ∧
    t = { s with mod := { s.mod with
      regs := t.mod.regs, boot := t.mod.boot, events := t.mod.events, pwr := t.mod.pwr, col := t.mod.col
      msgs := t.mod.msgs, out := t.mod.out } }
  let runs := fun (s : State) (k : Nat) => s.mod.boot.powered = true ∧ s.mod.fget Fld.ID_BOOT_STAGE = k
  (∀ (s : State) (pin : Bool),
    (s.mod.boot.powered = true → Machine.exec (.powerOn pin) s = .next s) ∧
    (s.mod.boot.powered = false → (if pin then s.mod.boot.vinOk = false else s.mod.boot.resetPin = true) →
      Machine.exec (.powerOn pin) s = .next { s with mod := { s.mod with boot := { s.mod.boot with
        resetPin := !pin && s.mod.boot.resetPin, vinOk := !pin || s.mod.boot.vinOk
        thermTrip := pin && s.mod.boot.thermTrip } } }) ∧
    (s.mod.boot.powered = false → (if pin then s.mod.boot.vinOk = true else s.mod.boot.resetPin = false) →
      ∃ t, Machine.exec (.powerOn pin) s = .next t ∧
      t.mod.rdN Reg.ID_RESET_CAUSE = (if pin then 2 else 1) ∧ t.mod.fget Fld.ID_BOOT_STAGE = 1 ∧ t.mod.ready = false ∧
      (∀ a, a ≠ Reg.ID_RESET_CAUSE → a / 0x10000 ≠ 10 → a / 0x10000 ≠ 11 → t.mod.rd a = regReset a) ∧
      t = { s with mem := [], mod := {
        regs := t.mod.regs, nv := s.mod.nv, out := s.mod.out, free := s.mod.free, nextId := s.mod.nextId
        arrays := Mod.otpColumns s.mod.arrays, fab := { noticeNo := s.mod.fab.noticeNo }
        boot := { powered := true, vinOk := true, thermTrip := false, spares := s.mod.boot.spares } } })) ∧
  (∀ (s : State) (r : StageReport),
    (let k := match r with
      | .rom _ _ _ => 1
      | .firmware => 2
      | .measurement _ _ _ _ => 3
      | .boardMemory _ => 4
      | .stackRepair _ _ => 5
      | .selfTest _ _ _ _ => 6
      | .fabric => 7
      | .hostLink _ _ _ _ => 8
    ¬ runs s k → Machine.exec (.bringupStageEnd r) s = .next s)) ∧
  (∀ (s : State) (hubOk : Bool) (id smb : Nat), runs s 1 →
    (let warm := s.mod.boot.warm
    let nv := s.mod.nv
    let valid := imgValid nv nv.active = true ∨ (nv.stagedOk = true ∧ imgValid nv nv.staged = true)
    ∃ t, Machine.exec (.bringupStageEnd (.rom hubOk id smb)) s = .next t ∧
      t.mod.rd Reg.FAB_SELF = BitVec.ofNat 32 (if warm then s.mod.boot.modId else id % 8192) ∧
      t.mod.rd Reg.SEC_SMBUS = (if warm then s.mod.rd Reg.SEC_SMBUS else BitVec.ofNat 32 (0x60 + smb % 8)) ∧
      t.mod.flag Fld.SEC_DEBUG_OPEN = s.mod.sec.debugNext ∧ t.mod.flag Fld.SEC_DEBUG_PEND = false ∧
      (hubOk = false → failed t 5) ∧
      (hubOk = true → s.mod.boot.toRecovery = true → recovers s t 2) ∧
      (hubOk = true → s.mod.boot.toRecovery = false → valid → next s t 1) ∧
      (hubOk = true → s.mod.boot.toRecovery = false → ¬ valid → recovers s t 1) ∧
      s.RegsBut [Reg.ID_BOOT, Reg.FAB_SELF, Reg.SEC_SMBUS, Reg.SEC_STATUS, Reg.ID_STAGE_MS 0] t ∧
      t = { s with mod := { s.mod with
        regs := t.mod.regs, boot := t.mod.boot, jnlPend := t.mod.jnlPend
        nv := { nv with debugEver := nv.debugEver || s.mod.sec.debugNext }
        sec := { s.mod.sec with debugNext := false } } })) ∧
  (∀ (s : State), runs s 2 →
    (let nv := s.mod.nv
    let img := if nv.stagedOk && imgValid nv nv.staged then nv.staged else nv.active
    ∃ t, Machine.exec (.bringupStageEnd .firmware) s = .next t ∧
      (imgValid nv img = false → recovers s t 1) ∧
      (imgValid nv img = true → next s t 2 ∧ t.mod.nv.active = img ∧ t.mod.nv.bootCount = nv.bootCount + 1 ∧
        t.mod.rdN Reg.FWC_RUN_VER = imgVersion img ∧ t.mod.rdN Reg.FWC_RUN_INFO = imgSetFmt img * 256 + imgSvn img ∧
        t.mod.flag Fld.FWC_UNCONFIRMED = (imgVersion img != nv.confirmedVer) ∧
        t.mod.nv.current.fmt = imgSetFmt img ∧ t.mod.fget Fld.ID_PROFILE = t.mod.nv.current.profile % 2 ∧
        t.mod.fget Fld.FAB_DIMS = t.mod.nv.current.dims % 16 ∧ t.mod.fget Fld.FAB_WIRING = t.mod.nv.current.wiring % 2 ∧
        t.mod.fget Fld.FAB_PAIR_EN = t.mod.nv.current.pair % 2) ∧
      (∀ a, a / 0x10000 ≠ 10 → a / 0x10000 ≠ 11 → a ∉ [Reg.ID_BOOT, Reg.ID_STAGE_MS 1, Reg.ID_SETUP, Reg.FAB_CTRL] →
        t.mod.rd a = s.mod.rd a) ∧
      t = { s with mod := { s.mod with
        regs := t.mod.regs, boot := t.mod.boot, jnlPend := t.mod.jnlPend, nv := t.mod.nv } })) ∧
  (∀ (s : State) (rails : List (Nat × Nat)) (vin inlet rise : Nat), runs s 3 →
    (let supplied := (∀ r ∈ rails, 97 * r.1 ≤ 100 * r.2 ∧ 100 * r.2 ≤ 103 * r.1) ∧ 40000 ≤ vin ∧ vin ≤ 60000
    let cooled := inlet ≤ 40 ∧ rise ≤ 15
    ∃ t, Machine.exec (.bringupStageEnd (.measurement rails vin inlet rise)) s = .next t ∧
      t.mod.rd Reg.ID_VIN_BOOT = BitVec.ofNat 32 vin ∧ t.mod.rd Reg.PWR_VIN = BitVec.ofNat 32 vin ∧
      (¬ supplied → failed t 2) ∧ (supplied → ¬ cooled → failed t 3) ∧ (supplied → cooled → next s t 3) ∧
      (supplied ∧ s.mod.boot.warm = false → t.mod.free = s.mod.free + 48 ∧
        ∀ g, g < 48 → tabGet (fun _ => 0) t.mod.boot.meters g = (Config.freeWord (s.mod.free + g)).toNat) ∧
      (¬ (supplied ∧ s.mod.boot.warm = false) → t.mod.free = s.mod.free ∧ t.mod.boot.meters = s.mod.boot.meters) ∧
      s.RegsBut [Reg.ID_BOOT, Reg.ID_VIN_BOOT, Reg.PWR_VIN, Reg.ID_STAGE_MS 2] t ∧
      t = { s with mod := { s.mod with regs := t.mod.regs, boot := t.mod.boot, free := t.mod.free } })) ∧
  (∀ (s : State) (ok : Bool), runs s 4 → ∃ t, Machine.exec (.bringupStageEnd (.boardMemory ok)) s = .next t ∧
    (ok = false → failed t 4) ∧ (ok = true → next s t 4 ∧ t.mod.rdN Reg.MEM_T1_SIZE = 256) ∧
    s.RegsBut [Reg.ID_BOOT, Reg.MEM_T1_SIZE, Reg.ID_STAGE_MS 3] t ∧
    t = { s with mod := { s.mod with regs := t.mod.regs, boot := t.mod.boot } }) ∧
  (∀ (s : State) (spares : List Nat) (outs : List Bool), runs s 5 →
    (let out := if s.mod.boot.warm then s.mod.boot.t0Out else outs
    let used := (List.range 4).map (fun d => s.mod.boot.spares.getD d 0 + if s.mod.boot.warm then 0 else spares.getD d 0)
    ∃ t, Machine.exec (.bringupStageEnd (.stackRepair spares outs)) s = .next t ∧ next s t 5 ∧
      (∀ d, d < 4 → t.mod.rdN (Reg.MEM_T0_SIZE d) = (if out.getD d false then 0 else 48) ∧
        t.mod.rd (Reg.ID_DIE_BOOT d) = BitVec.ofNat 32 (min (used.getD d 0) 65535 * 65536 + if out.getD d false then 256 else 0)) ∧
      (∀ c, t.byteAt c = if isTierCell c then 0 else s.byteAt c) ∧ t.mod.badLines = [] ∧
      t.mod.boot.spares = used ∧ t.mod.boot.t0Out = out ∧
      (∀ a, a ∉ [Reg.ID_BOOT, Reg.ID_STAGE_MS 4] → (∀ d, d < 4 → a ≠ Reg.MEM_T0_SIZE d ∧ a ≠ Reg.ID_DIE_BOOT d) →
        t.mod.rd a = s.mod.rd a) ∧
      t = { s with mem := t.mem, mod := { s.mod with regs := t.mod.regs, boot := t.mod.boot, badLines := [] } })) ∧
  (∀ (s : State) (cols : List (Nat × Nat)) (cores clusters dies : List Nat), runs s 6 →
    ∃ t, Machine.exec (.bringupStageEnd (.selfTest cols cores clusters dies)) s = .next t ∧ t.mem = [] ∧
      (s.mod.boot.warm = true → t.mod.arrays = s.mod.arrays ∧ t.mod.cores = s.mod.cores ∧ t.mod.clusters = s.mod.clusters) ∧
      (∀ d, d < 4 → (t.mod.dieIsLost d = true ↔ s.mod.dieIsLost d = true ∨ (s.mod.boot.warm = false ∧ d ∈ dies))) ∧
      (s.mod.boot.warm = false → (∀ n ∈ cores, n < 384 → t.mod.coreState n = 4) ∧
        (∀ g ∈ clusters, g < 48 → (t.mod.clusterSt g).lost = true) ∧
        (∀ x ∈ cols, (t.mod.arr x.1).failed = true ∨ ∃ y, (x.2, y) ∈ (t.mod.arr x.1).slag)) ∧
      ((∀ d, d < 4 → t.mod.dieIsLost d = true) → failed t 6) ∧
      ((∃ d, d < 4 ∧ t.mod.dieIsLost d = false) → next s t 6 ∧ ∀ p, p < 13 → t.mod.portState p =
        if s.mod.portInService p && !s.mod.flag (Fld.FAB_P_DISABLE p) then portDown else portDisabled) ∧
      t = { s with mem := [], mod := { s.mod with
        regs := t.mod.regs, boot := t.mod.boot, arrays := t.mod.arrays, cores := t.mod.cores
        comps := t.mod.comps, hub := { s.mod.hub with rings := t.mod.hub.rings }, banks := t.mod.banks
        clusters := t.mod.clusters, dieLost := t.mod.dieLost, cast := t.mod.cast, events := t.mod.events
        msgs := t.mod.msgs, works := t.mod.works, tables := t.mod.tables } }) ∧
  (∀ (s : State), runs s 7 →
    (let settled := ∀ p, p < 13 → s.mod.portState p = portDisabled ∨ s.mod.portState p = portUp ∨ s.mod.portState p = portFault
    (¬ settled → Machine.exec (.bringupStageEnd .fabric) s = .next s) ∧
    (settled → ∃ t, Machine.exec (.bringupStageEnd .fabric) s = .next t ∧ routed s t))) ∧
  (∀ (s : State) (up : Bool) (rate width : Nat) (flit : Bool), runs s 8 →
    (up = false → s.mod.now < s.mod.boot.stageStart + 7000000000 →
      Machine.exec (.bringupStageEnd (.hostLink up rate width flit)) s = .next s) ∧
    (up = true ∨ s.mod.boot.stageStart + 7000000000 ≤ s.mod.now → ∃ t, Machine.exec (.bringupStageEnd (.hostLink up rate width flit)) s = .next t ∧ next s t 8 ∧ t.mod.ready = true ∧
      t.mod.rd Reg.ID_BOOT_TIME = BitVec.ofNat 32 (s.mod.now / 1000000) ∧ t.mod.flag Fld.ID_DEGRADED = s.mod.isDegraded ∧
      (let k := electMaster (s.mod.candidates.filter (fun x => planeOf x.1 == s.mod.masterPlane))
      t.mod.heat = { s.mod.heat with
        master := k, joinIn := if k ≠ some s.mod.self ∧ s.mod.heat.joinIn = some 0 then none else s.mod.heat.joinIn } ∧
      t.mod.flag Fld.HEAT_IS_MASTER = (k == some s.mod.self) ∧ (k = some s.mod.self → t.mod.flag Fld.HEAT_SYNCED = true)) ∧
      (up = true → t.mod.flag Fld.HIF_LINK_UP = true ∧ t.mod.flag Fld.HIF_SESSION_OPEN = true ∧
        t.mod.flag Fld.HIF_FLIT = flit ∧ t.mod.fget Fld.HIF_LINK_RATE = rate % 16 ∧
        t.mod.fget Fld.HIF_LINK_WIDTH = width % 32 ∧ t.mod.rd Reg.HIF_LOSS_STATUS = s.mod.rd Reg.HIF_LOSS_STATUS) ∧
      (let offs := [Reg.ID_BOOT, Reg.ID_STAGE_MS 7, Reg.ID_BOOT_TIME, Reg.HEAT_STATUS, Reg.HIF_STATUS]
      (up = true → s.RegsBut offs t ∧ t = { s with mod := { s.mod with
        regs := t.mod.regs, boot := t.mod.boot, heat := t.mod.heat } }) ∧
      (up = false → t.mod.flag Fld.HIF_DETACHED = true ∧ t.mod.flag Fld.HIF_SESSION_OPEN = false ∧
        t.mod.fget Fld.HIF_LOSS_CAUSE = 1 ∧ t.mod.rd64 Reg.HIF_LOSS_TIME_LO = s.mod.now ∧
        t.mod.fget Fld.HIF_RETAIN_RESULT = 0 ∧ t.mod.flag Fld.HIF_LINK_UP = s.mod.flag Fld.HIF_LINK_UP ∧
        (s.mod.works = [] → s.mod.castState ≠ 4 → s.RegsBut (offs ++ [Reg.HIF_LOSS_STATUS, Reg.HIF_LOSS_TIME_LO,
          Reg.HIF_LOSS_TIME_HI, Reg.HIF_RETAIN_KIB]) t ∧
          t = { s with mod := { s.mod with
            regs := t.mod.regs, boot := t.mod.boot, heat := t.mod.heat
            hub := { s.mod.hub with
              retained := [], retainOver := false, detachAt := s.mod.now, retainMs := s.mod.fget Fld.HIF_RETAIN_MS } } }))))) ∧
  (∀ (s : State),
    (let k := s.mod.fget Fld.ID_BOOT_STAGE
    let due := s.mod.boot.powered = true ∧ 1 ≤ k ∧ k ≤ 8 ∧ s.mod.boot.stageStart +
      [2000, 15000, 6000, 12000, 30000, 18000, 30000, 7000].getD (k - 1) 0 * 1000000 ≤ s.mod.now
    (¬ due → Machine.exec .bringupStageTimeout s = .next s) ∧
    (due → k = 7 → ∃ t, Machine.exec .bringupStageTimeout s = .next t ∧ routed s t) ∧
    (due → k = 8 → Machine.exec .bringupStageTimeout s = Machine.exec (.bringupStageEnd (.hostLink false 0 0 false)) s) ∧
    (due → k < 7 → ∃ t, Machine.exec .bringupStageTimeout s = .next t ∧ failed t 7 ∧ s.RegsBut [Reg.ID_BOOT] t ∧
      t = { s with mod := { s.mod with regs := t.mod.regs } }))))

/-- Resets and power losses keep the store and what R411 and R421 keep, the set-up locks as R423 says, and maintenance
requests run as R426 to R429 say. 21_bringup_and_setup.md R411, 21_bringup_and_setup.md R421, 21_bringup_and_setup.md
R422, 21_bringup_and_setup.md R423, 21_bringup_and_setup.md R426, 21_bringup_and_setup.md R427,
21_bringup_and_setup.md R428, 21_bringup_and_setup.md R429, 22_firmware_and_configuration.md R442,
24_electrical_and_mechanical.md R458, 24_electrical_and_mechanical.md R464, 19_power_and_thermal.md R369. The model's
own choices in it: log entries 28, 54, 135, 136, 153, 155 and 159. -/
def Obligations.ResetsSetUpLockAndMaintenance : Prop :=
  (let stored := fun (nv : NvSt) (es : List JEntry) (stage : Bool) => { nv with
      journal := (nv.journal ++ es).drop ((nv.journal ++ es).length - 262144), jnlNext := nv.jnlNext + es.length
      stageResult := if stage then 7 else nv.stageResult }
  let warmed := fun (s t : State) (cause : Nat) (es : List JEntry) => t.mod.fget Fld.ID_BOOT_STAGE = 1 ∧
    t.mod.ready = false ∧ t.mod.locked = false ∧ t.mod.flag Fld.ID_WARM = true ∧ t.mod.rdN Reg.ID_RESET_CAUSE = cause ∧
    (∀ a d, regAt a = some d → a / 0x10000 ≠ 11 → a ∉ [Reg.ID_BOOT, Reg.ID_RESET_CAUSE, Reg.CAST_DIE_LOST] →
      (a / 0x10000 = 10 → a ∈ [Reg.SEC_SMBUS, Reg.SEC_EID, Reg.SEC_MGMT_EN]) → (∀ n, n < 384 → a ≠ Reg.CORE_STATUS n) →
      t.mod.rd a = (regReset a &&& ~~~ BitVec.ofNat 32 d.rws) ||| (s.mod.rd a &&& BitVec.ofNat 32 d.rws)) ∧
    (∀ n, n < 384 → (t.mod.coreState n = 4 ↔ s.mod.coreState n = 4)) ∧
    (∀ g, g < 48 → t.mod.clusterSt g = { lost := (s.mod.clusterSt g).lost }) ∧
    t.mod.rd Reg.CAST_DIE_LOST = s.mod.rd Reg.CAST_DIE_LOST ∧
    (∀ g, (t.mod.arr g).slag = (s.mod.arr g).slag ∧ (t.mod.arr g).failed = (s.mod.arr g).failed) ∧
    t = { s with mod := {
      regs := t.mod.regs, clusters := t.mod.clusters, arrays := t.mod.arrays, dieLost := s.mod.dieLost
      nv := stored s.mod.nv es s.mod.staging.isSome, out := t.mod.out, free := s.mod.free, nextId := s.mod.nextId
      boot := { s.mod.boot with warm := true, recovery := false, stageStart := 0 }, fab := { noticeNo := s.mod.fab.noticeNo }
      sec := { debugNext := s.mod.sec.debugNext } } }
  let off := fun (s t : State) (kept : Nat) (b : BootSt) =>
    (let late := (s.mod.jnlPend.filter (fun e => decide (e.time + 1000000000 < s.mod.now))).length
    t = { s with mem := [], mod := {
      nv := stored s.mod.nv (s.mod.jnlPend.take (min (late + kept) s.mod.jnlPend.length)) s.mod.staging.isSome
      out := s.mod.out, free := s.mod.free, nextId := s.mod.nextId, arrays := Mod.otpColumns s.mod.arrays
      fab := { noticeNo := s.mod.fab.noticeNo }, boot := { b with spares := s.mod.boot.spares } } })
  (∀ (s : State) (v : Word) (o : Origin), s.Accepts Reg.ID_RESET v o →
    (let formed := wordBits v 31 16 = 0x5752
    ∃ t, Machine.exec (.idReset v o) s = .next t ∧
      (¬ formed → s.Dropped t stMalformed Reg.ID_RESET v o) ∧
      (formed → bitOf v.toNat 0 = false → s.Journalled t Reg.ID_RESET v o ∧
        t = { s with mod := { s.mod with jnlPend := t.mod.jnlPend, out := t.mod.out } }) ∧
      (formed → bitOf v.toNat 0 = true → t.mod.out = s.mod.out ++ State.replyOf stOk o ∧
        warmed s t 3 (s.mod.jnlPend ++ [s.entryOf stOk Reg.ID_RESET v o])))) ∧
  (∀ (s : State) (eid : Nat),
    (s.mod.torvordUp = false → Machine.exec (.warmReset eid) s = .next s) ∧
    (s.mod.torvordUp = true → ∃ t, Machine.exec (.warmReset eid) s = .next t ∧
      t.mod.out = s.mod.out ++ [.reply eid stOk []] ∧ warmed s t 4 s.mod.jnlPend)) ∧
  (∀ (s : State) (kept : Nat),
    (∃ t, Machine.exec (.modRst kept) s = .next t ∧
      off s t kept { powered := false, resetPin := true, vinOk := s.mod.boot.vinOk, thermTrip := false }) ∧
    (s.mod.boot.powered = false →
      Machine.exec (.vinTrip kept) s = .next { s with mod := { s.mod with boot := { s.mod.boot with vinOk := false } } } ∧
      Machine.exec (.thermalTrip kept) s = .next s) ∧
    (s.mod.boot.powered = true →
      (∃ t, Machine.exec (.vinTrip kept) s = .next t ∧ off s t kept
        { powered := false, resetPin := s.mod.boot.resetPin, vinOk := false, thermTrip := s.mod.boot.thermTrip }) ∧
      (∃ t, Machine.exec (.thermalTrip kept) s = .next t ∧ off s t kept
        { powered := false, resetPin := s.mod.boot.resetPin, vinOk := s.mod.boot.vinOk, thermTrip := true }))) ∧
  (∀ (s : State) (v : Word) (o : Origin), s.Accepts Reg.ID_SETUP (setBit v 31) o →
    (let x := setBit v 31
    let p := bitOf v.toNat 0
    let err := (s.mod.fset Fld.ID_PROFILE (if p then 1 else 0)).lockError
    ∃ t, Machine.exec (.idSetupLock v o) s = .next t ∧
      (s.mod.locked = true → s.Journalled t Reg.ID_SETUP x o ∧ s.RegsBut [] t) ∧
      (s.mod.locked = false → s.mod.ready = false → s.Dropped t stAccessDenied Reg.ID_SETUP x o) ∧
      (s.mod.locked = false → s.mod.ready = true → ∀ a, err = some a → t.mod.rd Reg.ID_LOCK_ERR = BitVec.ofNat 32 a ∧
        t.mod.jnlPend = s.mod.jnlPend ++ [s.entryOf stMalformed Reg.ID_SETUP x o] ∧
        t.mod.out = s.mod.out ++ State.replyOf stMalformed o ∧ s.RegsBut [Reg.ID_LOCK_ERR] t) ∧
      (s.mod.locked = false → s.mod.ready = true → err = none → s.Journalled t Reg.ID_SETUP x o ∧ t.mod.locked = true ∧
        t.mod.flag Fld.ID_PROFILE = p ∧ t.mod.capacityProfile = p ∧
        (∀ d, d < 4 → t.mod.rdN (Reg.MEM_TRK_DEPTH d) = if p then 65536 else 16384) ∧
        t.mod.rd Reg.MEM_T2_SIZE = (if p then s.mod.rd Reg.MEM_T2_SIZE else 0) ∧
        (∀ a, a ∉ [Reg.ID_SETUP, Reg.MEM_STATUS, Reg.MEM_T2_SIZE] → (∀ d, d < 4 → a ≠ Reg.MEM_TRK_DEPTH d) →
          t.mod.rd a = s.mod.rd a)) ∧
      t = { s with mod := { s.mod with regs := t.mod.regs, jnlPend := t.mod.jnlPend, out := t.mod.out } })) ∧
  (let recorded := fun (s t : State) (r : Maint) (st cols : Nat) =>
    t.mod.rd Reg.ID_MAINT_RESULT = BitVec.ofNat 32 (st * 2 ^ 24 + r.kind * 2 ^ 20 + cols) ∧ t.mod.maint = none ∧
    t.mod.flag Fld.ID_MAINT_ARM = false ∧ t.mod.flag Fld.ID_MAINT_PEND = false ∧ t.mod.flag Fld.ID_MAINT_RUN = false ∧
    t.mod.events = s.mod.events ++ if s.mod.ready then [⟨s.mod.now, s.mod.heatNo, 0x001,
      s.mod.chip (if r.kind = 3 then 0 else r.die), if r.kind = 3 then 15 else r.cluster, 0,
      padBytes 14 (leBytes 1 r.kind ++ leBytes 1 r.die ++ leBytes 1 r.cluster ++ leBytes 1 st ++ leBytes 2 cols ++
        leBytes 2 (if r.cluster < 12 then s.mod.fget (Fld.ARR_WIDTH (12 * r.die + r.cluster)) else 0))⟩] else []
  (∀ (s : State) (v : Word) (o : Origin), s.Accepts Reg.ID_MAINT_REQ (setBit v 31) o →
    (let x := setBit v 31
    let r : Maint := { kind := bitsOf v.toNat 23 20, die := bitsOf v.toNat 17 16, cluster := bitsOf v.toNat 11 8 }
    let g := 12 * r.die + r.cluster
    let formed := (r.kind = 1 ∨ r.kind = 2) ∧ r.cluster < 12 ∨ r.kind = 3
    let dead := r.kind ≠ 3 ∧ (s.mod.dieIsLost r.die = true ∨ (s.mod.clusterSt g).lost = true)
    let running := s.mod.flag Fld.HEAT_RUN = true
    ∃ t, Machine.exec (.idMaintArm v o) s = .next t ∧
      t.mod.out = s.mod.out ++ State.replyOf (if s.mod.maint.isSome then stBusyRefused else stOk) o ∧
      t.mod.jnlPend = s.mod.jnlPend ++
        [s.entryOf (if s.mod.maint.isSome then stBusyRefused else stOk) Reg.ID_MAINT_REQ x o] ∧
      (s.mod.maint.isSome = true → s.RegsBut [Reg.ID_MAINT_RESULT] t ∧ t.mod.maint = s.mod.maint ∧
        t.mod.rdN Reg.ID_MAINT_RESULT = stBusyRefused * 2 ^ 24 + r.kind * 2 ^ 20 ∧ t.mod.events = s.mod.events) ∧
      (s.mod.maint = none → bitsOf (t.mod.rdN Reg.ID_MAINT_REQ) 23 20 = r.kind ∧
        bitsOf (t.mod.rdN Reg.ID_MAINT_REQ) 17 16 = r.die ∧ bitsOf (t.mod.rdN Reg.ID_MAINT_REQ) 11 8 = r.cluster) ∧
      (s.mod.maint = none → ¬ formed → recorded s t r stMalformed 0) ∧
      (s.mod.maint = none → formed → s.mod.rdN Reg.ID_MAINT_N = 0 → running → recorded s t r stBusyRefused 0) ∧
      (s.mod.maint = none → formed → s.mod.rdN Reg.ID_MAINT_N ≠ 0 → running → t.mod.maint = some r ∧
        t.mod.flag Fld.ID_MAINT_ARM = true ∧ t.mod.flag Fld.ID_MAINT_PEND = true ∧ t.mod.clusters = s.mod.clusters) ∧
      (s.mod.maint = none → formed → ¬ running → dead → recorded s t r stUnitLost 0) ∧
      (s.mod.maint = none → formed → ¬ running → ¬ dead → t.mod.maint = some { r with running := true } ∧
        t.mod.flag Fld.ID_MAINT_RUN = true ∧ t.mod.flag Fld.ID_MAINT_PEND = false ∧
        t.mod.rdN Reg.ID_MAINT_COUNT = min (s.mod.rdN Reg.ID_MAINT_COUNT + 1) 0xFFFFFFFF ∧
        (r.kind ≠ 3 → t.mod.clusterSt g = { s.mod.clusterSt g with maint := true }) ∧
        (r.kind = 1 → (t.mod.arr g).captures = [])) ∧
      (∀ a, a ∉ [Reg.ID_MAINT_REQ, Reg.ID_MAINT_RESULT, Reg.ID_MAINT_COUNT, Reg.NUM_DIE_CTR r.die 9] →
        t.mod.rd a = s.mod.rd a) ∧
      t = { s with mod := { s.mod with
        regs := t.mod.regs, jnlPend := t.mod.jnlPend, out := t.mod.out, events := t.mod.events, maint := t.mod.maint
        clusters := t.mod.clusters, arrays := t.mod.arrays } })) ∧
  (∀ (s : State) (cols : List Nat) (r : Maint), s.mod.maint = some r →
    (let g := 12 * r.die + r.cluster
    let fresh := cols.eraseDups.filter (fun c => !(s.mod.arr g).slag.any (fun x => x.1 == c))
    (r.running = false → Machine.exec (.maintEnd cols) s = .next s) ∧
    (r.running = true → ∃ t, Machine.exec (.maintEnd cols) s = .next t ∧
      t.mod.clusterSt g = (if r.kind = 3 then s.mod.clusterSt g else { s.mod.clusterSt g with maint := false }) ∧
      (∀ h, h ≠ g → t.mod.clusterSt h = s.mod.clusterSt h) ∧
      (r.kind = 1 → t.mod.maint = some { r with running := false, ended := some fresh } ∧
        t.mod.arr g = { s.mod.arr g with slagPend := (s.mod.arr g).slagPend ++ fresh.map (fun c => (c, 2)) } ∧
        (∀ h, h ≠ g → t.mod.arr h = s.mod.arr h) ∧
        t.mod.flag (Fld.ARR_SLAG_PEND g) = (s.mod.flag (Fld.ARR_SLAG_PEND g) || !fresh.isEmpty) ∧
        s.RegsBut [Reg.ARR_STATUS g] t ∧ t.mod.events = s.mod.events) ∧
      (r.kind ≠ 1 → recorded s t r stOk 0) ∧
      (r.kind ≠ 1 → t.mod.arrays = s.mod.arrays ∧ s.RegsBut [Reg.ID_MAINT_REQ, Reg.ID_MAINT_RESULT] t) ∧
      (r.kind = 2 → t.mod.free = s.mod.free + 1 ∧
        tabGet (fun _ => 0) t.mod.boot.meters g = (Config.freeWord s.mod.free).toNat) ∧
      (r.kind ≠ 2 → t.mod.free = s.mod.free ∧ t.mod.boot = s.mod.boot) ∧
      t = { s with mod := { s.mod with
        boot := { s.mod.boot with meters := t.mod.boot.meters }, free := t.mod.free
        regs := t.mod.regs, events := t.mod.events, maint := t.mod.maint, clusters := t.mod.clusters
        arrays := t.mod.arrays } }))) ∧
  (∀ (s : State) (cols : List Nat), s.mod.maint = none → Machine.exec (.maintEnd cols) s = .next s)))

/-- A staging begins, is judged, times out or is aborted with the result of Table 22.2; settings and confirmation are
written; the journal reaches the store. 22_firmware_and_configuration.md R432, 22_firmware_and_configuration.md R433,
22_firmware_and_configuration.md R434, 22_firmware_and_configuration.md R436, 22_firmware_and_configuration.md R438,
22_firmware_and_configuration.md R440, 22_firmware_and_configuration.md R442, 23_security_and_management.md R455,
22_firmware_and_configuration.md R437. The model's own choices in it: log entries 42, 113, 129, 131 and 143. -/
def Obligations.FirmwareStagingSettingsAndConfirmation : Prop :=
  (let blocks := fun (s t : State) => ∀ a, a / 0x10000 ≠ 10 → a / 0x10000 ≠ 11 → t.mod.rd a = s.mod.rd a
  let frame := fun (s t : State) => blocks s t ∧ t = { s with mod := { s.mod with
    regs := t.mod.regs, nv := t.mod.nv, jnlPend := t.mod.jnlPend, out := t.mod.out, staging := t.mod.staging
    sec := t.mod.sec } }
  let result := fun (nv : NvSt) (img : List Byte) (readOk storeOk readBackOk : Bool) =>
    if readOk = false then 6 else if imgCheck nv img ≠ 1 then imgCheck nv img else if storeOk = false then 8
    else if readBackOk = false then 4 else 1
  let left := fun (nv : NvSt) (res : Nat) (img : List Byte) => if res = 1 then { nv with
      stageResult := 1, staged := img, stagedOk := true, stagedVer := imgVersion img
      stagedInfo := imgSetFmt img * 256 + imgSvn img } else { nv with stageResult := res }
  let told := fun (s t : State) (l : List JEntry) (res : Nat) (img : List Byte) => t.mod.staging = none ∧
    t.mod.flag Fld.FWC_STAGING = false ∧ t.mod.fget Fld.FWC_STAGE_RESULT = res ∧
    ∃ e, t.mod.jnlPend = s.mod.jnlPend ++ l ++ [e] ∧ e.kind = 2 ∧ e.target = 2 ∧
      e.status = (if res = 1 then stOk else stMalformed) ∧ e.old = (if res = 1 then 0 else res) ∧
      e.new = if res = 1 then imgVersion img else 0
  let voided := fun (nv : NvSt) => { nv with staged := [], stagedOk := false, stagedVer := 0, stagedInfo := 0 }
  (∀ (s : State) (v : Word) (o : Origin), s.Accepts Reg.FWC_CTRL (setBit v 30) o →
    (let x := setBit v 30
    (bitOf v.toNat 31 = true → Machine.exec (.fwcStageGo v o) s = Machine.exec (.fwcConfirm x o) s) ∧
    (bitOf v.toNat 31 = false → ∃ t, Machine.exec (.fwcStageGo v o) s = .next t ∧
      (s.mod.staging.isSome = true ∨ s.mod.sec.update = true → s.Dropped t stAccessDenied Reg.FWC_CTRL x o) ∧
      (s.mod.staging = none → s.mod.sec.update = false → s.Journalled t Reg.FWC_CTRL x o ∧ t.mod.nv = voided s.mod.nv ∧
        t.mod.staging = some ⟨s.mod.base64 Reg.FWC_STAGE_SRC_LO, s.mod.rdN Reg.FWC_STAGE_LEN, s.mod.now, false, none⟩ ∧
        t.mod.flag Fld.FWC_STAGING = true ∧ t.mod.flag Fld.FWC_STAGE_PEND = false ∧ t.mod.sec = s.mod.sec ∧ frame s t)))) ∧
  (∀ (s : State) (v : Word) (o : Origin), s.Accepts Reg.FWC_CTRL (setBit v 29) o →
    (let x := setBit v 29
    (bitOf v.toNat 31 = true → Machine.exec (.fwcStageAbort v o) s = Machine.exec (.fwcConfirm x o) s) ∧
    (bitOf v.toNat 31 = false → bitOf v.toNat 30 = true →
      Machine.exec (.fwcStageAbort v o) s = Machine.exec (.fwcStageGo x o) s) ∧
    (bitOf v.toNat 31 = false → bitOf v.toNat 30 = false → ∃ t, Machine.exec (.fwcStageAbort v o) s = .next t ∧
      t.mod.out = s.mod.out ++ State.replyOf stOk o ∧
      (s.mod.staging = none → s.Journalled t Reg.FWC_CTRL x o ∧
        t = { s with mod := { s.mod with jnlPend := t.mod.jnlPend, out := t.mod.out } }) ∧
      (s.mod.staging.isSome = true → t.mod.nv = { s.mod.nv with stageResult := 7 } ∧
        told s t [s.entryOf stOk Reg.FWC_CTRL x o] 7 [] ∧ t.mod.sec = s.mod.sec ∧ frame s t)))) ∧
  (∀ (s : State) (v : Word) (o : Origin), s.Accepts Reg.FWC_CTRL (setBit v 31) o →
    (let x := setBit v 31
    let svn := max s.mod.nv.otpSvn (min 64 (s.mod.rdN Reg.FWC_RUN_INFO % 256))
    let denied := s.mod.flag Fld.FWC_UNCONFIRMED = false ∨ (bitOf v.toNat 30 = true ∧ (s.mod.staging.isSome = true ∨ s.mod.sec.update = true))
    ∃ t, Machine.exec (.fwcConfirm v o) s = .next t ∧
      (denied → s.Dropped t stAccessDenied Reg.FWC_CTRL x o) ∧
      (¬ denied → t.mod.out = s.mod.out ++ State.replyOf stOk o ∧
        (∃ e l, t.mod.jnlPend = s.mod.jnlPend ++ s.entryOf stOk Reg.FWC_CTRL x o :: e :: l ∧ e.kind = 2 ∧ e.target = 6 ∧
          e.old = s.mod.nv.otpSvn ∧ e.new = svn) ∧
        t.mod.flag Fld.FWC_UNCONFIRMED = false ∧ t.mod.nv.confirmedVer = s.mod.rdN Reg.FWC_RUN_VER ∧
        t.mod.nv.otpSvn = svn ∧ t.mod.nv.heldCopy = none ∧ t.mod.nv.current = s.mod.nv.current ∧
        t.mod.nv.active = s.mod.nv.active ∧
        (bitOf v.toNat 30 = false → bitOf v.toNat 29 = false → t.mod.staging = s.mod.staging ∧
          (s.mod.nv.stagedOk = true → t.mod.nv.stagedOk = imgValid { s.mod.nv with otpSvn := svn } s.mod.nv.staged)) ∧
        (bitOf v.toNat 30 = false → bitOf v.toNat 29 = true → t.mod.staging = none) ∧
        (bitOf v.toNat 30 = true → t.mod.staging =
          some ⟨s.mod.base64 Reg.FWC_STAGE_SRC_LO, s.mod.rdN Reg.FWC_STAGE_LEN, s.mod.now, false, none⟩) ∧
        t.mod.sec = s.mod.sec ∧ frame s t))) ∧
  (∀ (s : State) (readOk storeOk readBackOk : Bool), s.mod.staging = none →
    Machine.exec (.stagingDone readOk storeOk readBackOk) s = .next s ∧ Machine.exec .stagingTimeout s = .next s) ∧
  (∀ (s : State) (readOk storeOk readBackOk : Bool) (g : Staging), s.mod.staging = some g →
    (let read := match g.image with
      | some i => some i
      | none => (s.mod.stageSource g.src g.len).map (fun c => memRead s.mem c g.len)
    let img := read.getD []
    let res := result s.mod.nv img (readOk && read.isSome && !(g.image.isNone && s.mod.stageUnread g.src g.len)) storeOk readBackOk
    let late := g.started + 2 * ((g.len + 7999999) / 8000000 + 2) * 1000000000 ≤ s.mod.now ∧ s.mod.atTick = true
    (∃ t, Machine.exec (.stagingDone readOk storeOk readBackOk) s = .next t ∧ told s t [] res img ∧
      t.mod.nv = left s.mod.nv res img ∧ (res = 1 → t.mod.flag Fld.FWC_STAGE_PEND = true) ∧ t.mod.out = s.mod.out ∧
      t.mod.sec = s.mod.sec ∧ frame s t) ∧
    (¬ late → Machine.exec .stagingTimeout s = .next s) ∧
    (late → ∃ t, Machine.exec .stagingTimeout s = .next t ∧ told s t [] 9 [] ∧
      t.mod.nv = { s.mod.nv with stageResult := 9 } ∧ t.mod.out = s.mod.out ∧ t.mod.sec = s.mod.sec ∧ frame s t))) ∧
  (∀ (s : State) (n : Nat), Machine.exec (.journalStore n) s = .next { s with mod := { s.mod with
    jnlPend := s.mod.jnlPend.drop n
    nv := { s.mod.nv with
      journal := (s.mod.nv.journal ++ s.mod.jnlPend.take n).drop
        ((s.mod.nv.journal ++ s.mod.jnlPend.take n).length - 262144)
      jnlNext := s.mod.nv.jnlNext + min n s.mod.jnlPend.length } } }) ∧
  (∀ (s : State) (v : Word) (o : Origin), s.Accepts Reg.FWC_SET_WRITE v o →
    (let item := s.mod.rdN Reg.FWC_SET_SEL % 256
    let fits := (item = 1 ∧ v.toNat ≤ 12) ∨ ((item = 0 ∨ item = 2 ∨ item = 3) ∧ v.toNat ≤ 1)
    ∃ t, Machine.exec (.fwcSetWrite v o) s = .next t ∧
      (¬ fits → s.Dropped t stMalformed Reg.FWC_SET_WRITE v o) ∧
      (fits → s.Journalled t Reg.FWC_SET_WRITE v o ∧ settingGet t.mod.nv.current item = v.toNat ∧
        (∀ i, i ≠ item → settingGet t.mod.nv.current i = settingGet s.mod.nv.current i) ∧
        t.mod.nv = { s.mod.nv with current := t.mod.nv.current } ∧ t.mod.staging = s.mod.staging ∧
        t.mod.sec = s.mod.sec ∧ frame s t))) ∧
  (∀ (s : State) (eid : Nat) (img : List Byte) (storeOk readBackOk : Bool), s.mod.xipolUp = false →
    Machine.exec (.requestUpdate eid) s = .next s ∧ Machine.exec (.activateFirmware eid) s = .next s ∧
    Machine.exec (.cancelUpdate eid) s = .next s ∧
    Machine.exec (.verifyComplete eid img storeOk readBackOk) s = .next s) ∧
  (∀ (s : State) (eid : Nat) (img : List Byte) (storeOk readBackOk : Bool), s.mod.xipolUp = true →
    (let answers := fun (t : State) (code : Nat) (bs : List Byte) => t.mod.out = s.mod.out ++ [.reply eid code bs]
    let res := result s.mod.nv img true storeOk readBackOk
    let busy := s.mod.staging.isSome || s.mod.sec.update
    (∃ t, Machine.exec (.requestUpdate eid) s = .next t ∧ answers t (if busy then 0x8A else stOk) [] ∧
      t.mod.sec.update = (s.mod.sec.update || !busy) ∧ t = { s with mod := { s.mod with
        out := t.mod.out, sec := { s.mod.sec with update := t.mod.sec.update } } }) ∧
    (∃ t, Machine.exec (.activateFirmware eid) s = .next t ∧ answers t stOk [1] ∧
      t = { s with mod := { s.mod with out := t.mod.out, sec := { s.mod.sec with update := false } } }) ∧
    (∃ t, Machine.exec (.cancelUpdate eid) s = .next t ∧ answers t stOk [] ∧
      t.mod.sec = { s.mod.sec with update := false } ∧ frame s t ∧
      (s.mod.staging = none → t.mod.nv = s.mod.nv ∧ blocks s t ∧ t.mod.jnlPend = s.mod.jnlPend) ∧
      (s.mod.staging.isSome = true → t.mod.nv = { s.mod.nv with stageResult := 7 } ∧ told s t [] 7 [])) ∧
    (s.mod.sec.update = false → ∃ t, Machine.exec (.verifyComplete eid img storeOk readBackOk) s = .next t ∧
      answers t stAccessDenied [] ∧ t = { s with mod := { s.mod with out := t.mod.out } }) ∧
    (s.mod.sec.update = true → ∃ t, Machine.exec (.verifyComplete eid img storeOk readBackOk) s = .next t ∧
      answers t stOk [if res = 1 then 0 else 1] ∧ t.mem = s.mem ∧
      (¬ (s.mod.boot.recovery = true ∧ res = 1) → told s t [] res img ∧ t.mod.nv = left (voided s.mod.nv) res img ∧
        t.mod.sec = s.mod.sec ∧ frame s t) ∧
      (s.mod.boot.recovery = true → res = 1 → t.mod.fget Fld.ID_BOOT_STAGE = 1 ∧ t.mod.boot.recovery = false ∧
        t.mod.rdN Reg.ID_RESET_CAUSE = 4 ∧ t.mod.nv.staged = img ∧ t.mod.nv.stagedOk = true ∧
        t.mod.jnlPend = [])))))

/-- Certificates, reports and challenges are answered, and a signed command acts only where every check of R451
passes. 23_security_and_management.md R446, 23_security_and_management.md R447, 23_security_and_management.md R448,
23_security_and_management.md R451, 23_security_and_management.md R452, 23_security_and_management.md R453,
22_firmware_and_configuration.md R437, 21_bringup_and_setup.md R421. The model's own choices in it: log entries 4 and
25. -/
def Obligations.IdentityOwnershipAndSignedCommands : Prop :=
  (let answers := fun (s t : State) (eid code : Nat) (bs : List Byte) => t.mod.out = s.mod.out ++ [.reply eid code bs]
  let closes := fun (s : State) (c : List Byte) => s.mod.sec.challenge = some (scChallenge c)
  let closed := fun (s t : State) (c : List Byte) => (closes s c → t.mod.sec = { s.mod.sec with challenge := none } ∧
    t.mod.flag Fld.SEC_CHALLENGE_OPEN = false) ∧ (¬ closes s c → t.mod.sec = s.mod.sec)
  let sound := fun (s : State) (code : Nat) (c : List Byte) => c.length = 1392 ∧ Mod.scReservedOk c = true ∧ scCode c = code ∧
    scSerial c = s.mod.rd64 Reg.ID_SERIAL_LO ∧ closes s c
  let refused := fun (s t : State) (eid : Nat) (c : List Byte) =>
    answers s t eid (if c.length = 1392 ∧ Mod.scReservedOk c = true then stAccessDenied else stMalformed) [] ∧ closed s t c ∧
    t.mod.rdN Reg.SEC_REJECT_COUNT = min (s.mod.rdN Reg.SEC_REJECT_COUNT + 1) 0xFFFFFFFF ∧
    s.RegsBut [Reg.SEC_STATUS, Reg.SEC_REJECT_COUNT] t ∧
    t = { s with mod := { s.mod with regs := t.mod.regs, sec := t.mod.sec, out := t.mod.out } }
  let restarts := fun (s t : State) (eid : Nat) => answers s t eid stOk [] ∧ t.mod.fget Fld.ID_BOOT_STAGE = 1 ∧
    t.mod.ready = false ∧ t.mod.rdN Reg.ID_RESET_CAUSE = 4 ∧ t.mod.boot.warm = true ∧ t.mod.works = [] ∧
    t.mod.jnlPend = [] ∧ t.mod.nv.journal.length = min 262144 (s.mod.nv.journal.length + s.mod.jnlPend.length) ∧
    t.mod.nv.active = s.mod.nv.active ∧ t.mod.nv.staged = s.mod.nv.staged ∧ t.mem = s.mem ∧ t.pending = s.pending
  let stays := fun (s t : State) => (∀ a, a / 0x10000 ≠ 10 → a / 0x10000 ≠ 11 → t.mod.rd a = s.mod.rd a) ∧
    t = { s with mod := { s.mod with regs := t.mod.regs, sec := t.mod.sec, nv := t.mod.nv, out := t.mod.out } }
  let bySigner := fun (s : State) (tag c : List Byte) => ∃ k, s.mod.nv.ownerKey = some k ∧
    Config.falconVerify k (tag ++ scSigned c) (scSignature c) = true
  (∀ (s : State) (eid : Nat) (nonce key c : List Byte), s.mod.torvordUp = false →
    Machine.exec (.getCert eid) s = .next s ∧ Machine.exec (.attest eid nonce) s = .next s ∧
    Machine.exec (.getChallenge eid) s = .next s ∧ Machine.exec (.recovery eid c) s = .next s ∧
    Machine.exec (.claim eid key c) s = .next s ∧ Machine.exec (.release eid c) s = .next s ∧
    Machine.exec (.debugUnlock eid c) s = .next s ∧ Machine.exec (.revokeKey eid c) s = .next s) ∧
  (∀ (s : State) (eid : Nat) (nonce : List Byte), s.mod.torvordUp = true →
    Machine.exec (.getCert eid) s = .next { s with mod := { s.mod with
      out := s.mod.out ++ [.reply eid stOk Config.deviceCertificate] } } ∧
    (s.mod.flag Fld.HEAT_RUNNING = false → ∃ t b, Machine.exec (.attest eid nonce) s = .next t ∧
      answers s t eid stOk (b ++ padBytes 1280 (Config.identitySign (tagAttest ++ b))) ∧
      b.take 4 = leBytes 4 0x52545441 ∧ (b.drop 64).take 32 = padBytes 32 nonce ∧
      t.mod.rdN Reg.SEC_ATTEST_COUNT = min (s.mod.rdN Reg.SEC_ATTEST_COUNT + 1) 0xFFFFFFFF ∧
      s.RegsBut [Reg.SEC_ATTEST_COUNT] t ∧
      t = { s with mod := { s.mod with regs := t.mod.regs, out := t.mod.out } }) ∧
    (s.mod.flag Fld.HEAT_RUNNING = true → s.mod.sec.attests.length < 8 →
      Machine.exec (.attest eid nonce) s = .next { s with mod := { s.mod with
        sec := { s.mod.sec with attests := s.mod.sec.attests ++ [(eid, nonce)] } } }) ∧
    (s.mod.flag Fld.HEAT_RUNNING = true → 8 ≤ s.mod.sec.attests.length →
      Machine.exec (.attest eid nonce) s = .next { s with mod := { s.mod with
        out := s.mod.out ++ [.reply eid stBusyRefused []] } }) ∧
    (∃ t ch, Machine.exec (.getChallenge eid) s = .next t ∧ ch.length = 32 ∧ answers s t eid stOk ch ∧
      t.mod.sec = { s.mod.sec with challenge := some ch, challengeAt := s.mod.now } ∧
      t.mod.flag Fld.SEC_CHALLENGE_OPEN = true ∧ s.RegsBut [Reg.SEC_STATUS] t ∧
      t = { s with mod := { s.mod with
        regs := t.mod.regs, sec := t.mod.sec, out := t.mod.out, free := s.mod.free + 32 } })) ∧
  (∀ (s : State),
    (let due := s.mod.sec.challenge.isSome = true ∧ s.mod.sec.challengeAt + 60000000000 ≤ s.mod.now
    (¬ due → Machine.exec .challengeExpiry s = .next s) ∧
    (due → ∃ t, Machine.exec .challengeExpiry s = .next t ∧ t.mod.flag Fld.SEC_CHALLENGE_OPEN = false ∧
      s.RegsBut [Reg.SEC_STATUS] t ∧
      t = { s with mod := { s.mod with regs := t.mod.regs, sec := { s.mod.sec with challenge := none } } }))) ∧
  (∀ (s : State) (eid : Nat) (key c : List Byte), s.mod.torvordUp = true →
    (let good := sound s 0x10 c ∧ Config.falconVerify key (tagOwner ++ scSigned c) (scSignature c) = true ∧
      s.mod.nv.ownerKey = none
    ∃ t, Machine.exec (.claim eid key c) s = .next t ∧ (¬ good → refused s t eid c) ∧
      (good → answers s t eid stOk [] ∧ closed s t c ∧ t.mod.nv = { s.mod.nv with ownerKey := some key } ∧
        t.mod.flag Fld.SEC_OWNED = true ∧ stays s t))) ∧
  (∀ (s : State) (eid : Nat) (c : List Byte), s.mod.torvordUp = true →
    (let good := sound s 0x11 c ∧ bySigner s tagOwner c
    ∃ t, Machine.exec (.release eid c) s = .next t ∧ (¬ good → refused s t eid c) ∧
      (good → restarts s t eid ∧ t.mod.nv.ownerKey = none ∧ t.mod.flag Fld.SEC_OWNED = false ∧
        t.mod.sec.challenge = none))) ∧
  (∀ (s : State) (eid : Nat) (c : List Byte), s.mod.torvordUp = true →
    (let good := sound s 0x12 c ∧ (bySigner s tagDebug c ∨ (s.mod.nv.ownerKey = none ∧
      firmwareSigned s.mod.nv.revoked tagDebug (scSigned c) (scSignature c) = true))
    ∃ t, Machine.exec (.debugUnlock eid c) s = .next t ∧ (¬ good → refused s t eid c) ∧
      (good → restarts s t eid ∧ t.mod.sec.debugNext = true ∧ t.mod.nv.ownerKey = s.mod.nv.ownerKey))) ∧
  (∀ (s : State) (eid : Nat) (c : List Byte), s.mod.torvordUp = true →
    (let good := s.mod.nv.ownerKey = none ∨ (sound s 0x07 c ∧ bySigner s tagOwner c)
    ∃ t, Machine.exec (.recovery eid c) s = .next t ∧ (¬ good → refused s t eid c) ∧
      (good → restarts s t eid ∧ t.mod.boot.toRecovery = true ∧ t.mod.nv.ownerKey = s.mod.nv.ownerKey))) ∧
  (∀ (s : State) (eid : Nat) (c : List Byte), s.mod.torvordUp = true →
    (let k := scArg0 c
    let fuses := s.mod.nv.revoked ||| 2 ^ k
    let good := sound s 0x13 c ∧ k < 4 ∧ fuses < 15 ∧
      firmwareSigned fuses tagRevoke (scSigned c) (scSignature c) = true
    let voids := s.mod.nv.stagedOk = true ∧ imgSigned fuses s.mod.nv.staged = false
    ∃ t, Machine.exec (.revokeKey eid c) s = .next t ∧ (¬ good → refused s t eid c) ∧
      (good → answers s t eid stOk [] ∧ closed s t c ∧ t.mod.fget Fld.SEC_KEY_REVOKED = fuses ∧ stays s t ∧
        (¬ voids → t.mod.nv = { s.mod.nv with revoked := fuses }) ∧
        (voids → t.mod.nv = { s.mod.nv with revoked := fuses, staged := [], stagedOk := false, stageResult := 3 })))))

/-- Sensors are read, their events go to the registered receiver, and an endpoint is assigned on every enabled
transport. 23_security_and_management.md R449, 23_security_and_management.md R450, 23_security_and_management.md R454,
22_firmware_and_configuration.md R437. The model's own choices in it: log entries 129 and 130. -/
def Obligations.ManagementMessagesAndSensors : Prop :=
  (∀ (s : State) (eid id : Nat), s.mod.torvordUp = false → Machine.exec (.getSensorReading eid id) s = .next s ∧
    Machine.exec (.platformEventMessage id) s = .next s ∧ Machine.exec (.eventReceiverRegistration eid) s = .next s) ∧
  (∀ (s : State) (eid id : Nat), s.mod.torvordUp = true →
    (let reads := fun (id v : Nat) => Machine.exec (.getSensorReading eid id) s = .next { s with mod := { s.mod with
        out := s.mod.out ++ [.reply eid stOk (leBytes 4 v)] } } ∧
      (s.mod.sensorLevel id v = s.mod.levelSeen id → Machine.exec (.platformEventMessage id) s = .next s) ∧
      (s.mod.sensorLevel id v ≠ s.mod.levelSeen id → ∃ t, Machine.exec (.platformEventMessage id) s = .next t ∧
        t.mod.levelSeen id = s.mod.sensorLevel id v ∧ (∀ j, j ≠ id → t.mod.levelSeen j = s.mod.levelSeen j) ∧
        t.mod.out = s.mod.out ++ s.mod.sec.receiver.toList.map (fun r => Out.pldmEvent r id v) ∧
        t = { s with mod := { s.mod with out := t.mod.out, sec := { s.mod.sec with levels := t.mod.sec.levels } } })
    let steps := fun (id w c f : Nat) => ∀ v, s.mod.sensorLevel id v =
      if f ≤ v then 3 else if c ≤ v then 2 else if w ≤ v then 1 else 0
    (∀ v, s.mod.sensorLevel 1 v = if v < 40000 then 1 else 0) ∧
    (∀ v, s.mod.sensorLevel 2 v = if s.mod.rdN Reg.PWR_CAP_NOW < v then 1 else 0) ∧ steps 6 105 115 115 ∧
    (∀ d, d < 4 → steps (16 + d) 105 115 125) ∧ (∀ k, k < 16 → steps (32 + k) 85 95 105) ∧
    reads 1 (s.mod.rdN Reg.PWR_VIN) ∧ reads 2 (s.mod.rdN Reg.PWR_PIN) ∧ reads 3 (s.mod.rdN Reg.PWR_CAP_NOW) ∧
    reads 4 (bitsOf (s.mod.rdN Reg.PWR_COOL) 7 0) ∧ reads 5 (bitsOf (s.mod.rdN Reg.PWR_COOL) 15 8) ∧
    reads 6 (s.mod.rdN Reg.PWR_HUB_TJ) ∧ (∀ d, d < 4 → reads (16 + d) (s.mod.rdN (Reg.PWR_D_TJ d))) ∧
    (∀ d k, d < 4 → k < 4 → reads (32 + 4 * d + k) (s.mod.fget (Fld.MEM_STK_TEMP d k))) ∧
    reads 64 (if s.mod.fget Fld.ID_BOOT_STAGE = 9 ∧ s.mod.flag Fld.ID_DEGRADED = true then 10
      else s.mod.fget Fld.ID_BOOT_STAGE) ∧
    (id = 0 ∨ (6 < id ∧ id < 16) ∨ (19 < id ∧ id < 32) ∨ (47 < id ∧ id ≠ 64) →
      Machine.exec (.platformEventMessage id) s = .next s ∧
      Machine.exec (.getSensorReading eid id) s = .next { s with mod := { s.mod with
        out := s.mod.out ++ [.reply eid stMalformed []] } }) ∧
    Machine.exec (.eventReceiverRegistration eid) s = .next { s with mod := { s.mod with
      sec := { s.mod.sec with receiver := some eid }, out := s.mod.out ++ [.reply eid stOk []] } })) ∧
  (∀ (s : State) (t : Transport) (assign : Option (BitVec 8)),
    (let heard := s.mod.xipolUp = true ∧ bitOf (s.mod.rdN Reg.SEC_MGMT_EN)
      (match t with | .smbus => 0 | .i3c => 1 | .vdm => 2) = true
    let f : Field := match t with
      | .vdm => ⟨Reg.SEC_EID, 7, 0⟩
      | .smbus => ⟨Reg.SEC_EID, 15, 8⟩
      | .i3c => ⟨Reg.SEC_EID, 23, 16⟩
    (¬ heard → Machine.exec (.mctpControlMessage t assign) s = .next s) ∧
    (heard → assign = none → Machine.exec (.mctpControlMessage t assign) s = .next { s with mod := { s.mod with
      out := s.mod.out ++ [.reply (s.mod.fget f) stOk [BitVec.ofNat 8 (s.mod.fget f)]] } }) ∧
    (∀ e, heard → assign = some e → ∃ z, Machine.exec (.mctpControlMessage t assign) s = .next z ∧
      z.mod.fget f = e.toNat ∧ s.RegsBut [Reg.SEC_EID] z ∧ z.mod.out = s.mod.out ++ [.reply e.toNat stOk [e]] ∧
      z = { s with mod := { s.mod with regs := z.mod.regs, out := z.mod.out } })))
end

