-- ==== Sys2Proof/Laws/Tab.lean ====
section
/-!
SUPPORT. Laws of sparse tables: a read after a write, and that a write keeps the canonical form.
-/

namespace Sys2Proof.Machine

variable {α : Type}

theorem tabFind_erase_same (t : Tab α) (a : Nat) : tabFind (tabErase t a) a = none := by
  induction t with
  | nil => rfl
  | cons e t ih =>
    obtain ⟨k, v⟩ := e
    by_cases h : a = k <;> simp [tabErase, tabFind, h] <;> simpa [h] using ih

theorem tabFind_erase_ne (t : Tab α) {a b : Nat} (h : b ≠ a) : tabFind (tabErase t a) b = tabFind t b := by
  induction t with
  | nil => rfl
  | cons e t ih =>
    obtain ⟨k, v⟩ := e
    by_cases hk : a = k
    · have : b ≠ k := fun c => h (c.trans hk.symm)
      simp [tabErase, tabFind, hk, this] ; simpa [hk] using ih
    · simp [tabErase, tabFind, hk, ih]

theorem tabFind_insert_same (t : Tab α) (a : Nat) (x : α) : tabFind (tabInsert t a x) a = some x := by
  induction t with
  | nil => simp [tabInsert, tabFind]
  | cons e t ih =>
    obtain ⟨k, v⟩ := e
    by_cases hk : a = k
    · simp [tabInsert, tabFind, hk]
    · by_cases hl : a < k <;> simp [tabInsert, tabFind, hk, hl, ih]

theorem tabFind_insert_ne (t : Tab α) {a b : Nat} (x : α) (h : b ≠ a) : tabFind (tabInsert t a x) b = tabFind t b := by
  induction t with
  | nil => simp [tabInsert, tabFind, h]
  | cons e t ih =>
    obtain ⟨k, v⟩ := e
    by_cases hk : a = k
    · subst hk; simp [tabInsert, tabFind, h]
    · by_cases hl : a < k <;> simp [tabInsert, tabFind, hk, hl, ih, h]

/-- A read after a write of the same key gives the value written. -/
@[simp] theorem tabGet_put_same [DecidableEq α] (d : Nat → α) (t : Tab α) (a : Nat) (x : α) : tabGet d (tabPut d t a x) a = x := by
  unfold tabPut
  split
  · next h => simp [tabGet, tabFind_erase_same, h]
  · simp [tabGet, tabFind_insert_same]

/-- A write leaves every other key as it was. -/
theorem tabGet_put_ne [DecidableEq α] (d : Nat → α) (t : Tab α) {a b : Nat} (x : α) (h : b ≠ a) :
    tabGet d (tabPut d t a x) b = tabGet d t b := by
  unfold tabPut
  split
  · simp [tabGet, tabFind_erase_ne t h]
  · simp [tabGet, tabFind_insert_ne t x h]

/-- A read after a write, whatever the key. -/
theorem tabGet_put [DecidableEq α] (d : Nat → α) (t : Tab α) (a b : Nat) (x : α) :
    tabGet d (tabPut d t a x) b = if b = a then x else tabGet d t b := by
  by_cases h : b = a
  · subst h; simp
  · simp [h, tabGet_put_ne d t x h]

@[simp] theorem tabGet_nil (d : Nat → α) (a : Nat) : tabGet d ([] : Tab α) a = d a := rfl

/-! ### The canonical form -/

theorem tabAbove_mono {a b : Nat} (h : a ≤ b) (t : Tab α) : tabAbove b t = true → tabAbove a t = true := by
  induction t with
  | nil => simp [tabAbove]
  | cons e t ih =>
    obtain ⟨k, v⟩ := e
    simp only [tabAbove, Bool.and_eq_true, decide_eq_true_eq]
    exact fun hk => ⟨by omega, ih hk.2⟩

theorem tabAbove_erase {a b : Nat} (t : Tab α) : tabAbove a t = true → tabAbove a (tabErase t b) = true := by
  induction t with
  | nil => simp [tabAbove, tabErase]
  | cons e t ih =>
    obtain ⟨k, v⟩ := e
    by_cases hb : b = k <;> simp only [tabErase, hb, if_true, if_false, tabAbove, Bool.and_eq_true, decide_eq_true_eq]
    · exact fun h => by simpa [hb] using ih h.2
    · exact fun h => ⟨h.1, ih h.2⟩

theorem tabAbove_insert {a b : Nat} (hab : a < b) (x : α) (t : Tab α) :
    tabAbove a t = true → tabAbove a (tabInsert t b x) = true := by
  induction t with
  | nil => simp [tabAbove, tabInsert, hab]
  | cons e t ih =>
    obtain ⟨k, v⟩ := e
    intro h
    simp only [tabAbove, Bool.and_eq_true, decide_eq_true_eq] at h
    by_cases hb : b = k
    · simp [tabInsert, hb, tabAbove, h.2, h.1]
    · by_cases hl : b < k
      · simp [tabInsert, hb, hl, tabAbove, h.1, h.2, hab]
      · simp [tabInsert, hb, hl, tabAbove, h.1, ih h.2]

theorem tabWf_erase [DecidableEq α] (d : Nat → α) (t : Tab α) (a : Nat) : tabWf d t = true → tabWf d (tabErase t a) = true := by
  induction t with
  | nil => simp [tabWf, tabErase]
  | cons e t ih =>
    obtain ⟨k, v⟩ := e
    intro h
    simp only [tabWf, Bool.and_eq_true, decide_eq_true_eq] at h
    by_cases hb : a = k
    · simpa [tabErase, hb] using (by simpa [hb] using ih h.2)
    · simp [tabErase, hb, tabWf, h.1.1, ih h.2, tabAbove_erase t h.1.2]

theorem tabWf_insert [DecidableEq α] (d : Nat → α) (t : Tab α) (a : Nat) {x : α} (hx : x ≠ d a) :
    tabWf d t = true → tabWf d (tabInsert t a x) = true := by
  induction t with
  | nil => simp [tabWf, tabInsert, tabAbove, hx]
  | cons e t ih =>
    obtain ⟨k, v⟩ := e
    intro h
    simp only [tabWf, Bool.and_eq_true, decide_eq_true_eq] at h
    by_cases hb : a = k
    · subst hb; simp [tabInsert, tabWf, hx, h.1.2, h.2]
    · by_cases hl : a < k
      · simp [tabInsert, hb, hl, tabWf, tabAbove, hx, h.1.1, h.1.2, h.2, tabAbove_mono (Nat.le_of_lt hl) t h.1.2]
      · have hka : k < a := by omega
        simp [tabInsert, hb, hl, tabWf, h.1.1, ih h.2, tabAbove_insert hka x t h.1.2]

/-- A write keeps the canonical form. -/
theorem tabWf_put [DecidableEq α] (d : Nat → α) (t : Tab α) (a : Nat) (x : α) : tabWf d t = true → tabWf d (tabPut d t a x) = true := by
  intro h
  unfold tabPut
  split
  · exact tabWf_erase d t a h
  · next hx => exact tabWf_insert d t a hx h

theorem tabAbove_filter {a : Nat} (p : Nat × α → Bool) (t : Tab α) :
    tabAbove a t = true → tabAbove a (t.filter p) = true := by
  induction t with
  | nil => simp [tabAbove]
  | cons e t ih =>
    obtain ⟨k, v⟩ := e
    intro h
    simp only [tabAbove, Bool.and_eq_true, decide_eq_true_eq] at h
    by_cases hp : p (k, v) = true
    · simp [hp, tabAbove, h.1, ih h.2]
    · simpa [List.filter_cons, hp] using ih h.2

/-- Dropping entries keeps the canonical form. -/
theorem tabWf_filter [DecidableEq α] (d : Nat → α) (p : Nat × α → Bool) (t : Tab α) :
    tabWf d t = true → tabWf d (t.filter p) = true := by
  induction t with
  | nil => simp [tabWf]
  | cons e t ih =>
    obtain ⟨k, v⟩ := e
    intro h
    simp only [tabWf, Bool.and_eq_true, decide_eq_true_eq] at h
    by_cases hp : p (k, v) = true
    · simp [hp, tabWf, h.1.1, ih h.2, tabAbove_filter p t h.1.2]
    · simpa [List.filter_cons, hp] using ih h.2

end Sys2Proof.Machine
end

