-- ==== Sys2Proof/Laws/Mem.lean ====
section
/-!
SUPPORT. The bytes of the module's memories: what is written is read back, every other byte reads as before, and
writing keeps the canonical form.
-/

namespace Sys2Proof.Machine

open Sys2Proof

@[simp] theorem memRead_length (mem : Memory) (c k : Nat) : (memRead mem c k).length = k := by
  induction k generalizing c with
  | zero => rfl
  | succ k ih => simp [memRead, ih]

theorem memRead_get (mem : Memory) (c : Nat) {i k : Nat} (h : i < k) :
    (memRead mem c k)[i]? = some (memByte mem (c + i)) := by
  induction k generalizing c i with
  | zero => omega
  | succ k ih =>
    cases i with
    | zero => simp [memRead]
    | succ i => simp [memRead, ih (c + 1) (show i < k by omega), Nat.add_assoc, Nat.add_comm 1 i]

theorem memByte_put (mem : Memory) (c a : Nat) (b : Byte) :
    memByte (tabPut noByte mem c b) a = if a = c then b else memByte mem a := tabGet_put noByte mem c a b

/-- A byte below the bytes written reads as before. -/
theorem memByte_memWrite_below (bs : List Byte) (mem : Memory) {c a : Nat} (h : a < c) :
    memByte (memWrite mem c bs) a = memByte mem a := by
  induction bs generalizing mem c with
  | nil => rfl
  | cons b bs ih =>
    have hne : a ≠ c := by omega
    rw [memWrite, ih _ (by omega), memByte_put, if_neg hne]

/-- What every byte reads as after a write. -/
theorem memByte_memWrite (bs : List Byte) (mem : Memory) (c a : Nat) :
    memByte (memWrite mem c bs) a =
      if c ≤ a ∧ a < c + bs.length then bs.getD (a - c) 0 else memByte mem a := by
  induction bs generalizing mem c with
  | nil => rw [memWrite, if_neg (by simp only [List.length_nil]; omega)]
  | cons b bs ih =>
    rw [memWrite, ih, memByte_put]
    by_cases h : a = c
    · rw [if_neg (by omega), if_pos h, if_pos (by simp; omega), h]
      simp
    · by_cases h1 : c + 1 ≤ a ∧ a < c + 1 + bs.length
      · have h3 : a - c = (a - (c + 1)) + 1 := by omega
        rw [if_pos h1, if_pos (by simp; omega), h3]
        rfl
      · rw [if_neg h1, if_neg h, if_neg (by simp; omega)]

/-- Bytes outside those written read as before. -/
theorem memByte_memWrite_out (bs : List Byte) (mem : Memory) {c a : Nat} (h : a < c ∨ c + bs.length ≤ a) :
    memByte (memWrite mem c bs) a = memByte mem a := by
  rw [memByte_memWrite, if_neg (by omega)]

/-- Bytes written are read back. -/
theorem memRead_memWrite (bs : List Byte) (mem : Memory) (c : Nat) :
    memRead (memWrite mem c bs) c bs.length = bs := by
  apply List.ext_getElem?
  intro i
  by_cases h : i < bs.length
  · rw [memRead_get _ _ h, memByte_memWrite, if_pos (by omega)]
    simp [List.getD, h]
  · rw [List.getElem?_eq_none (by simp; omega), List.getElem?_eq_none (by omega)]

/-- Reading a stretch apart from the bytes written gives what it gave before. -/
theorem memRead_memWrite_out (bs : List Byte) (mem : Memory) {c a k : Nat} (h : a + k ≤ c ∨ c + bs.length ≤ a) :
    memRead (memWrite mem c bs) a k = memRead mem a k := by
  apply List.ext_getElem?
  intro i
  by_cases hi : i < k
  · rw [memRead_get _ _ hi, memRead_get _ _ hi, memByte_memWrite_out _ _ (by omega)]
  · rw [List.getElem?_eq_none (by simp; omega), List.getElem?_eq_none (by simp; omega)]

/-! ### The canonical form -/

/-- Writing bytes keeps the canonical form. -/
theorem memWrite_wf (bs : List Byte) (mem : Memory) (c : Nat) (h : Memory.wf mem) : Memory.wf (memWrite mem c bs) := by
  induction bs generalizing mem c with
  | nil => exact h
  | cons b bs ih => exact ih _ _ (tabWf_put noByte mem c b h)

/-- Dropping bytes keeps the canonical form. -/
theorem filter_wf (p : Nat × Byte → Bool) (mem : Memory) (h : Memory.wf mem) : Memory.wf (mem.filter p) :=
  tabWf_filter noByte p mem h

/-- A fold whose every step keeps the canonical form keeps it. -/
theorem foldl_wf {σ α : Type} (proj : σ → Memory) (f : σ → α → σ) (l : List α) (x : σ)
    (hf : ∀ y a, Memory.wf (proj y) → Memory.wf (proj (f y a))) (h : Memory.wf (proj x)) :
    Memory.wf (proj (l.foldl f x)) := by
  induction l generalizing x with
  | nil => exact h
  | cons a l ih => exact ih _ (hf _ _ h)

end Sys2Proof.Machine
end

