-- ==== Sys2Proof/Laws/State.lean ====
section
/-!
SUPPORT. One lemma per field per update: what every named update of the module leaves in each of its fields.
-/

namespace Sys2Proof.Machine

open Sys2Proof

namespace State

@[simp] theorem onMod_mod (s : State) (f : Mod → Mod) : (s.onMod f).mod = f s.mod := rfl
@[simp] theorem onMod_mem (s : State) (f : Mod → Mod) : (s.onMod f).mem = s.mem := rfl
@[simp] theorem onMod_pending (s : State) (f : Mod → Mod) : (s.onMod f).pending = s.pending := rfl

end State

namespace Mod

@[simp] theorem when_true (m : Mod) (f : Mod → Mod) : m.when true f = f m := rfl
@[simp] theorem when_false (m : Mod) (f : Mod → Mod) : m.when false f = m := rfl

/-! ### `wr` -/

@[simp] theorem wr_latch (m : Mod) (a : Nat) (v : Word) : (m.wr a v).latch = m.latch := rfl
@[simp] theorem wr_taken (m : Mod) (a : Nat) (v : Word) : (m.wr a v).taken = m.taken := rfl
@[simp] theorem wr_heldWrites (m : Mod) (a : Nat) (v : Word) : (m.wr a v).heldWrites = m.heldWrites := rfl
@[simp] theorem wr_free (m : Mod) (a : Nat) (v : Word) : (m.wr a v).free = m.free := rfl
@[simp] theorem wr_out (m : Mod) (a : Nat) (v : Word) : (m.wr a v).out = m.out := rfl
@[simp] theorem wr_events (m : Mod) (a : Nat) (v : Word) : (m.wr a v).events = m.events := rfl
@[simp] theorem wr_comps (m : Mod) (a : Nat) (v : Word) : (m.wr a v).comps = m.comps := rfl
@[simp] theorem wr_jnlPend (m : Mod) (a : Nat) (v : Word) : (m.wr a v).jnlPend = m.jnlPend := rfl
@[simp] theorem wr_heat (m : Mod) (a : Nat) (v : Word) : (m.wr a v).heat = m.heat := rfl
@[simp] theorem wr_clusters (m : Mod) (a : Nat) (v : Word) : (m.wr a v).clusters = m.clusters := rfl
@[simp] theorem wr_cores (m : Mod) (a : Nat) (v : Word) : (m.wr a v).cores = m.cores := rfl
@[simp] theorem wr_dieLost (m : Mod) (a : Nat) (v : Word) : (m.wr a v).dieLost = m.dieLost := rfl
@[simp] theorem wr_msgs (m : Mod) (a : Nat) (v : Word) : (m.wr a v).msgs = m.msgs := rfl
@[simp] theorem wr_works (m : Mod) (a : Nat) (v : Word) : (m.wr a v).works = m.works := rfl
@[simp] theorem wr_nextId (m : Mod) (a : Nat) (v : Word) : (m.wr a v).nextId = m.nextId := rfl
@[simp] theorem wr_nv (m : Mod) (a : Nat) (v : Word) : (m.wr a v).nv = m.nv := rfl
@[simp] theorem wr_boot (m : Mod) (a : Nat) (v : Word) : (m.wr a v).boot = m.boot := rfl
@[simp] theorem wr_sec (m : Mod) (a : Nat) (v : Word) : (m.wr a v).sec = m.sec := rfl
@[simp] theorem wr_staging (m : Mod) (a : Nat) (v : Word) : (m.wr a v).staging = m.staging := rfl
@[simp] theorem wr_maint (m : Mod) (a : Nat) (v : Word) : (m.wr a v).maint = m.maint := rfl
@[simp] theorem wr_hub (m : Mod) (a : Nat) (v : Word) : (m.wr a v).hub = m.hub := rfl
@[simp] theorem wr_banks (m : Mod) (a : Nat) (v : Word) : (m.wr a v).banks = m.banks := rfl
@[simp] theorem wr_arrays (m : Mod) (a : Nat) (v : Word) : (m.wr a v).arrays = m.arrays := rfl
@[simp] theorem wr_num (m : Mod) (a : Nat) (v : Word) : (m.wr a v).num = m.num := rfl
@[simp] theorem wr_disabled (m : Mod) (a : Nat) (v : Word) : (m.wr a v).disabled = m.disabled := rfl
@[simp] theorem wr_badLines (m : Mod) (a : Nat) (v : Word) : (m.wr a v).badLines = m.badLines := rfl
@[simp] theorem wr_tables (m : Mod) (a : Nat) (v : Word) : (m.wr a v).tables = m.tables := rfl
@[simp] theorem wr_col (m : Mod) (a : Nat) (v : Word) : (m.wr a v).col = m.col := rfl
@[simp] theorem wr_ing (m : Mod) (a : Nat) (v : Word) : (m.wr a v).ing = m.ing := rfl
@[simp] theorem wr_fab (m : Mod) (a : Nat) (v : Word) : (m.wr a v).fab = m.fab := rfl
@[simp] theorem wr_pwr (m : Mod) (a : Nat) (v : Word) : (m.wr a v).pwr = m.pwr := rfl
@[simp] theorem wr_cast (m : Mod) (a : Nat) (v : Word) : (m.wr a v).cast = m.cast := rfl

/-! ### `wrN` -/

@[simp] theorem wrN_latch (m : Mod) (a v : Nat) : (m.wrN a v).latch = m.latch := rfl
@[simp] theorem wrN_taken (m : Mod) (a v : Nat) : (m.wrN a v).taken = m.taken := rfl
@[simp] theorem wrN_heldWrites (m : Mod) (a v : Nat) : (m.wrN a v).heldWrites = m.heldWrites := rfl
@[simp] theorem wrN_free (m : Mod) (a v : Nat) : (m.wrN a v).free = m.free := rfl
@[simp] theorem wrN_out (m : Mod) (a v : Nat) : (m.wrN a v).out = m.out := rfl
@[simp] theorem wrN_events (m : Mod) (a v : Nat) : (m.wrN a v).events = m.events := rfl
@[simp] theorem wrN_comps (m : Mod) (a v : Nat) : (m.wrN a v).comps = m.comps := rfl
@[simp] theorem wrN_jnlPend (m : Mod) (a v : Nat) : (m.wrN a v).jnlPend = m.jnlPend := rfl
@[simp] theorem wrN_heat (m : Mod) (a v : Nat) : (m.wrN a v).heat = m.heat := rfl
@[simp] theorem wrN_clusters (m : Mod) (a v : Nat) : (m.wrN a v).clusters = m.clusters := rfl
@[simp] theorem wrN_cores (m : Mod) (a v : Nat) : (m.wrN a v).cores = m.cores := rfl
@[simp] theorem wrN_dieLost (m : Mod) (a v : Nat) : (m.wrN a v).dieLost = m.dieLost := rfl
@[simp] theorem wrN_msgs (m : Mod) (a v : Nat) : (m.wrN a v).msgs = m.msgs := rfl
@[simp] theorem wrN_works (m : Mod) (a v : Nat) : (m.wrN a v).works = m.works := rfl
@[simp] theorem wrN_nextId (m : Mod) (a v : Nat) : (m.wrN a v).nextId = m.nextId := rfl
@[simp] theorem wrN_nv (m : Mod) (a v : Nat) : (m.wrN a v).nv = m.nv := rfl
@[simp] theorem wrN_boot (m : Mod) (a v : Nat) : (m.wrN a v).boot = m.boot := rfl
@[simp] theorem wrN_sec (m : Mod) (a v : Nat) : (m.wrN a v).sec = m.sec := rfl
@[simp] theorem wrN_staging (m : Mod) (a v : Nat) : (m.wrN a v).staging = m.staging := rfl
@[simp] theorem wrN_maint (m : Mod) (a v : Nat) : (m.wrN a v).maint = m.maint := rfl
@[simp] theorem wrN_hub (m : Mod) (a v : Nat) : (m.wrN a v).hub = m.hub := rfl
@[simp] theorem wrN_banks (m : Mod) (a v : Nat) : (m.wrN a v).banks = m.banks := rfl
@[simp] theorem wrN_arrays (m : Mod) (a v : Nat) : (m.wrN a v).arrays = m.arrays := rfl
@[simp] theorem wrN_num (m : Mod) (a v : Nat) : (m.wrN a v).num = m.num := rfl
@[simp] theorem wrN_disabled (m : Mod) (a v : Nat) : (m.wrN a v).disabled = m.disabled := rfl
@[simp] theorem wrN_badLines (m : Mod) (a v : Nat) : (m.wrN a v).badLines = m.badLines := rfl
@[simp] theorem wrN_tables (m : Mod) (a v : Nat) : (m.wrN a v).tables = m.tables := rfl
@[simp] theorem wrN_col (m : Mod) (a v : Nat) : (m.wrN a v).col = m.col := rfl
@[simp] theorem wrN_ing (m : Mod) (a v : Nat) : (m.wrN a v).ing = m.ing := rfl
@[simp] theorem wrN_fab (m : Mod) (a v : Nat) : (m.wrN a v).fab = m.fab := rfl
@[simp] theorem wrN_pwr (m : Mod) (a v : Nat) : (m.wrN a v).pwr = m.pwr := rfl
@[simp] theorem wrN_cast (m : Mod) (a v : Nat) : (m.wrN a v).cast = m.cast := rfl

/-! ### `fset` -/

@[simp] theorem fset_latch (m : Mod) (f : Field) (v : Nat) : (m.fset f v).latch = m.latch := rfl
@[simp] theorem fset_taken (m : Mod) (f : Field) (v : Nat) : (m.fset f v).taken = m.taken := rfl
@[simp] theorem fset_heldWrites (m : Mod) (f : Field) (v : Nat) : (m.fset f v).heldWrites = m.heldWrites := rfl
@[simp] theorem fset_free (m : Mod) (f : Field) (v : Nat) : (m.fset f v).free = m.free := rfl
@[simp] theorem fset_out (m : Mod) (f : Field) (v : Nat) : (m.fset f v).out = m.out := rfl
@[simp] theorem fset_events (m : Mod) (f : Field) (v : Nat) : (m.fset f v).events = m.events := rfl
@[simp] theorem fset_comps (m : Mod) (f : Field) (v : Nat) : (m.fset f v).comps = m.comps := rfl
@[simp] theorem fset_jnlPend (m : Mod) (f : Field) (v : Nat) : (m.fset f v).jnlPend = m.jnlPend := rfl
@[simp] theorem fset_heat (m : Mod) (f : Field) (v : Nat) : (m.fset f v).heat = m.heat := rfl
@[simp] theorem fset_clusters (m : Mod) (f : Field) (v : Nat) : (m.fset f v).clusters = m.clusters := rfl
@[simp] theorem fset_cores (m : Mod) (f : Field) (v : Nat) : (m.fset f v).cores = m.cores := rfl
@[simp] theorem fset_dieLost (m : Mod) (f : Field) (v : Nat) : (m.fset f v).dieLost = m.dieLost := rfl
@[simp] theorem fset_msgs (m : Mod) (f : Field) (v : Nat) : (m.fset f v).msgs = m.msgs := rfl
@[simp] theorem fset_works (m : Mod) (f : Field) (v : Nat) : (m.fset f v).works = m.works := rfl
@[simp] theorem fset_nextId (m : Mod) (f : Field) (v : Nat) : (m.fset f v).nextId = m.nextId := rfl
@[simp] theorem fset_nv (m : Mod) (f : Field) (v : Nat) : (m.fset f v).nv = m.nv := rfl
@[simp] theorem fset_boot (m : Mod) (f : Field) (v : Nat) : (m.fset f v).boot = m.boot := rfl
@[simp] theorem fset_sec (m : Mod) (f : Field) (v : Nat) : (m.fset f v).sec = m.sec := rfl
@[simp] theorem fset_staging (m : Mod) (f : Field) (v : Nat) : (m.fset f v).staging = m.staging := rfl
@[simp] theorem fset_maint (m : Mod) (f : Field) (v : Nat) : (m.fset f v).maint = m.maint := rfl
@[simp] theorem fset_hub (m : Mod) (f : Field) (v : Nat) : (m.fset f v).hub = m.hub := rfl
@[simp] theorem fset_banks (m : Mod) (f : Field) (v : Nat) : (m.fset f v).banks = m.banks := rfl
@[simp] theorem fset_arrays (m : Mod) (f : Field) (v : Nat) : (m.fset f v).arrays = m.arrays := rfl
@[simp] theorem fset_num (m : Mod) (f : Field) (v : Nat) : (m.fset f v).num = m.num := rfl
@[simp] theorem fset_disabled (m : Mod) (f : Field) (v : Nat) : (m.fset f v).disabled = m.disabled := rfl
@[simp] theorem fset_badLines (m : Mod) (f : Field) (v : Nat) : (m.fset f v).badLines = m.badLines := rfl
@[simp] theorem fset_tables (m : Mod) (f : Field) (v : Nat) : (m.fset f v).tables = m.tables := rfl
@[simp] theorem fset_col (m : Mod) (f : Field) (v : Nat) : (m.fset f v).col = m.col := rfl
@[simp] theorem fset_ing (m : Mod) (f : Field) (v : Nat) : (m.fset f v).ing = m.ing := rfl
@[simp] theorem fset_fab (m : Mod) (f : Field) (v : Nat) : (m.fset f v).fab = m.fab := rfl
@[simp] theorem fset_pwr (m : Mod) (f : Field) (v : Nat) : (m.fset f v).pwr = m.pwr := rfl
@[simp] theorem fset_cast (m : Mod) (f : Field) (v : Nat) : (m.fset f v).cast = m.cast := rfl

/-! ### `fput` -/

@[simp] theorem fput_latch (m : Mod) (f : Field) (b : Bool) : (m.fput f b).latch = m.latch := rfl
@[simp] theorem fput_taken (m : Mod) (f : Field) (b : Bool) : (m.fput f b).taken = m.taken := rfl
@[simp] theorem fput_heldWrites (m : Mod) (f : Field) (b : Bool) : (m.fput f b).heldWrites = m.heldWrites := rfl
@[simp] theorem fput_free (m : Mod) (f : Field) (b : Bool) : (m.fput f b).free = m.free := rfl
@[simp] theorem fput_out (m : Mod) (f : Field) (b : Bool) : (m.fput f b).out = m.out := rfl
@[simp] theorem fput_events (m : Mod) (f : Field) (b : Bool) : (m.fput f b).events = m.events := rfl
@[simp] theorem fput_comps (m : Mod) (f : Field) (b : Bool) : (m.fput f b).comps = m.comps := rfl
@[simp] theorem fput_jnlPend (m : Mod) (f : Field) (b : Bool) : (m.fput f b).jnlPend = m.jnlPend := rfl
@[simp] theorem fput_heat (m : Mod) (f : Field) (b : Bool) : (m.fput f b).heat = m.heat := rfl
@[simp] theorem fput_clusters (m : Mod) (f : Field) (b : Bool) : (m.fput f b).clusters = m.clusters := rfl
@[simp] theorem fput_cores (m : Mod) (f : Field) (b : Bool) : (m.fput f b).cores = m.cores := rfl
@[simp] theorem fput_dieLost (m : Mod) (f : Field) (b : Bool) : (m.fput f b).dieLost = m.dieLost := rfl
@[simp] theorem fput_msgs (m : Mod) (f : Field) (b : Bool) : (m.fput f b).msgs = m.msgs := rfl
@[simp] theorem fput_works (m : Mod) (f : Field) (b : Bool) : (m.fput f b).works = m.works := rfl
@[simp] theorem fput_nextId (m : Mod) (f : Field) (b : Bool) : (m.fput f b).nextId = m.nextId := rfl
@[simp] theorem fput_nv (m : Mod) (f : Field) (b : Bool) : (m.fput f b).nv = m.nv := rfl
@[simp] theorem fput_boot (m : Mod) (f : Field) (b : Bool) : (m.fput f b).boot = m.boot := rfl
@[simp] theorem fput_sec (m : Mod) (f : Field) (b : Bool) : (m.fput f b).sec = m.sec := rfl
@[simp] theorem fput_staging (m : Mod) (f : Field) (b : Bool) : (m.fput f b).staging = m.staging := rfl
@[simp] theorem fput_maint (m : Mod) (f : Field) (b : Bool) : (m.fput f b).maint = m.maint := rfl
@[simp] theorem fput_hub (m : Mod) (f : Field) (b : Bool) : (m.fput f b).hub = m.hub := rfl
@[simp] theorem fput_banks (m : Mod) (f : Field) (b : Bool) : (m.fput f b).banks = m.banks := rfl
@[simp] theorem fput_arrays (m : Mod) (f : Field) (b : Bool) : (m.fput f b).arrays = m.arrays := rfl
@[simp] theorem fput_num (m : Mod) (f : Field) (b : Bool) : (m.fput f b).num = m.num := rfl
@[simp] theorem fput_disabled (m : Mod) (f : Field) (b : Bool) : (m.fput f b).disabled = m.disabled := rfl
@[simp] theorem fput_badLines (m : Mod) (f : Field) (b : Bool) : (m.fput f b).badLines = m.badLines := rfl
@[simp] theorem fput_tables (m : Mod) (f : Field) (b : Bool) : (m.fput f b).tables = m.tables := rfl
@[simp] theorem fput_col (m : Mod) (f : Field) (b : Bool) : (m.fput f b).col = m.col := rfl
@[simp] theorem fput_ing (m : Mod) (f : Field) (b : Bool) : (m.fput f b).ing = m.ing := rfl
@[simp] theorem fput_fab (m : Mod) (f : Field) (b : Bool) : (m.fput f b).fab = m.fab := rfl
@[simp] theorem fput_pwr (m : Mod) (f : Field) (b : Bool) : (m.fput f b).pwr = m.pwr := rfl
@[simp] theorem fput_cast (m : Mod) (f : Field) (b : Bool) : (m.fput f b).cast = m.cast := rfl

/-! ### `inc` -/

@[simp] theorem inc_latch (m : Mod) (a : Nat) : (m.inc a).latch = m.latch := rfl
@[simp] theorem inc_taken (m : Mod) (a : Nat) : (m.inc a).taken = m.taken := rfl
@[simp] theorem inc_heldWrites (m : Mod) (a : Nat) : (m.inc a).heldWrites = m.heldWrites := rfl
@[simp] theorem inc_free (m : Mod) (a : Nat) : (m.inc a).free = m.free := rfl
@[simp] theorem inc_out (m : Mod) (a : Nat) : (m.inc a).out = m.out := rfl
@[simp] theorem inc_events (m : Mod) (a : Nat) : (m.inc a).events = m.events := rfl
@[simp] theorem inc_comps (m : Mod) (a : Nat) : (m.inc a).comps = m.comps := rfl
@[simp] theorem inc_jnlPend (m : Mod) (a : Nat) : (m.inc a).jnlPend = m.jnlPend := rfl
@[simp] theorem inc_heat (m : Mod) (a : Nat) : (m.inc a).heat = m.heat := rfl
@[simp] theorem inc_clusters (m : Mod) (a : Nat) : (m.inc a).clusters = m.clusters := rfl
@[simp] theorem inc_cores (m : Mod) (a : Nat) : (m.inc a).cores = m.cores := rfl
@[simp] theorem inc_dieLost (m : Mod) (a : Nat) : (m.inc a).dieLost = m.dieLost := rfl
@[simp] theorem inc_msgs (m : Mod) (a : Nat) : (m.inc a).msgs = m.msgs := rfl
@[simp] theorem inc_works (m : Mod) (a : Nat) : (m.inc a).works = m.works := rfl
@[simp] theorem inc_nextId (m : Mod) (a : Nat) : (m.inc a).nextId = m.nextId := rfl
@[simp] theorem inc_nv (m : Mod) (a : Nat) : (m.inc a).nv = m.nv := rfl
@[simp] theorem inc_boot (m : Mod) (a : Nat) : (m.inc a).boot = m.boot := rfl
@[simp] theorem inc_sec (m : Mod) (a : Nat) : (m.inc a).sec = m.sec := rfl
@[simp] theorem inc_staging (m : Mod) (a : Nat) : (m.inc a).staging = m.staging := rfl
@[simp] theorem inc_maint (m : Mod) (a : Nat) : (m.inc a).maint = m.maint := rfl
@[simp] theorem inc_hub (m : Mod) (a : Nat) : (m.inc a).hub = m.hub := rfl
@[simp] theorem inc_banks (m : Mod) (a : Nat) : (m.inc a).banks = m.banks := rfl
@[simp] theorem inc_arrays (m : Mod) (a : Nat) : (m.inc a).arrays = m.arrays := rfl
@[simp] theorem inc_num (m : Mod) (a : Nat) : (m.inc a).num = m.num := rfl
@[simp] theorem inc_disabled (m : Mod) (a : Nat) : (m.inc a).disabled = m.disabled := rfl
@[simp] theorem inc_badLines (m : Mod) (a : Nat) : (m.inc a).badLines = m.badLines := rfl
@[simp] theorem inc_tables (m : Mod) (a : Nat) : (m.inc a).tables = m.tables := rfl
@[simp] theorem inc_col (m : Mod) (a : Nat) : (m.inc a).col = m.col := rfl
@[simp] theorem inc_ing (m : Mod) (a : Nat) : (m.inc a).ing = m.ing := rfl
@[simp] theorem inc_fab (m : Mod) (a : Nat) : (m.inc a).fab = m.fab := rfl
@[simp] theorem inc_pwr (m : Mod) (a : Nat) : (m.inc a).pwr = m.pwr := rfl
@[simp] theorem inc_cast (m : Mod) (a : Nat) : (m.inc a).cast = m.cast := rfl

/-! ### `addSat` -/

@[simp] theorem addSat_latch (m : Mod) (a k : Nat) : (m.addSat a k).latch = m.latch := rfl
@[simp] theorem addSat_taken (m : Mod) (a k : Nat) : (m.addSat a k).taken = m.taken := rfl
@[simp] theorem addSat_heldWrites (m : Mod) (a k : Nat) : (m.addSat a k).heldWrites = m.heldWrites := rfl
@[simp] theorem addSat_free (m : Mod) (a k : Nat) : (m.addSat a k).free = m.free := rfl
@[simp] theorem addSat_out (m : Mod) (a k : Nat) : (m.addSat a k).out = m.out := rfl
@[simp] theorem addSat_events (m : Mod) (a k : Nat) : (m.addSat a k).events = m.events := rfl
@[simp] theorem addSat_comps (m : Mod) (a k : Nat) : (m.addSat a k).comps = m.comps := rfl
@[simp] theorem addSat_jnlPend (m : Mod) (a k : Nat) : (m.addSat a k).jnlPend = m.jnlPend := rfl
@[simp] theorem addSat_heat (m : Mod) (a k : Nat) : (m.addSat a k).heat = m.heat := rfl
@[simp] theorem addSat_clusters (m : Mod) (a k : Nat) : (m.addSat a k).clusters = m.clusters := rfl
@[simp] theorem addSat_cores (m : Mod) (a k : Nat) : (m.addSat a k).cores = m.cores := rfl
@[simp] theorem addSat_dieLost (m : Mod) (a k : Nat) : (m.addSat a k).dieLost = m.dieLost := rfl
@[simp] theorem addSat_msgs (m : Mod) (a k : Nat) : (m.addSat a k).msgs = m.msgs := rfl
@[simp] theorem addSat_works (m : Mod) (a k : Nat) : (m.addSat a k).works = m.works := rfl
@[simp] theorem addSat_nextId (m : Mod) (a k : Nat) : (m.addSat a k).nextId = m.nextId := rfl
@[simp] theorem addSat_nv (m : Mod) (a k : Nat) : (m.addSat a k).nv = m.nv := rfl
@[simp] theorem addSat_boot (m : Mod) (a k : Nat) : (m.addSat a k).boot = m.boot := rfl
@[simp] theorem addSat_sec (m : Mod) (a k : Nat) : (m.addSat a k).sec = m.sec := rfl
@[simp] theorem addSat_staging (m : Mod) (a k : Nat) : (m.addSat a k).staging = m.staging := rfl
@[simp] theorem addSat_maint (m : Mod) (a k : Nat) : (m.addSat a k).maint = m.maint := rfl
@[simp] theorem addSat_hub (m : Mod) (a k : Nat) : (m.addSat a k).hub = m.hub := rfl
@[simp] theorem addSat_banks (m : Mod) (a k : Nat) : (m.addSat a k).banks = m.banks := rfl
@[simp] theorem addSat_arrays (m : Mod) (a k : Nat) : (m.addSat a k).arrays = m.arrays := rfl
@[simp] theorem addSat_num (m : Mod) (a k : Nat) : (m.addSat a k).num = m.num := rfl
@[simp] theorem addSat_disabled (m : Mod) (a k : Nat) : (m.addSat a k).disabled = m.disabled := rfl
@[simp] theorem addSat_badLines (m : Mod) (a k : Nat) : (m.addSat a k).badLines = m.badLines := rfl
@[simp] theorem addSat_tables (m : Mod) (a k : Nat) : (m.addSat a k).tables = m.tables := rfl
@[simp] theorem addSat_col (m : Mod) (a k : Nat) : (m.addSat a k).col = m.col := rfl
@[simp] theorem addSat_ing (m : Mod) (a k : Nat) : (m.addSat a k).ing = m.ing := rfl
@[simp] theorem addSat_fab (m : Mod) (a k : Nat) : (m.addSat a k).fab = m.fab := rfl
@[simp] theorem addSat_pwr (m : Mod) (a k : Nat) : (m.addSat a k).pwr = m.pwr := rfl
@[simp] theorem addSat_cast (m : Mod) (a k : Nat) : (m.addSat a k).cast = m.cast := rfl

/-! ### `finc` -/

@[simp] theorem finc_latch (m : Mod) (f : Field) : (m.finc f).latch = m.latch := rfl
@[simp] theorem finc_taken (m : Mod) (f : Field) : (m.finc f).taken = m.taken := rfl
@[simp] theorem finc_heldWrites (m : Mod) (f : Field) : (m.finc f).heldWrites = m.heldWrites := rfl
@[simp] theorem finc_free (m : Mod) (f : Field) : (m.finc f).free = m.free := rfl
@[simp] theorem finc_out (m : Mod) (f : Field) : (m.finc f).out = m.out := rfl
@[simp] theorem finc_events (m : Mod) (f : Field) : (m.finc f).events = m.events := rfl
@[simp] theorem finc_comps (m : Mod) (f : Field) : (m.finc f).comps = m.comps := rfl
@[simp] theorem finc_jnlPend (m : Mod) (f : Field) : (m.finc f).jnlPend = m.jnlPend := rfl
@[simp] theorem finc_heat (m : Mod) (f : Field) : (m.finc f).heat = m.heat := rfl
@[simp] theorem finc_clusters (m : Mod) (f : Field) : (m.finc f).clusters = m.clusters := rfl
@[simp] theorem finc_cores (m : Mod) (f : Field) : (m.finc f).cores = m.cores := rfl
@[simp] theorem finc_dieLost (m : Mod) (f : Field) : (m.finc f).dieLost = m.dieLost := rfl
@[simp] theorem finc_msgs (m : Mod) (f : Field) : (m.finc f).msgs = m.msgs := rfl
@[simp] theorem finc_works (m : Mod) (f : Field) : (m.finc f).works = m.works := rfl
@[simp] theorem finc_nextId (m : Mod) (f : Field) : (m.finc f).nextId = m.nextId := rfl
@[simp] theorem finc_nv (m : Mod) (f : Field) : (m.finc f).nv = m.nv := rfl
@[simp] theorem finc_boot (m : Mod) (f : Field) : (m.finc f).boot = m.boot := rfl
@[simp] theorem finc_sec (m : Mod) (f : Field) : (m.finc f).sec = m.sec := rfl
@[simp] theorem finc_staging (m : Mod) (f : Field) : (m.finc f).staging = m.staging := rfl
@[simp] theorem finc_maint (m : Mod) (f : Field) : (m.finc f).maint = m.maint := rfl
@[simp] theorem finc_hub (m : Mod) (f : Field) : (m.finc f).hub = m.hub := rfl
@[simp] theorem finc_banks (m : Mod) (f : Field) : (m.finc f).banks = m.banks := rfl
@[simp] theorem finc_arrays (m : Mod) (f : Field) : (m.finc f).arrays = m.arrays := rfl
@[simp] theorem finc_num (m : Mod) (f : Field) : (m.finc f).num = m.num := rfl
@[simp] theorem finc_disabled (m : Mod) (f : Field) : (m.finc f).disabled = m.disabled := rfl
@[simp] theorem finc_badLines (m : Mod) (f : Field) : (m.finc f).badLines = m.badLines := rfl
@[simp] theorem finc_tables (m : Mod) (f : Field) : (m.finc f).tables = m.tables := rfl
@[simp] theorem finc_col (m : Mod) (f : Field) : (m.finc f).col = m.col := rfl
@[simp] theorem finc_ing (m : Mod) (f : Field) : (m.finc f).ing = m.ing := rfl
@[simp] theorem finc_fab (m : Mod) (f : Field) : (m.finc f).fab = m.fab := rfl
@[simp] theorem finc_pwr (m : Mod) (f : Field) : (m.finc f).pwr = m.pwr := rfl
@[simp] theorem finc_cast (m : Mod) (f : Field) : (m.finc f).cast = m.cast := rfl

/-! ### `addMod` -/

@[simp] theorem addMod_latch (m : Mod) (a k : Nat) : (m.addMod a k).latch = m.latch := rfl
@[simp] theorem addMod_taken (m : Mod) (a k : Nat) : (m.addMod a k).taken = m.taken := rfl
@[simp] theorem addMod_heldWrites (m : Mod) (a k : Nat) : (m.addMod a k).heldWrites = m.heldWrites := rfl
@[simp] theorem addMod_free (m : Mod) (a k : Nat) : (m.addMod a k).free = m.free := rfl
@[simp] theorem addMod_out (m : Mod) (a k : Nat) : (m.addMod a k).out = m.out := rfl
@[simp] theorem addMod_events (m : Mod) (a k : Nat) : (m.addMod a k).events = m.events := rfl
@[simp] theorem addMod_comps (m : Mod) (a k : Nat) : (m.addMod a k).comps = m.comps := rfl
@[simp] theorem addMod_jnlPend (m : Mod) (a k : Nat) : (m.addMod a k).jnlPend = m.jnlPend := rfl
@[simp] theorem addMod_heat (m : Mod) (a k : Nat) : (m.addMod a k).heat = m.heat := rfl
@[simp] theorem addMod_clusters (m : Mod) (a k : Nat) : (m.addMod a k).clusters = m.clusters := rfl
@[simp] theorem addMod_cores (m : Mod) (a k : Nat) : (m.addMod a k).cores = m.cores := rfl
@[simp] theorem addMod_dieLost (m : Mod) (a k : Nat) : (m.addMod a k).dieLost = m.dieLost := rfl
@[simp] theorem addMod_msgs (m : Mod) (a k : Nat) : (m.addMod a k).msgs = m.msgs := rfl
@[simp] theorem addMod_works (m : Mod) (a k : Nat) : (m.addMod a k).works = m.works := rfl
@[simp] theorem addMod_nextId (m : Mod) (a k : Nat) : (m.addMod a k).nextId = m.nextId := rfl
@[simp] theorem addMod_nv (m : Mod) (a k : Nat) : (m.addMod a k).nv = m.nv := rfl
@[simp] theorem addMod_boot (m : Mod) (a k : Nat) : (m.addMod a k).boot = m.boot := rfl
@[simp] theorem addMod_sec (m : Mod) (a k : Nat) : (m.addMod a k).sec = m.sec := rfl
@[simp] theorem addMod_staging (m : Mod) (a k : Nat) : (m.addMod a k).staging = m.staging := rfl
@[simp] theorem addMod_maint (m : Mod) (a k : Nat) : (m.addMod a k).maint = m.maint := rfl
@[simp] theorem addMod_hub (m : Mod) (a k : Nat) : (m.addMod a k).hub = m.hub := rfl
@[simp] theorem addMod_banks (m : Mod) (a k : Nat) : (m.addMod a k).banks = m.banks := rfl
@[simp] theorem addMod_arrays (m : Mod) (a k : Nat) : (m.addMod a k).arrays = m.arrays := rfl
@[simp] theorem addMod_num (m : Mod) (a k : Nat) : (m.addMod a k).num = m.num := rfl
@[simp] theorem addMod_disabled (m : Mod) (a k : Nat) : (m.addMod a k).disabled = m.disabled := rfl
@[simp] theorem addMod_badLines (m : Mod) (a k : Nat) : (m.addMod a k).badLines = m.badLines := rfl
@[simp] theorem addMod_tables (m : Mod) (a k : Nat) : (m.addMod a k).tables = m.tables := rfl
@[simp] theorem addMod_col (m : Mod) (a k : Nat) : (m.addMod a k).col = m.col := rfl
@[simp] theorem addMod_ing (m : Mod) (a k : Nat) : (m.addMod a k).ing = m.ing := rfl
@[simp] theorem addMod_fab (m : Mod) (a k : Nat) : (m.addMod a k).fab = m.fab := rfl
@[simp] theorem addMod_pwr (m : Mod) (a k : Nat) : (m.addMod a k).pwr = m.pwr := rfl
@[simp] theorem addMod_cast (m : Mod) (a k : Nat) : (m.addMod a k).cast = m.cast := rfl

/-! ### `wr64` -/

@[simp] theorem wr64_latch (m : Mod) (a v : Nat) : (m.wr64 a v).latch = m.latch := rfl
@[simp] theorem wr64_taken (m : Mod) (a v : Nat) : (m.wr64 a v).taken = m.taken := rfl
@[simp] theorem wr64_heldWrites (m : Mod) (a v : Nat) : (m.wr64 a v).heldWrites = m.heldWrites := rfl
@[simp] theorem wr64_free (m : Mod) (a v : Nat) : (m.wr64 a v).free = m.free := rfl
@[simp] theorem wr64_out (m : Mod) (a v : Nat) : (m.wr64 a v).out = m.out := rfl
@[simp] theorem wr64_events (m : Mod) (a v : Nat) : (m.wr64 a v).events = m.events := rfl
@[simp] theorem wr64_comps (m : Mod) (a v : Nat) : (m.wr64 a v).comps = m.comps := rfl
@[simp] theorem wr64_jnlPend (m : Mod) (a v : Nat) : (m.wr64 a v).jnlPend = m.jnlPend := rfl
@[simp] theorem wr64_heat (m : Mod) (a v : Nat) : (m.wr64 a v).heat = m.heat := rfl
@[simp] theorem wr64_clusters (m : Mod) (a v : Nat) : (m.wr64 a v).clusters = m.clusters := rfl
@[simp] theorem wr64_cores (m : Mod) (a v : Nat) : (m.wr64 a v).cores = m.cores := rfl
@[simp] theorem wr64_dieLost (m : Mod) (a v : Nat) : (m.wr64 a v).dieLost = m.dieLost := rfl
@[simp] theorem wr64_msgs (m : Mod) (a v : Nat) : (m.wr64 a v).msgs = m.msgs := rfl
@[simp] theorem wr64_works (m : Mod) (a v : Nat) : (m.wr64 a v).works = m.works := rfl
@[simp] theorem wr64_nextId (m : Mod) (a v : Nat) : (m.wr64 a v).nextId = m.nextId := rfl
@[simp] theorem wr64_nv (m : Mod) (a v : Nat) : (m.wr64 a v).nv = m.nv := rfl
@[simp] theorem wr64_boot (m : Mod) (a v : Nat) : (m.wr64 a v).boot = m.boot := rfl
@[simp] theorem wr64_sec (m : Mod) (a v : Nat) : (m.wr64 a v).sec = m.sec := rfl
@[simp] theorem wr64_staging (m : Mod) (a v : Nat) : (m.wr64 a v).staging = m.staging := rfl
@[simp] theorem wr64_maint (m : Mod) (a v : Nat) : (m.wr64 a v).maint = m.maint := rfl
@[simp] theorem wr64_hub (m : Mod) (a v : Nat) : (m.wr64 a v).hub = m.hub := rfl
@[simp] theorem wr64_banks (m : Mod) (a v : Nat) : (m.wr64 a v).banks = m.banks := rfl
@[simp] theorem wr64_arrays (m : Mod) (a v : Nat) : (m.wr64 a v).arrays = m.arrays := rfl
@[simp] theorem wr64_num (m : Mod) (a v : Nat) : (m.wr64 a v).num = m.num := rfl
@[simp] theorem wr64_disabled (m : Mod) (a v : Nat) : (m.wr64 a v).disabled = m.disabled := rfl
@[simp] theorem wr64_badLines (m : Mod) (a v : Nat) : (m.wr64 a v).badLines = m.badLines := rfl
@[simp] theorem wr64_tables (m : Mod) (a v : Nat) : (m.wr64 a v).tables = m.tables := rfl
@[simp] theorem wr64_col (m : Mod) (a v : Nat) : (m.wr64 a v).col = m.col := rfl
@[simp] theorem wr64_ing (m : Mod) (a v : Nat) : (m.wr64 a v).ing = m.ing := rfl
@[simp] theorem wr64_fab (m : Mod) (a v : Nat) : (m.wr64 a v).fab = m.fab := rfl
@[simp] theorem wr64_pwr (m : Mod) (a v : Nat) : (m.wr64 a v).pwr = m.pwr := rfl
@[simp] theorem wr64_cast (m : Mod) (a v : Nat) : (m.wr64 a v).cast = m.cast := rfl

/-! ### `addSat64` -/

@[simp] theorem addSat64_latch (m : Mod) (a k : Nat) : (m.addSat64 a k).latch = m.latch := rfl
@[simp] theorem addSat64_taken (m : Mod) (a k : Nat) : (m.addSat64 a k).taken = m.taken := rfl
@[simp] theorem addSat64_heldWrites (m : Mod) (a k : Nat) : (m.addSat64 a k).heldWrites = m.heldWrites := rfl
@[simp] theorem addSat64_free (m : Mod) (a k : Nat) : (m.addSat64 a k).free = m.free := rfl
@[simp] theorem addSat64_out (m : Mod) (a k : Nat) : (m.addSat64 a k).out = m.out := rfl
@[simp] theorem addSat64_events (m : Mod) (a k : Nat) : (m.addSat64 a k).events = m.events := rfl
@[simp] theorem addSat64_comps (m : Mod) (a k : Nat) : (m.addSat64 a k).comps = m.comps := rfl
@[simp] theorem addSat64_jnlPend (m : Mod) (a k : Nat) : (m.addSat64 a k).jnlPend = m.jnlPend := rfl
@[simp] theorem addSat64_heat (m : Mod) (a k : Nat) : (m.addSat64 a k).heat = m.heat := rfl
@[simp] theorem addSat64_clusters (m : Mod) (a k : Nat) : (m.addSat64 a k).clusters = m.clusters := rfl
@[simp] theorem addSat64_cores (m : Mod) (a k : Nat) : (m.addSat64 a k).cores = m.cores := rfl
@[simp] theorem addSat64_dieLost (m : Mod) (a k : Nat) : (m.addSat64 a k).dieLost = m.dieLost := rfl
@[simp] theorem addSat64_msgs (m : Mod) (a k : Nat) : (m.addSat64 a k).msgs = m.msgs := rfl
@[simp] theorem addSat64_works (m : Mod) (a k : Nat) : (m.addSat64 a k).works = m.works := rfl
@[simp] theorem addSat64_nextId (m : Mod) (a k : Nat) : (m.addSat64 a k).nextId = m.nextId := rfl
@[simp] theorem addSat64_nv (m : Mod) (a k : Nat) : (m.addSat64 a k).nv = m.nv := rfl
@[simp] theorem addSat64_boot (m : Mod) (a k : Nat) : (m.addSat64 a k).boot = m.boot := rfl
@[simp] theorem addSat64_sec (m : Mod) (a k : Nat) : (m.addSat64 a k).sec = m.sec := rfl
@[simp] theorem addSat64_staging (m : Mod) (a k : Nat) : (m.addSat64 a k).staging = m.staging := rfl
@[simp] theorem addSat64_maint (m : Mod) (a k : Nat) : (m.addSat64 a k).maint = m.maint := rfl
@[simp] theorem addSat64_hub (m : Mod) (a k : Nat) : (m.addSat64 a k).hub = m.hub := rfl
@[simp] theorem addSat64_banks (m : Mod) (a k : Nat) : (m.addSat64 a k).banks = m.banks := rfl
@[simp] theorem addSat64_arrays (m : Mod) (a k : Nat) : (m.addSat64 a k).arrays = m.arrays := rfl
@[simp] theorem addSat64_num (m : Mod) (a k : Nat) : (m.addSat64 a k).num = m.num := rfl
@[simp] theorem addSat64_disabled (m : Mod) (a k : Nat) : (m.addSat64 a k).disabled = m.disabled := rfl
@[simp] theorem addSat64_badLines (m : Mod) (a k : Nat) : (m.addSat64 a k).badLines = m.badLines := rfl
@[simp] theorem addSat64_tables (m : Mod) (a k : Nat) : (m.addSat64 a k).tables = m.tables := rfl
@[simp] theorem addSat64_col (m : Mod) (a k : Nat) : (m.addSat64 a k).col = m.col := rfl
@[simp] theorem addSat64_ing (m : Mod) (a k : Nat) : (m.addSat64 a k).ing = m.ing := rfl
@[simp] theorem addSat64_fab (m : Mod) (a k : Nat) : (m.addSat64 a k).fab = m.fab := rfl
@[simp] theorem addSat64_pwr (m : Mod) (a k : Nat) : (m.addSat64 a k).pwr = m.pwr := rfl
@[simp] theorem addSat64_cast (m : Mod) (a k : Nat) : (m.addSat64 a k).cast = m.cast := rfl

/-! ### `setBase64` -/

@[simp] theorem setBase64_regs (m : Mod) (a v : Nat) : (m.setBase64 a v).regs = m.regs := rfl
@[simp] theorem setBase64_latch (m : Mod) (a v : Nat) : (m.setBase64 a v).latch = m.latch := rfl
@[simp] theorem setBase64_heldWrites (m : Mod) (a v : Nat) : (m.setBase64 a v).heldWrites = m.heldWrites := rfl
@[simp] theorem setBase64_free (m : Mod) (a v : Nat) : (m.setBase64 a v).free = m.free := rfl
@[simp] theorem setBase64_out (m : Mod) (a v : Nat) : (m.setBase64 a v).out = m.out := rfl
@[simp] theorem setBase64_events (m : Mod) (a v : Nat) : (m.setBase64 a v).events = m.events := rfl
@[simp] theorem setBase64_comps (m : Mod) (a v : Nat) : (m.setBase64 a v).comps = m.comps := rfl
@[simp] theorem setBase64_jnlPend (m : Mod) (a v : Nat) : (m.setBase64 a v).jnlPend = m.jnlPend := rfl
@[simp] theorem setBase64_heat (m : Mod) (a v : Nat) : (m.setBase64 a v).heat = m.heat := rfl
@[simp] theorem setBase64_clusters (m : Mod) (a v : Nat) : (m.setBase64 a v).clusters = m.clusters := rfl
@[simp] theorem setBase64_cores (m : Mod) (a v : Nat) : (m.setBase64 a v).cores = m.cores := rfl
@[simp] theorem setBase64_dieLost (m : Mod) (a v : Nat) : (m.setBase64 a v).dieLost = m.dieLost := rfl
@[simp] theorem setBase64_msgs (m : Mod) (a v : Nat) : (m.setBase64 a v).msgs = m.msgs := rfl
@[simp] theorem setBase64_works (m : Mod) (a v : Nat) : (m.setBase64 a v).works = m.works := rfl
@[simp] theorem setBase64_nextId (m : Mod) (a v : Nat) : (m.setBase64 a v).nextId = m.nextId := rfl
@[simp] theorem setBase64_nv (m : Mod) (a v : Nat) : (m.setBase64 a v).nv = m.nv := rfl
@[simp] theorem setBase64_boot (m : Mod) (a v : Nat) : (m.setBase64 a v).boot = m.boot := rfl
@[simp] theorem setBase64_sec (m : Mod) (a v : Nat) : (m.setBase64 a v).sec = m.sec := rfl
@[simp] theorem setBase64_staging (m : Mod) (a v : Nat) : (m.setBase64 a v).staging = m.staging := rfl
@[simp] theorem setBase64_maint (m : Mod) (a v : Nat) : (m.setBase64 a v).maint = m.maint := rfl
@[simp] theorem setBase64_hub (m : Mod) (a v : Nat) : (m.setBase64 a v).hub = m.hub := rfl
@[simp] theorem setBase64_banks (m : Mod) (a v : Nat) : (m.setBase64 a v).banks = m.banks := rfl
@[simp] theorem setBase64_arrays (m : Mod) (a v : Nat) : (m.setBase64 a v).arrays = m.arrays := rfl
@[simp] theorem setBase64_num (m : Mod) (a v : Nat) : (m.setBase64 a v).num = m.num := rfl
@[simp] theorem setBase64_disabled (m : Mod) (a v : Nat) : (m.setBase64 a v).disabled = m.disabled := rfl
@[simp] theorem setBase64_badLines (m : Mod) (a v : Nat) : (m.setBase64 a v).badLines = m.badLines := rfl
@[simp] theorem setBase64_tables (m : Mod) (a v : Nat) : (m.setBase64 a v).tables = m.tables := rfl
@[simp] theorem setBase64_col (m : Mod) (a v : Nat) : (m.setBase64 a v).col = m.col := rfl
@[simp] theorem setBase64_ing (m : Mod) (a v : Nat) : (m.setBase64 a v).ing = m.ing := rfl
@[simp] theorem setBase64_fab (m : Mod) (a v : Nat) : (m.setBase64 a v).fab = m.fab := rfl
@[simp] theorem setBase64_pwr (m : Mod) (a v : Nat) : (m.setBase64 a v).pwr = m.pwr := rfl
@[simp] theorem setBase64_cast (m : Mod) (a v : Nat) : (m.setBase64 a v).cast = m.cast := rfl

/-! ### `emit` -/

@[simp] theorem emit_regs (m : Mod) (o : Out) : (m.emit o).regs = m.regs := rfl
@[simp] theorem emit_latch (m : Mod) (o : Out) : (m.emit o).latch = m.latch := rfl
@[simp] theorem emit_taken (m : Mod) (o : Out) : (m.emit o).taken = m.taken := rfl
@[simp] theorem emit_heldWrites (m : Mod) (o : Out) : (m.emit o).heldWrites = m.heldWrites := rfl
@[simp] theorem emit_free (m : Mod) (o : Out) : (m.emit o).free = m.free := rfl
@[simp] theorem emit_events (m : Mod) (o : Out) : (m.emit o).events = m.events := rfl
@[simp] theorem emit_comps (m : Mod) (o : Out) : (m.emit o).comps = m.comps := rfl
@[simp] theorem emit_jnlPend (m : Mod) (o : Out) : (m.emit o).jnlPend = m.jnlPend := rfl
@[simp] theorem emit_heat (m : Mod) (o : Out) : (m.emit o).heat = m.heat := rfl
@[simp] theorem emit_clusters (m : Mod) (o : Out) : (m.emit o).clusters = m.clusters := rfl
@[simp] theorem emit_cores (m : Mod) (o : Out) : (m.emit o).cores = m.cores := rfl
@[simp] theorem emit_dieLost (m : Mod) (o : Out) : (m.emit o).dieLost = m.dieLost := rfl
@[simp] theorem emit_msgs (m : Mod) (o : Out) : (m.emit o).msgs = m.msgs := rfl
@[simp] theorem emit_works (m : Mod) (o : Out) : (m.emit o).works = m.works := rfl
@[simp] theorem emit_nextId (m : Mod) (o : Out) : (m.emit o).nextId = m.nextId := rfl
@[simp] theorem emit_nv (m : Mod) (o : Out) : (m.emit o).nv = m.nv := rfl
@[simp] theorem emit_boot (m : Mod) (o : Out) : (m.emit o).boot = m.boot := rfl
@[simp] theorem emit_sec (m : Mod) (o : Out) : (m.emit o).sec = m.sec := rfl
@[simp] theorem emit_staging (m : Mod) (o : Out) : (m.emit o).staging = m.staging := rfl
@[simp] theorem emit_maint (m : Mod) (o : Out) : (m.emit o).maint = m.maint := rfl
@[simp] theorem emit_hub (m : Mod) (o : Out) : (m.emit o).hub = m.hub := rfl
@[simp] theorem emit_banks (m : Mod) (o : Out) : (m.emit o).banks = m.banks := rfl
@[simp] theorem emit_arrays (m : Mod) (o : Out) : (m.emit o).arrays = m.arrays := rfl
@[simp] theorem emit_num (m : Mod) (o : Out) : (m.emit o).num = m.num := rfl
@[simp] theorem emit_disabled (m : Mod) (o : Out) : (m.emit o).disabled = m.disabled := rfl
@[simp] theorem emit_badLines (m : Mod) (o : Out) : (m.emit o).badLines = m.badLines := rfl
@[simp] theorem emit_tables (m : Mod) (o : Out) : (m.emit o).tables = m.tables := rfl
@[simp] theorem emit_col (m : Mod) (o : Out) : (m.emit o).col = m.col := rfl
@[simp] theorem emit_ing (m : Mod) (o : Out) : (m.emit o).ing = m.ing := rfl
@[simp] theorem emit_fab (m : Mod) (o : Out) : (m.emit o).fab = m.fab := rfl
@[simp] theorem emit_pwr (m : Mod) (o : Out) : (m.emit o).pwr = m.pwr := rfl
@[simp] theorem emit_cast (m : Mod) (o : Out) : (m.emit o).cast = m.cast := rfl

/-! ### `journal` -/

@[simp] theorem journal_regs (m : Mod) (a b c d e f g : Nat) : (m.journal a b c d e f g).regs = m.regs := rfl
@[simp] theorem journal_latch (m : Mod) (a b c d e f g : Nat) : (m.journal a b c d e f g).latch = m.latch := rfl
@[simp] theorem journal_taken (m : Mod) (a b c d e f g : Nat) : (m.journal a b c d e f g).taken = m.taken := rfl
@[simp] theorem journal_heldWrites (m : Mod) (a b c d e f g : Nat) : (m.journal a b c d e f g).heldWrites = m.heldWrites := rfl
@[simp] theorem journal_free (m : Mod) (a b c d e f g : Nat) : (m.journal a b c d e f g).free = m.free := rfl
@[simp] theorem journal_out (m : Mod) (a b c d e f g : Nat) : (m.journal a b c d e f g).out = m.out := rfl
@[simp] theorem journal_events (m : Mod) (a b c d e f g : Nat) : (m.journal a b c d e f g).events = m.events := rfl
@[simp] theorem journal_comps (m : Mod) (a b c d e f g : Nat) : (m.journal a b c d e f g).comps = m.comps := rfl
@[simp] theorem journal_heat (m : Mod) (a b c d e f g : Nat) : (m.journal a b c d e f g).heat = m.heat := rfl
@[simp] theorem journal_clusters (m : Mod) (a b c d e f g : Nat) : (m.journal a b c d e f g).clusters = m.clusters := rfl
@[simp] theorem journal_cores (m : Mod) (a b c d e f g : Nat) : (m.journal a b c d e f g).cores = m.cores := rfl
@[simp] theorem journal_dieLost (m : Mod) (a b c d e f g : Nat) : (m.journal a b c d e f g).dieLost = m.dieLost := rfl
@[simp] theorem journal_msgs (m : Mod) (a b c d e f g : Nat) : (m.journal a b c d e f g).msgs = m.msgs := rfl
@[simp] theorem journal_works (m : Mod) (a b c d e f g : Nat) : (m.journal a b c d e f g).works = m.works := rfl
@[simp] theorem journal_nextId (m : Mod) (a b c d e f g : Nat) : (m.journal a b c d e f g).nextId = m.nextId := rfl
@[simp] theorem journal_nv (m : Mod) (a b c d e f g : Nat) : (m.journal a b c d e f g).nv = m.nv := rfl
@[simp] theorem journal_boot (m : Mod) (a b c d e f g : Nat) : (m.journal a b c d e f g).boot = m.boot := rfl
@[simp] theorem journal_sec (m : Mod) (a b c d e f g : Nat) : (m.journal a b c d e f g).sec = m.sec := rfl
@[simp] theorem journal_staging (m : Mod) (a b c d e f g : Nat) : (m.journal a b c d e f g).staging = m.staging := rfl
@[simp] theorem journal_maint (m : Mod) (a b c d e f g : Nat) : (m.journal a b c d e f g).maint = m.maint := rfl
@[simp] theorem journal_hub (m : Mod) (a b c d e f g : Nat) : (m.journal a b c d e f g).hub = m.hub := rfl
@[simp] theorem journal_banks (m : Mod) (a b c d e f g : Nat) : (m.journal a b c d e f g).banks = m.banks := rfl
@[simp] theorem journal_arrays (m : Mod) (a b c d e f g : Nat) : (m.journal a b c d e f g).arrays = m.arrays := rfl
@[simp] theorem journal_num (m : Mod) (a b c d e f g : Nat) : (m.journal a b c d e f g).num = m.num := rfl
@[simp] theorem journal_disabled (m : Mod) (a b c d e f g : Nat) : (m.journal a b c d e f g).disabled = m.disabled := rfl
@[simp] theorem journal_badLines (m : Mod) (a b c d e f g : Nat) : (m.journal a b c d e f g).badLines = m.badLines := rfl
@[simp] theorem journal_tables (m : Mod) (a b c d e f g : Nat) : (m.journal a b c d e f g).tables = m.tables := rfl
@[simp] theorem journal_col (m : Mod) (a b c d e f g : Nat) : (m.journal a b c d e f g).col = m.col := rfl
@[simp] theorem journal_ing (m : Mod) (a b c d e f g : Nat) : (m.journal a b c d e f g).ing = m.ing := rfl
@[simp] theorem journal_fab (m : Mod) (a b c d e f g : Nat) : (m.journal a b c d e f g).fab = m.fab := rfl
@[simp] theorem journal_pwr (m : Mod) (a b c d e f g : Nat) : (m.journal a b c d e f g).pwr = m.pwr := rfl
@[simp] theorem journal_cast (m : Mod) (a b c d e f g : Nat) : (m.journal a b c d e f g).cast = m.cast := rfl

/-! ### `journalWrite` -/

@[simp] theorem journalWrite_regs (m : Mod) (a b : Nat) (c d : Word) (o : Origin) : (m.journalWrite a b c d o).regs = m.regs := rfl
@[simp] theorem journalWrite_latch (m : Mod) (a b : Nat) (c d : Word) (o : Origin) : (m.journalWrite a b c d o).latch = m.latch := rfl
@[simp] theorem journalWrite_taken (m : Mod) (a b : Nat) (c d : Word) (o : Origin) : (m.journalWrite a b c d o).taken = m.taken := rfl
@[simp] theorem journalWrite_heldWrites (m : Mod) (a b : Nat) (c d : Word) (o : Origin) : (m.journalWrite a b c d o).heldWrites = m.heldWrites := rfl
@[simp] theorem journalWrite_free (m : Mod) (a b : Nat) (c d : Word) (o : Origin) : (m.journalWrite a b c d o).free = m.free := rfl
@[simp] theorem journalWrite_out (m : Mod) (a b : Nat) (c d : Word) (o : Origin) : (m.journalWrite a b c d o).out = m.out := rfl
@[simp] theorem journalWrite_events (m : Mod) (a b : Nat) (c d : Word) (o : Origin) : (m.journalWrite a b c d o).events = m.events := rfl
@[simp] theorem journalWrite_comps (m : Mod) (a b : Nat) (c d : Word) (o : Origin) : (m.journalWrite a b c d o).comps = m.comps := rfl
@[simp] theorem journalWrite_heat (m : Mod) (a b : Nat) (c d : Word) (o : Origin) : (m.journalWrite a b c d o).heat = m.heat := rfl
@[simp] theorem journalWrite_clusters (m : Mod) (a b : Nat) (c d : Word) (o : Origin) : (m.journalWrite a b c d o).clusters = m.clusters := rfl
@[simp] theorem journalWrite_cores (m : Mod) (a b : Nat) (c d : Word) (o : Origin) : (m.journalWrite a b c d o).cores = m.cores := rfl
@[simp] theorem journalWrite_dieLost (m : Mod) (a b : Nat) (c d : Word) (o : Origin) : (m.journalWrite a b c d o).dieLost = m.dieLost := rfl
@[simp] theorem journalWrite_msgs (m : Mod) (a b : Nat) (c d : Word) (o : Origin) : (m.journalWrite a b c d o).msgs = m.msgs := rfl
@[simp] theorem journalWrite_works (m : Mod) (a b : Nat) (c d : Word) (o : Origin) : (m.journalWrite a b c d o).works = m.works := rfl
@[simp] theorem journalWrite_nextId (m : Mod) (a b : Nat) (c d : Word) (o : Origin) : (m.journalWrite a b c d o).nextId = m.nextId := rfl
@[simp] theorem journalWrite_nv (m : Mod) (a b : Nat) (c d : Word) (o : Origin) : (m.journalWrite a b c d o).nv = m.nv := rfl
@[simp] theorem journalWrite_boot (m : Mod) (a b : Nat) (c d : Word) (o : Origin) : (m.journalWrite a b c d o).boot = m.boot := rfl
@[simp] theorem journalWrite_sec (m : Mod) (a b : Nat) (c d : Word) (o : Origin) : (m.journalWrite a b c d o).sec = m.sec := rfl
@[simp] theorem journalWrite_staging (m : Mod) (a b : Nat) (c d : Word) (o : Origin) : (m.journalWrite a b c d o).staging = m.staging := rfl
@[simp] theorem journalWrite_maint (m : Mod) (a b : Nat) (c d : Word) (o : Origin) : (m.journalWrite a b c d o).maint = m.maint := rfl
@[simp] theorem journalWrite_hub (m : Mod) (a b : Nat) (c d : Word) (o : Origin) : (m.journalWrite a b c d o).hub = m.hub := rfl
@[simp] theorem journalWrite_banks (m : Mod) (a b : Nat) (c d : Word) (o : Origin) : (m.journalWrite a b c d o).banks = m.banks := rfl
@[simp] theorem journalWrite_arrays (m : Mod) (a b : Nat) (c d : Word) (o : Origin) : (m.journalWrite a b c d o).arrays = m.arrays := rfl
@[simp] theorem journalWrite_num (m : Mod) (a b : Nat) (c d : Word) (o : Origin) : (m.journalWrite a b c d o).num = m.num := rfl
@[simp] theorem journalWrite_disabled (m : Mod) (a b : Nat) (c d : Word) (o : Origin) : (m.journalWrite a b c d o).disabled = m.disabled := rfl
@[simp] theorem journalWrite_badLines (m : Mod) (a b : Nat) (c d : Word) (o : Origin) : (m.journalWrite a b c d o).badLines = m.badLines := rfl
@[simp] theorem journalWrite_tables (m : Mod) (a b : Nat) (c d : Word) (o : Origin) : (m.journalWrite a b c d o).tables = m.tables := rfl
@[simp] theorem journalWrite_col (m : Mod) (a b : Nat) (c d : Word) (o : Origin) : (m.journalWrite a b c d o).col = m.col := rfl
@[simp] theorem journalWrite_ing (m : Mod) (a b : Nat) (c d : Word) (o : Origin) : (m.journalWrite a b c d o).ing = m.ing := rfl
@[simp] theorem journalWrite_fab (m : Mod) (a b : Nat) (c d : Word) (o : Origin) : (m.journalWrite a b c d o).fab = m.fab := rfl
@[simp] theorem journalWrite_pwr (m : Mod) (a b : Nat) (c d : Word) (o : Origin) : (m.journalWrite a b c d o).pwr = m.pwr := rfl
@[simp] theorem journalWrite_cast (m : Mod) (a b : Nat) (c d : Word) (o : Origin) : (m.journalWrite a b c d o).cast = m.cast := rfl

/-! ### `journalAction` -/

@[simp] theorem journalAction_regs (m : Mod) (a b c d e : Nat) : (m.journalAction a b c d e).regs = m.regs := rfl
@[simp] theorem journalAction_latch (m : Mod) (a b c d e : Nat) : (m.journalAction a b c d e).latch = m.latch := rfl
@[simp] theorem journalAction_taken (m : Mod) (a b c d e : Nat) : (m.journalAction a b c d e).taken = m.taken := rfl
@[simp] theorem journalAction_heldWrites (m : Mod) (a b c d e : Nat) : (m.journalAction a b c d e).heldWrites = m.heldWrites := rfl
@[simp] theorem journalAction_free (m : Mod) (a b c d e : Nat) : (m.journalAction a b c d e).free = m.free := rfl
@[simp] theorem journalAction_out (m : Mod) (a b c d e : Nat) : (m.journalAction a b c d e).out = m.out := rfl
@[simp] theorem journalAction_events (m : Mod) (a b c d e : Nat) : (m.journalAction a b c d e).events = m.events := rfl
@[simp] theorem journalAction_comps (m : Mod) (a b c d e : Nat) : (m.journalAction a b c d e).comps = m.comps := rfl
@[simp] theorem journalAction_heat (m : Mod) (a b c d e : Nat) : (m.journalAction a b c d e).heat = m.heat := rfl
@[simp] theorem journalAction_clusters (m : Mod) (a b c d e : Nat) : (m.journalAction a b c d e).clusters = m.clusters := rfl
@[simp] theorem journalAction_cores (m : Mod) (a b c d e : Nat) : (m.journalAction a b c d e).cores = m.cores := rfl
@[simp] theorem journalAction_dieLost (m : Mod) (a b c d e : Nat) : (m.journalAction a b c d e).dieLost = m.dieLost := rfl
@[simp] theorem journalAction_msgs (m : Mod) (a b c d e : Nat) : (m.journalAction a b c d e).msgs = m.msgs := rfl
@[simp] theorem journalAction_works (m : Mod) (a b c d e : Nat) : (m.journalAction a b c d e).works = m.works := rfl
@[simp] theorem journalAction_nextId (m : Mod) (a b c d e : Nat) : (m.journalAction a b c d e).nextId = m.nextId := rfl
@[simp] theorem journalAction_nv (m : Mod) (a b c d e : Nat) : (m.journalAction a b c d e).nv = m.nv := rfl
@[simp] theorem journalAction_boot (m : Mod) (a b c d e : Nat) : (m.journalAction a b c d e).boot = m.boot := rfl
@[simp] theorem journalAction_sec (m : Mod) (a b c d e : Nat) : (m.journalAction a b c d e).sec = m.sec := rfl
@[simp] theorem journalAction_staging (m : Mod) (a b c d e : Nat) : (m.journalAction a b c d e).staging = m.staging := rfl
@[simp] theorem journalAction_maint (m : Mod) (a b c d e : Nat) : (m.journalAction a b c d e).maint = m.maint := rfl
@[simp] theorem journalAction_hub (m : Mod) (a b c d e : Nat) : (m.journalAction a b c d e).hub = m.hub := rfl
@[simp] theorem journalAction_banks (m : Mod) (a b c d e : Nat) : (m.journalAction a b c d e).banks = m.banks := rfl
@[simp] theorem journalAction_arrays (m : Mod) (a b c d e : Nat) : (m.journalAction a b c d e).arrays = m.arrays := rfl
@[simp] theorem journalAction_num (m : Mod) (a b c d e : Nat) : (m.journalAction a b c d e).num = m.num := rfl
@[simp] theorem journalAction_disabled (m : Mod) (a b c d e : Nat) : (m.journalAction a b c d e).disabled = m.disabled := rfl
@[simp] theorem journalAction_badLines (m : Mod) (a b c d e : Nat) : (m.journalAction a b c d e).badLines = m.badLines := rfl
@[simp] theorem journalAction_tables (m : Mod) (a b c d e : Nat) : (m.journalAction a b c d e).tables = m.tables := rfl
@[simp] theorem journalAction_col (m : Mod) (a b c d e : Nat) : (m.journalAction a b c d e).col = m.col := rfl
@[simp] theorem journalAction_ing (m : Mod) (a b c d e : Nat) : (m.journalAction a b c d e).ing = m.ing := rfl
@[simp] theorem journalAction_fab (m : Mod) (a b c d e : Nat) : (m.journalAction a b c d e).fab = m.fab := rfl
@[simp] theorem journalAction_pwr (m : Mod) (a b c d e : Nat) : (m.journalAction a b c d e).pwr = m.pwr := rfl
@[simp] theorem journalAction_cast (m : Mod) (a b c d e : Nat) : (m.journalAction a b c d e).cast = m.cast := rfl

/-! ### `setCluster` -/

@[simp] theorem setCluster_regs (m : Mod) (g : Nat) (c : ClusterSt) : (m.setCluster g c).regs = m.regs := rfl
@[simp] theorem setCluster_latch (m : Mod) (g : Nat) (c : ClusterSt) : (m.setCluster g c).latch = m.latch := rfl
@[simp] theorem setCluster_taken (m : Mod) (g : Nat) (c : ClusterSt) : (m.setCluster g c).taken = m.taken := rfl
@[simp] theorem setCluster_heldWrites (m : Mod) (g : Nat) (c : ClusterSt) : (m.setCluster g c).heldWrites = m.heldWrites := rfl
@[simp] theorem setCluster_free (m : Mod) (g : Nat) (c : ClusterSt) : (m.setCluster g c).free = m.free := rfl
@[simp] theorem setCluster_out (m : Mod) (g : Nat) (c : ClusterSt) : (m.setCluster g c).out = m.out := rfl
@[simp] theorem setCluster_events (m : Mod) (g : Nat) (c : ClusterSt) : (m.setCluster g c).events = m.events := rfl
@[simp] theorem setCluster_comps (m : Mod) (g : Nat) (c : ClusterSt) : (m.setCluster g c).comps = m.comps := rfl
@[simp] theorem setCluster_jnlPend (m : Mod) (g : Nat) (c : ClusterSt) : (m.setCluster g c).jnlPend = m.jnlPend := rfl
@[simp] theorem setCluster_heat (m : Mod) (g : Nat) (c : ClusterSt) : (m.setCluster g c).heat = m.heat := rfl
@[simp] theorem setCluster_cores (m : Mod) (g : Nat) (c : ClusterSt) : (m.setCluster g c).cores = m.cores := rfl
@[simp] theorem setCluster_dieLost (m : Mod) (g : Nat) (c : ClusterSt) : (m.setCluster g c).dieLost = m.dieLost := rfl
@[simp] theorem setCluster_msgs (m : Mod) (g : Nat) (c : ClusterSt) : (m.setCluster g c).msgs = m.msgs := rfl
@[simp] theorem setCluster_works (m : Mod) (g : Nat) (c : ClusterSt) : (m.setCluster g c).works = m.works := rfl
@[simp] theorem setCluster_nextId (m : Mod) (g : Nat) (c : ClusterSt) : (m.setCluster g c).nextId = m.nextId := rfl
@[simp] theorem setCluster_nv (m : Mod) (g : Nat) (c : ClusterSt) : (m.setCluster g c).nv = m.nv := rfl
@[simp] theorem setCluster_boot (m : Mod) (g : Nat) (c : ClusterSt) : (m.setCluster g c).boot = m.boot := rfl
@[simp] theorem setCluster_sec (m : Mod) (g : Nat) (c : ClusterSt) : (m.setCluster g c).sec = m.sec := rfl
@[simp] theorem setCluster_staging (m : Mod) (g : Nat) (c : ClusterSt) : (m.setCluster g c).staging = m.staging := rfl
@[simp] theorem setCluster_maint (m : Mod) (g : Nat) (c : ClusterSt) : (m.setCluster g c).maint = m.maint := rfl
@[simp] theorem setCluster_hub (m : Mod) (g : Nat) (c : ClusterSt) : (m.setCluster g c).hub = m.hub := rfl
@[simp] theorem setCluster_banks (m : Mod) (g : Nat) (c : ClusterSt) : (m.setCluster g c).banks = m.banks := rfl
@[simp] theorem setCluster_arrays (m : Mod) (g : Nat) (c : ClusterSt) : (m.setCluster g c).arrays = m.arrays := rfl
@[simp] theorem setCluster_num (m : Mod) (g : Nat) (c : ClusterSt) : (m.setCluster g c).num = m.num := rfl
@[simp] theorem setCluster_disabled (m : Mod) (g : Nat) (c : ClusterSt) : (m.setCluster g c).disabled = m.disabled := rfl
@[simp] theorem setCluster_badLines (m : Mod) (g : Nat) (c : ClusterSt) : (m.setCluster g c).badLines = m.badLines := rfl
@[simp] theorem setCluster_tables (m : Mod) (g : Nat) (c : ClusterSt) : (m.setCluster g c).tables = m.tables := rfl
@[simp] theorem setCluster_col (m : Mod) (g : Nat) (c : ClusterSt) : (m.setCluster g c).col = m.col := rfl
@[simp] theorem setCluster_ing (m : Mod) (g : Nat) (c : ClusterSt) : (m.setCluster g c).ing = m.ing := rfl
@[simp] theorem setCluster_fab (m : Mod) (g : Nat) (c : ClusterSt) : (m.setCluster g c).fab = m.fab := rfl
@[simp] theorem setCluster_pwr (m : Mod) (g : Nat) (c : ClusterSt) : (m.setCluster g c).pwr = m.pwr := rfl
@[simp] theorem setCluster_cast (m : Mod) (g : Nat) (c : ClusterSt) : (m.setCluster g c).cast = m.cast := rfl

/-! ### `modCluster` -/

@[simp] theorem modCluster_regs (m : Mod) (g : Nat) (f : ClusterSt → ClusterSt) : (m.modCluster g f).regs = m.regs := rfl
@[simp] theorem modCluster_latch (m : Mod) (g : Nat) (f : ClusterSt → ClusterSt) : (m.modCluster g f).latch = m.latch := rfl
@[simp] theorem modCluster_taken (m : Mod) (g : Nat) (f : ClusterSt → ClusterSt) : (m.modCluster g f).taken = m.taken := rfl
@[simp] theorem modCluster_heldWrites (m : Mod) (g : Nat) (f : ClusterSt → ClusterSt) : (m.modCluster g f).heldWrites = m.heldWrites := rfl
@[simp] theorem modCluster_free (m : Mod) (g : Nat) (f : ClusterSt → ClusterSt) : (m.modCluster g f).free = m.free := rfl
@[simp] theorem modCluster_out (m : Mod) (g : Nat) (f : ClusterSt → ClusterSt) : (m.modCluster g f).out = m.out := rfl
@[simp] theorem modCluster_events (m : Mod) (g : Nat) (f : ClusterSt → ClusterSt) : (m.modCluster g f).events = m.events := rfl
@[simp] theorem modCluster_comps (m : Mod) (g : Nat) (f : ClusterSt → ClusterSt) : (m.modCluster g f).comps = m.comps := rfl
@[simp] theorem modCluster_jnlPend (m : Mod) (g : Nat) (f : ClusterSt → ClusterSt) : (m.modCluster g f).jnlPend = m.jnlPend := rfl
@[simp] theorem modCluster_heat (m : Mod) (g : Nat) (f : ClusterSt → ClusterSt) : (m.modCluster g f).heat = m.heat := rfl
@[simp] theorem modCluster_cores (m : Mod) (g : Nat) (f : ClusterSt → ClusterSt) : (m.modCluster g f).cores = m.cores := rfl
@[simp] theorem modCluster_dieLost (m : Mod) (g : Nat) (f : ClusterSt → ClusterSt) : (m.modCluster g f).dieLost = m.dieLost := rfl
@[simp] theorem modCluster_msgs (m : Mod) (g : Nat) (f : ClusterSt → ClusterSt) : (m.modCluster g f).msgs = m.msgs := rfl
@[simp] theorem modCluster_works (m : Mod) (g : Nat) (f : ClusterSt → ClusterSt) : (m.modCluster g f).works = m.works := rfl
@[simp] theorem modCluster_nextId (m : Mod) (g : Nat) (f : ClusterSt → ClusterSt) : (m.modCluster g f).nextId = m.nextId := rfl
@[simp] theorem modCluster_nv (m : Mod) (g : Nat) (f : ClusterSt → ClusterSt) : (m.modCluster g f).nv = m.nv := rfl
@[simp] theorem modCluster_boot (m : Mod) (g : Nat) (f : ClusterSt → ClusterSt) : (m.modCluster g f).boot = m.boot := rfl
@[simp] theorem modCluster_sec (m : Mod) (g : Nat) (f : ClusterSt → ClusterSt) : (m.modCluster g f).sec = m.sec := rfl
@[simp] theorem modCluster_staging (m : Mod) (g : Nat) (f : ClusterSt → ClusterSt) : (m.modCluster g f).staging = m.staging := rfl
@[simp] theorem modCluster_maint (m : Mod) (g : Nat) (f : ClusterSt → ClusterSt) : (m.modCluster g f).maint = m.maint := rfl
@[simp] theorem modCluster_hub (m : Mod) (g : Nat) (f : ClusterSt → ClusterSt) : (m.modCluster g f).hub = m.hub := rfl
@[simp] theorem modCluster_banks (m : Mod) (g : Nat) (f : ClusterSt → ClusterSt) : (m.modCluster g f).banks = m.banks := rfl
@[simp] theorem modCluster_arrays (m : Mod) (g : Nat) (f : ClusterSt → ClusterSt) : (m.modCluster g f).arrays = m.arrays := rfl
@[simp] theorem modCluster_num (m : Mod) (g : Nat) (f : ClusterSt → ClusterSt) : (m.modCluster g f).num = m.num := rfl
@[simp] theorem modCluster_disabled (m : Mod) (g : Nat) (f : ClusterSt → ClusterSt) : (m.modCluster g f).disabled = m.disabled := rfl
@[simp] theorem modCluster_badLines (m : Mod) (g : Nat) (f : ClusterSt → ClusterSt) : (m.modCluster g f).badLines = m.badLines := rfl
@[simp] theorem modCluster_tables (m : Mod) (g : Nat) (f : ClusterSt → ClusterSt) : (m.modCluster g f).tables = m.tables := rfl
@[simp] theorem modCluster_col (m : Mod) (g : Nat) (f : ClusterSt → ClusterSt) : (m.modCluster g f).col = m.col := rfl
@[simp] theorem modCluster_ing (m : Mod) (g : Nat) (f : ClusterSt → ClusterSt) : (m.modCluster g f).ing = m.ing := rfl
@[simp] theorem modCluster_fab (m : Mod) (g : Nat) (f : ClusterSt → ClusterSt) : (m.modCluster g f).fab = m.fab := rfl
@[simp] theorem modCluster_pwr (m : Mod) (g : Nat) (f : ClusterSt → ClusterSt) : (m.modCluster g f).pwr = m.pwr := rfl
@[simp] theorem modCluster_cast (m : Mod) (g : Nat) (f : ClusterSt → ClusterSt) : (m.modCluster g f).cast = m.cast := rfl

/-! ### `setCore` -/

@[simp] theorem setCore_regs (m : Mod) (n : Nat) (c : CoreSt) : (m.setCore n c).regs = m.regs := rfl
@[simp] theorem setCore_latch (m : Mod) (n : Nat) (c : CoreSt) : (m.setCore n c).latch = m.latch := rfl
@[simp] theorem setCore_taken (m : Mod) (n : Nat) (c : CoreSt) : (m.setCore n c).taken = m.taken := rfl
@[simp] theorem setCore_heldWrites (m : Mod) (n : Nat) (c : CoreSt) : (m.setCore n c).heldWrites = m.heldWrites := rfl
@[simp] theorem setCore_free (m : Mod) (n : Nat) (c : CoreSt) : (m.setCore n c).free = m.free := rfl
@[simp] theorem setCore_out (m : Mod) (n : Nat) (c : CoreSt) : (m.setCore n c).out = m.out := rfl
@[simp] theorem setCore_events (m : Mod) (n : Nat) (c : CoreSt) : (m.setCore n c).events = m.events := rfl
@[simp] theorem setCore_comps (m : Mod) (n : Nat) (c : CoreSt) : (m.setCore n c).comps = m.comps := rfl
@[simp] theorem setCore_jnlPend (m : Mod) (n : Nat) (c : CoreSt) : (m.setCore n c).jnlPend = m.jnlPend := rfl
@[simp] theorem setCore_heat (m : Mod) (n : Nat) (c : CoreSt) : (m.setCore n c).heat = m.heat := rfl
@[simp] theorem setCore_clusters (m : Mod) (n : Nat) (c : CoreSt) : (m.setCore n c).clusters = m.clusters := rfl
@[simp] theorem setCore_dieLost (m : Mod) (n : Nat) (c : CoreSt) : (m.setCore n c).dieLost = m.dieLost := rfl
@[simp] theorem setCore_msgs (m : Mod) (n : Nat) (c : CoreSt) : (m.setCore n c).msgs = m.msgs := rfl
@[simp] theorem setCore_works (m : Mod) (n : Nat) (c : CoreSt) : (m.setCore n c).works = m.works := rfl
@[simp] theorem setCore_nextId (m : Mod) (n : Nat) (c : CoreSt) : (m.setCore n c).nextId = m.nextId := rfl
@[simp] theorem setCore_nv (m : Mod) (n : Nat) (c : CoreSt) : (m.setCore n c).nv = m.nv := rfl
@[simp] theorem setCore_boot (m : Mod) (n : Nat) (c : CoreSt) : (m.setCore n c).boot = m.boot := rfl
@[simp] theorem setCore_sec (m : Mod) (n : Nat) (c : CoreSt) : (m.setCore n c).sec = m.sec := rfl
@[simp] theorem setCore_staging (m : Mod) (n : Nat) (c : CoreSt) : (m.setCore n c).staging = m.staging := rfl
@[simp] theorem setCore_maint (m : Mod) (n : Nat) (c : CoreSt) : (m.setCore n c).maint = m.maint := rfl
@[simp] theorem setCore_hub (m : Mod) (n : Nat) (c : CoreSt) : (m.setCore n c).hub = m.hub := rfl
@[simp] theorem setCore_banks (m : Mod) (n : Nat) (c : CoreSt) : (m.setCore n c).banks = m.banks := rfl
@[simp] theorem setCore_arrays (m : Mod) (n : Nat) (c : CoreSt) : (m.setCore n c).arrays = m.arrays := rfl
@[simp] theorem setCore_num (m : Mod) (n : Nat) (c : CoreSt) : (m.setCore n c).num = m.num := rfl
@[simp] theorem setCore_disabled (m : Mod) (n : Nat) (c : CoreSt) : (m.setCore n c).disabled = m.disabled := rfl
@[simp] theorem setCore_badLines (m : Mod) (n : Nat) (c : CoreSt) : (m.setCore n c).badLines = m.badLines := rfl
@[simp] theorem setCore_tables (m : Mod) (n : Nat) (c : CoreSt) : (m.setCore n c).tables = m.tables := rfl
@[simp] theorem setCore_col (m : Mod) (n : Nat) (c : CoreSt) : (m.setCore n c).col = m.col := rfl
@[simp] theorem setCore_ing (m : Mod) (n : Nat) (c : CoreSt) : (m.setCore n c).ing = m.ing := rfl
@[simp] theorem setCore_fab (m : Mod) (n : Nat) (c : CoreSt) : (m.setCore n c).fab = m.fab := rfl
@[simp] theorem setCore_pwr (m : Mod) (n : Nat) (c : CoreSt) : (m.setCore n c).pwr = m.pwr := rfl
@[simp] theorem setCore_cast (m : Mod) (n : Nat) (c : CoreSt) : (m.setCore n c).cast = m.cast := rfl

/-! ### `modCore` -/

@[simp] theorem modCore_regs (m : Mod) (n : Nat) (f : CoreSt → CoreSt) : (m.modCore n f).regs = m.regs := rfl
@[simp] theorem modCore_latch (m : Mod) (n : Nat) (f : CoreSt → CoreSt) : (m.modCore n f).latch = m.latch := rfl
@[simp] theorem modCore_taken (m : Mod) (n : Nat) (f : CoreSt → CoreSt) : (m.modCore n f).taken = m.taken := rfl
@[simp] theorem modCore_heldWrites (m : Mod) (n : Nat) (f : CoreSt → CoreSt) : (m.modCore n f).heldWrites = m.heldWrites := rfl
@[simp] theorem modCore_free (m : Mod) (n : Nat) (f : CoreSt → CoreSt) : (m.modCore n f).free = m.free := rfl
@[simp] theorem modCore_out (m : Mod) (n : Nat) (f : CoreSt → CoreSt) : (m.modCore n f).out = m.out := rfl
@[simp] theorem modCore_events (m : Mod) (n : Nat) (f : CoreSt → CoreSt) : (m.modCore n f).events = m.events := rfl
@[simp] theorem modCore_comps (m : Mod) (n : Nat) (f : CoreSt → CoreSt) : (m.modCore n f).comps = m.comps := rfl
@[simp] theorem modCore_jnlPend (m : Mod) (n : Nat) (f : CoreSt → CoreSt) : (m.modCore n f).jnlPend = m.jnlPend := rfl
@[simp] theorem modCore_heat (m : Mod) (n : Nat) (f : CoreSt → CoreSt) : (m.modCore n f).heat = m.heat := rfl
@[simp] theorem modCore_clusters (m : Mod) (n : Nat) (f : CoreSt → CoreSt) : (m.modCore n f).clusters = m.clusters := rfl
@[simp] theorem modCore_dieLost (m : Mod) (n : Nat) (f : CoreSt → CoreSt) : (m.modCore n f).dieLost = m.dieLost := rfl
@[simp] theorem modCore_msgs (m : Mod) (n : Nat) (f : CoreSt → CoreSt) : (m.modCore n f).msgs = m.msgs := rfl
@[simp] theorem modCore_works (m : Mod) (n : Nat) (f : CoreSt → CoreSt) : (m.modCore n f).works = m.works := rfl
@[simp] theorem modCore_nextId (m : Mod) (n : Nat) (f : CoreSt → CoreSt) : (m.modCore n f).nextId = m.nextId := rfl
@[simp] theorem modCore_nv (m : Mod) (n : Nat) (f : CoreSt → CoreSt) : (m.modCore n f).nv = m.nv := rfl
@[simp] theorem modCore_boot (m : Mod) (n : Nat) (f : CoreSt → CoreSt) : (m.modCore n f).boot = m.boot := rfl
@[simp] theorem modCore_sec (m : Mod) (n : Nat) (f : CoreSt → CoreSt) : (m.modCore n f).sec = m.sec := rfl
@[simp] theorem modCore_staging (m : Mod) (n : Nat) (f : CoreSt → CoreSt) : (m.modCore n f).staging = m.staging := rfl
@[simp] theorem modCore_maint (m : Mod) (n : Nat) (f : CoreSt → CoreSt) : (m.modCore n f).maint = m.maint := rfl
@[simp] theorem modCore_hub (m : Mod) (n : Nat) (f : CoreSt → CoreSt) : (m.modCore n f).hub = m.hub := rfl
@[simp] theorem modCore_banks (m : Mod) (n : Nat) (f : CoreSt → CoreSt) : (m.modCore n f).banks = m.banks := rfl
@[simp] theorem modCore_arrays (m : Mod) (n : Nat) (f : CoreSt → CoreSt) : (m.modCore n f).arrays = m.arrays := rfl
@[simp] theorem modCore_num (m : Mod) (n : Nat) (f : CoreSt → CoreSt) : (m.modCore n f).num = m.num := rfl
@[simp] theorem modCore_disabled (m : Mod) (n : Nat) (f : CoreSt → CoreSt) : (m.modCore n f).disabled = m.disabled := rfl
@[simp] theorem modCore_badLines (m : Mod) (n : Nat) (f : CoreSt → CoreSt) : (m.modCore n f).badLines = m.badLines := rfl
@[simp] theorem modCore_tables (m : Mod) (n : Nat) (f : CoreSt → CoreSt) : (m.modCore n f).tables = m.tables := rfl
@[simp] theorem modCore_col (m : Mod) (n : Nat) (f : CoreSt → CoreSt) : (m.modCore n f).col = m.col := rfl
@[simp] theorem modCore_ing (m : Mod) (n : Nat) (f : CoreSt → CoreSt) : (m.modCore n f).ing = m.ing := rfl
@[simp] theorem modCore_fab (m : Mod) (n : Nat) (f : CoreSt → CoreSt) : (m.modCore n f).fab = m.fab := rfl
@[simp] theorem modCore_pwr (m : Mod) (n : Nat) (f : CoreSt → CoreSt) : (m.modCore n f).pwr = m.pwr := rfl
@[simp] theorem modCore_cast (m : Mod) (n : Nat) (f : CoreSt → CoreSt) : (m.modCore n f).cast = m.cast := rfl

/-! ### `dropWork` -/

@[simp] theorem dropWork_regs (m : Mod) (i : Nat) : (m.dropWork i).regs = m.regs := rfl
@[simp] theorem dropWork_latch (m : Mod) (i : Nat) : (m.dropWork i).latch = m.latch := rfl
@[simp] theorem dropWork_taken (m : Mod) (i : Nat) : (m.dropWork i).taken = m.taken := rfl
@[simp] theorem dropWork_heldWrites (m : Mod) (i : Nat) : (m.dropWork i).heldWrites = m.heldWrites := rfl
@[simp] theorem dropWork_free (m : Mod) (i : Nat) : (m.dropWork i).free = m.free := rfl
@[simp] theorem dropWork_out (m : Mod) (i : Nat) : (m.dropWork i).out = m.out := rfl
@[simp] theorem dropWork_events (m : Mod) (i : Nat) : (m.dropWork i).events = m.events := rfl
@[simp] theorem dropWork_comps (m : Mod) (i : Nat) : (m.dropWork i).comps = m.comps := rfl
@[simp] theorem dropWork_jnlPend (m : Mod) (i : Nat) : (m.dropWork i).jnlPend = m.jnlPend := rfl
@[simp] theorem dropWork_heat (m : Mod) (i : Nat) : (m.dropWork i).heat = m.heat := rfl
@[simp] theorem dropWork_clusters (m : Mod) (i : Nat) : (m.dropWork i).clusters = m.clusters := rfl
@[simp] theorem dropWork_cores (m : Mod) (i : Nat) : (m.dropWork i).cores = m.cores := rfl
@[simp] theorem dropWork_dieLost (m : Mod) (i : Nat) : (m.dropWork i).dieLost = m.dieLost := rfl
@[simp] theorem dropWork_msgs (m : Mod) (i : Nat) : (m.dropWork i).msgs = m.msgs := rfl
@[simp] theorem dropWork_nextId (m : Mod) (i : Nat) : (m.dropWork i).nextId = m.nextId := rfl
@[simp] theorem dropWork_nv (m : Mod) (i : Nat) : (m.dropWork i).nv = m.nv := rfl
@[simp] theorem dropWork_boot (m : Mod) (i : Nat) : (m.dropWork i).boot = m.boot := rfl
@[simp] theorem dropWork_sec (m : Mod) (i : Nat) : (m.dropWork i).sec = m.sec := rfl
@[simp] theorem dropWork_staging (m : Mod) (i : Nat) : (m.dropWork i).staging = m.staging := rfl
@[simp] theorem dropWork_maint (m : Mod) (i : Nat) : (m.dropWork i).maint = m.maint := rfl
@[simp] theorem dropWork_hub (m : Mod) (i : Nat) : (m.dropWork i).hub = m.hub := rfl
@[simp] theorem dropWork_banks (m : Mod) (i : Nat) : (m.dropWork i).banks = m.banks := rfl
@[simp] theorem dropWork_arrays (m : Mod) (i : Nat) : (m.dropWork i).arrays = m.arrays := rfl
@[simp] theorem dropWork_num (m : Mod) (i : Nat) : (m.dropWork i).num = m.num := rfl
@[simp] theorem dropWork_disabled (m : Mod) (i : Nat) : (m.dropWork i).disabled = m.disabled := rfl
@[simp] theorem dropWork_badLines (m : Mod) (i : Nat) : (m.dropWork i).badLines = m.badLines := rfl
@[simp] theorem dropWork_tables (m : Mod) (i : Nat) : (m.dropWork i).tables = m.tables := rfl
@[simp] theorem dropWork_col (m : Mod) (i : Nat) : (m.dropWork i).col = m.col := rfl
@[simp] theorem dropWork_ing (m : Mod) (i : Nat) : (m.dropWork i).ing = m.ing := rfl
@[simp] theorem dropWork_fab (m : Mod) (i : Nat) : (m.dropWork i).fab = m.fab := rfl
@[simp] theorem dropWork_pwr (m : Mod) (i : Nat) : (m.dropWork i).pwr = m.pwr := rfl
@[simp] theorem dropWork_cast (m : Mod) (i : Nat) : (m.dropWork i).cast = m.cast := rfl

/-! ### `modWork` -/

@[simp] theorem modWork_regs (m : Mod) (i : Nat) (f : Work → Work) : (m.modWork i f).regs = m.regs := rfl
@[simp] theorem modWork_latch (m : Mod) (i : Nat) (f : Work → Work) : (m.modWork i f).latch = m.latch := rfl
@[simp] theorem modWork_taken (m : Mod) (i : Nat) (f : Work → Work) : (m.modWork i f).taken = m.taken := rfl
@[simp] theorem modWork_heldWrites (m : Mod) (i : Nat) (f : Work → Work) : (m.modWork i f).heldWrites = m.heldWrites := rfl
@[simp] theorem modWork_free (m : Mod) (i : Nat) (f : Work → Work) : (m.modWork i f).free = m.free := rfl
@[simp] theorem modWork_out (m : Mod) (i : Nat) (f : Work → Work) : (m.modWork i f).out = m.out := rfl
@[simp] theorem modWork_events (m : Mod) (i : Nat) (f : Work → Work) : (m.modWork i f).events = m.events := rfl
@[simp] theorem modWork_comps (m : Mod) (i : Nat) (f : Work → Work) : (m.modWork i f).comps = m.comps := rfl
@[simp] theorem modWork_jnlPend (m : Mod) (i : Nat) (f : Work → Work) : (m.modWork i f).jnlPend = m.jnlPend := rfl
@[simp] theorem modWork_heat (m : Mod) (i : Nat) (f : Work → Work) : (m.modWork i f).heat = m.heat := rfl
@[simp] theorem modWork_clusters (m : Mod) (i : Nat) (f : Work → Work) : (m.modWork i f).clusters = m.clusters := rfl
@[simp] theorem modWork_cores (m : Mod) (i : Nat) (f : Work → Work) : (m.modWork i f).cores = m.cores := rfl
@[simp] theorem modWork_dieLost (m : Mod) (i : Nat) (f : Work → Work) : (m.modWork i f).dieLost = m.dieLost := rfl
@[simp] theorem modWork_msgs (m : Mod) (i : Nat) (f : Work → Work) : (m.modWork i f).msgs = m.msgs := rfl
@[simp] theorem modWork_nextId (m : Mod) (i : Nat) (f : Work → Work) : (m.modWork i f).nextId = m.nextId := rfl
@[simp] theorem modWork_nv (m : Mod) (i : Nat) (f : Work → Work) : (m.modWork i f).nv = m.nv := rfl
@[simp] theorem modWork_boot (m : Mod) (i : Nat) (f : Work → Work) : (m.modWork i f).boot = m.boot := rfl
@[simp] theorem modWork_sec (m : Mod) (i : Nat) (f : Work → Work) : (m.modWork i f).sec = m.sec := rfl
@[simp] theorem modWork_staging (m : Mod) (i : Nat) (f : Work → Work) : (m.modWork i f).staging = m.staging := rfl
@[simp] theorem modWork_maint (m : Mod) (i : Nat) (f : Work → Work) : (m.modWork i f).maint = m.maint := rfl
@[simp] theorem modWork_hub (m : Mod) (i : Nat) (f : Work → Work) : (m.modWork i f).hub = m.hub := rfl
@[simp] theorem modWork_banks (m : Mod) (i : Nat) (f : Work → Work) : (m.modWork i f).banks = m.banks := rfl
@[simp] theorem modWork_arrays (m : Mod) (i : Nat) (f : Work → Work) : (m.modWork i f).arrays = m.arrays := rfl
@[simp] theorem modWork_num (m : Mod) (i : Nat) (f : Work → Work) : (m.modWork i f).num = m.num := rfl
@[simp] theorem modWork_disabled (m : Mod) (i : Nat) (f : Work → Work) : (m.modWork i f).disabled = m.disabled := rfl
@[simp] theorem modWork_badLines (m : Mod) (i : Nat) (f : Work → Work) : (m.modWork i f).badLines = m.badLines := rfl
@[simp] theorem modWork_tables (m : Mod) (i : Nat) (f : Work → Work) : (m.modWork i f).tables = m.tables := rfl
@[simp] theorem modWork_col (m : Mod) (i : Nat) (f : Work → Work) : (m.modWork i f).col = m.col := rfl
@[simp] theorem modWork_ing (m : Mod) (i : Nat) (f : Work → Work) : (m.modWork i f).ing = m.ing := rfl
@[simp] theorem modWork_fab (m : Mod) (i : Nat) (f : Work → Work) : (m.modWork i f).fab = m.fab := rfl
@[simp] theorem modWork_pwr (m : Mod) (i : Nat) (f : Work → Work) : (m.modWork i f).pwr = m.pwr := rfl
@[simp] theorem modWork_cast (m : Mod) (i : Nat) (f : Work → Work) : (m.modWork i f).cast = m.cast := rfl

/-! ### `complete` -/

@[simp] theorem complete_regs (m : Mod) (a b c d e f : Nat) : (m.complete a b c d e f).regs = m.regs := rfl
@[simp] theorem complete_latch (m : Mod) (a b c d e f : Nat) : (m.complete a b c d e f).latch = m.latch := rfl
@[simp] theorem complete_taken (m : Mod) (a b c d e f : Nat) : (m.complete a b c d e f).taken = m.taken := rfl
@[simp] theorem complete_heldWrites (m : Mod) (a b c d e f : Nat) : (m.complete a b c d e f).heldWrites = m.heldWrites := rfl
@[simp] theorem complete_free (m : Mod) (a b c d e f : Nat) : (m.complete a b c d e f).free = m.free := rfl
@[simp] theorem complete_out (m : Mod) (a b c d e f : Nat) : (m.complete a b c d e f).out = m.out := rfl
@[simp] theorem complete_events (m : Mod) (a b c d e f : Nat) : (m.complete a b c d e f).events = m.events := rfl
@[simp] theorem complete_jnlPend (m : Mod) (a b c d e f : Nat) : (m.complete a b c d e f).jnlPend = m.jnlPend := rfl
@[simp] theorem complete_heat (m : Mod) (a b c d e f : Nat) : (m.complete a b c d e f).heat = m.heat := rfl
@[simp] theorem complete_clusters (m : Mod) (a b c d e f : Nat) : (m.complete a b c d e f).clusters = m.clusters := rfl
@[simp] theorem complete_cores (m : Mod) (a b c d e f : Nat) : (m.complete a b c d e f).cores = m.cores := rfl
@[simp] theorem complete_dieLost (m : Mod) (a b c d e f : Nat) : (m.complete a b c d e f).dieLost = m.dieLost := rfl
@[simp] theorem complete_msgs (m : Mod) (a b c d e f : Nat) : (m.complete a b c d e f).msgs = m.msgs := rfl
@[simp] theorem complete_works (m : Mod) (a b c d e f : Nat) : (m.complete a b c d e f).works = m.works := rfl
@[simp] theorem complete_nextId (m : Mod) (a b c d e f : Nat) : (m.complete a b c d e f).nextId = m.nextId := rfl
@[simp] theorem complete_nv (m : Mod) (a b c d e f : Nat) : (m.complete a b c d e f).nv = m.nv := rfl
@[simp] theorem complete_boot (m : Mod) (a b c d e f : Nat) : (m.complete a b c d e f).boot = m.boot := rfl
@[simp] theorem complete_sec (m : Mod) (a b c d e f : Nat) : (m.complete a b c d e f).sec = m.sec := rfl
@[simp] theorem complete_staging (m : Mod) (a b c d e f : Nat) : (m.complete a b c d e f).staging = m.staging := rfl
@[simp] theorem complete_maint (m : Mod) (a b c d e f : Nat) : (m.complete a b c d e f).maint = m.maint := rfl
@[simp] theorem complete_banks (m : Mod) (a b c d e f : Nat) : (m.complete a b c d e f).banks = m.banks := rfl
@[simp] theorem complete_arrays (m : Mod) (a b c d e f : Nat) : (m.complete a b c d e f).arrays = m.arrays := rfl
@[simp] theorem complete_num (m : Mod) (a b c d e f : Nat) : (m.complete a b c d e f).num = m.num := rfl
@[simp] theorem complete_disabled (m : Mod) (a b c d e f : Nat) : (m.complete a b c d e f).disabled = m.disabled := rfl
@[simp] theorem complete_badLines (m : Mod) (a b c d e f : Nat) : (m.complete a b c d e f).badLines = m.badLines := rfl
@[simp] theorem complete_tables (m : Mod) (a b c d e f : Nat) : (m.complete a b c d e f).tables = m.tables := rfl
@[simp] theorem complete_col (m : Mod) (a b c d e f : Nat) : (m.complete a b c d e f).col = m.col := rfl
@[simp] theorem complete_ing (m : Mod) (a b c d e f : Nat) : (m.complete a b c d e f).ing = m.ing := rfl
@[simp] theorem complete_fab (m : Mod) (a b c d e f : Nat) : (m.complete a b c d e f).fab = m.fab := rfl
@[simp] theorem complete_pwr (m : Mod) (a b c d e f : Nat) : (m.complete a b c d e f).pwr = m.pwr := rfl
@[simp] theorem complete_cast (m : Mod) (a b c d e f : Nat) : (m.complete a b c d e f).cast = m.cast := rfl

/-! ### `holdWrite` -/

@[simp] theorem holdWrite_regs (m : Mod) (a : Nat) (b c : Word) : (m.holdWrite a b c).regs = m.regs := rfl
@[simp] theorem holdWrite_latch (m : Mod) (a : Nat) (b c : Word) : (m.holdWrite a b c).latch = m.latch := rfl
@[simp] theorem holdWrite_taken (m : Mod) (a : Nat) (b c : Word) : (m.holdWrite a b c).taken = m.taken := rfl
@[simp] theorem holdWrite_free (m : Mod) (a : Nat) (b c : Word) : (m.holdWrite a b c).free = m.free := rfl
@[simp] theorem holdWrite_out (m : Mod) (a : Nat) (b c : Word) : (m.holdWrite a b c).out = m.out := rfl
@[simp] theorem holdWrite_events (m : Mod) (a : Nat) (b c : Word) : (m.holdWrite a b c).events = m.events := rfl
@[simp] theorem holdWrite_comps (m : Mod) (a : Nat) (b c : Word) : (m.holdWrite a b c).comps = m.comps := rfl
@[simp] theorem holdWrite_jnlPend (m : Mod) (a : Nat) (b c : Word) : (m.holdWrite a b c).jnlPend = m.jnlPend := rfl
@[simp] theorem holdWrite_heat (m : Mod) (a : Nat) (b c : Word) : (m.holdWrite a b c).heat = m.heat := rfl
@[simp] theorem holdWrite_clusters (m : Mod) (a : Nat) (b c : Word) : (m.holdWrite a b c).clusters = m.clusters := rfl
@[simp] theorem holdWrite_cores (m : Mod) (a : Nat) (b c : Word) : (m.holdWrite a b c).cores = m.cores := rfl
@[simp] theorem holdWrite_dieLost (m : Mod) (a : Nat) (b c : Word) : (m.holdWrite a b c).dieLost = m.dieLost := rfl
@[simp] theorem holdWrite_msgs (m : Mod) (a : Nat) (b c : Word) : (m.holdWrite a b c).msgs = m.msgs := rfl
@[simp] theorem holdWrite_works (m : Mod) (a : Nat) (b c : Word) : (m.holdWrite a b c).works = m.works := rfl
@[simp] theorem holdWrite_nextId (m : Mod) (a : Nat) (b c : Word) : (m.holdWrite a b c).nextId = m.nextId := rfl
@[simp] theorem holdWrite_nv (m : Mod) (a : Nat) (b c : Word) : (m.holdWrite a b c).nv = m.nv := rfl
@[simp] theorem holdWrite_boot (m : Mod) (a : Nat) (b c : Word) : (m.holdWrite a b c).boot = m.boot := rfl
@[simp] theorem holdWrite_sec (m : Mod) (a : Nat) (b c : Word) : (m.holdWrite a b c).sec = m.sec := rfl
@[simp] theorem holdWrite_staging (m : Mod) (a : Nat) (b c : Word) : (m.holdWrite a b c).staging = m.staging := rfl
@[simp] theorem holdWrite_maint (m : Mod) (a : Nat) (b c : Word) : (m.holdWrite a b c).maint = m.maint := rfl
@[simp] theorem holdWrite_hub (m : Mod) (a : Nat) (b c : Word) : (m.holdWrite a b c).hub = m.hub := rfl
@[simp] theorem holdWrite_banks (m : Mod) (a : Nat) (b c : Word) : (m.holdWrite a b c).banks = m.banks := rfl
@[simp] theorem holdWrite_arrays (m : Mod) (a : Nat) (b c : Word) : (m.holdWrite a b c).arrays = m.arrays := rfl
@[simp] theorem holdWrite_num (m : Mod) (a : Nat) (b c : Word) : (m.holdWrite a b c).num = m.num := rfl
@[simp] theorem holdWrite_disabled (m : Mod) (a : Nat) (b c : Word) : (m.holdWrite a b c).disabled = m.disabled := rfl
@[simp] theorem holdWrite_badLines (m : Mod) (a : Nat) (b c : Word) : (m.holdWrite a b c).badLines = m.badLines := rfl
@[simp] theorem holdWrite_tables (m : Mod) (a : Nat) (b c : Word) : (m.holdWrite a b c).tables = m.tables := rfl
@[simp] theorem holdWrite_col (m : Mod) (a : Nat) (b c : Word) : (m.holdWrite a b c).col = m.col := rfl
@[simp] theorem holdWrite_ing (m : Mod) (a : Nat) (b c : Word) : (m.holdWrite a b c).ing = m.ing := rfl
@[simp] theorem holdWrite_fab (m : Mod) (a : Nat) (b c : Word) : (m.holdWrite a b c).fab = m.fab := rfl
@[simp] theorem holdWrite_pwr (m : Mod) (a : Nat) (b c : Word) : (m.holdWrite a b c).pwr = m.pwr := rfl
@[simp] theorem holdWrite_cast (m : Mod) (a : Nat) (b c : Word) : (m.holdWrite a b c).cast = m.cast := rfl

/-! ### `post` -/

@[simp] theorem post_regs (m : Mod) (a b c d : Nat) (e : List Byte) : (m.post a b c d e).regs = m.regs := by unfold post; split <;> rfl
@[simp] theorem post_latch (m : Mod) (a b c d : Nat) (e : List Byte) : (m.post a b c d e).latch = m.latch := by unfold post; split <;> rfl
@[simp] theorem post_taken (m : Mod) (a b c d : Nat) (e : List Byte) : (m.post a b c d e).taken = m.taken := by unfold post; split <;> rfl
@[simp] theorem post_heldWrites (m : Mod) (a b c d : Nat) (e : List Byte) : (m.post a b c d e).heldWrites = m.heldWrites := by unfold post; split <;> rfl
@[simp] theorem post_free (m : Mod) (a b c d : Nat) (e : List Byte) : (m.post a b c d e).free = m.free := by unfold post; split <;> rfl
@[simp] theorem post_out (m : Mod) (a b c d : Nat) (e : List Byte) : (m.post a b c d e).out = m.out := by unfold post; split <;> rfl
@[simp] theorem post_comps (m : Mod) (a b c d : Nat) (e : List Byte) : (m.post a b c d e).comps = m.comps := by unfold post; split <;> rfl
@[simp] theorem post_jnlPend (m : Mod) (a b c d : Nat) (e : List Byte) : (m.post a b c d e).jnlPend = m.jnlPend := by unfold post; split <;> rfl
@[simp] theorem post_heat (m : Mod) (a b c d : Nat) (e : List Byte) : (m.post a b c d e).heat = m.heat := by unfold post; split <;> rfl
@[simp] theorem post_clusters (m : Mod) (a b c d : Nat) (e : List Byte) : (m.post a b c d e).clusters = m.clusters := by unfold post; split <;> rfl
@[simp] theorem post_cores (m : Mod) (a b c d : Nat) (e : List Byte) : (m.post a b c d e).cores = m.cores := by unfold post; split <;> rfl
@[simp] theorem post_dieLost (m : Mod) (a b c d : Nat) (e : List Byte) : (m.post a b c d e).dieLost = m.dieLost := by unfold post; split <;> rfl
@[simp] theorem post_msgs (m : Mod) (a b c d : Nat) (e : List Byte) : (m.post a b c d e).msgs = m.msgs := by unfold post; split <;> rfl
@[simp] theorem post_works (m : Mod) (a b c d : Nat) (e : List Byte) : (m.post a b c d e).works = m.works := by unfold post; split <;> rfl
@[simp] theorem post_nextId (m : Mod) (a b c d : Nat) (e : List Byte) : (m.post a b c d e).nextId = m.nextId := by unfold post; split <;> rfl
@[simp] theorem post_nv (m : Mod) (a b c d : Nat) (e : List Byte) : (m.post a b c d e).nv = m.nv := by unfold post; split <;> rfl
@[simp] theorem post_boot (m : Mod) (a b c d : Nat) (e : List Byte) : (m.post a b c d e).boot = m.boot := by unfold post; split <;> rfl
@[simp] theorem post_sec (m : Mod) (a b c d : Nat) (e : List Byte) : (m.post a b c d e).sec = m.sec := by unfold post; split <;> rfl
@[simp] theorem post_staging (m : Mod) (a b c d : Nat) (e : List Byte) : (m.post a b c d e).staging = m.staging := by unfold post; split <;> rfl
@[simp] theorem post_maint (m : Mod) (a b c d : Nat) (e : List Byte) : (m.post a b c d e).maint = m.maint := by unfold post; split <;> rfl
@[simp] theorem post_hub (m : Mod) (a b c d : Nat) (e : List Byte) : (m.post a b c d e).hub = m.hub := by unfold post; split <;> rfl
@[simp] theorem post_banks (m : Mod) (a b c d : Nat) (e : List Byte) : (m.post a b c d e).banks = m.banks := by unfold post; split <;> rfl
@[simp] theorem post_arrays (m : Mod) (a b c d : Nat) (e : List Byte) : (m.post a b c d e).arrays = m.arrays := by unfold post; split <;> rfl
@[simp] theorem post_num (m : Mod) (a b c d : Nat) (e : List Byte) : (m.post a b c d e).num = m.num := by unfold post; split <;> rfl
@[simp] theorem post_disabled (m : Mod) (a b c d : Nat) (e : List Byte) : (m.post a b c d e).disabled = m.disabled := by unfold post; split <;> rfl
@[simp] theorem post_badLines (m : Mod) (a b c d : Nat) (e : List Byte) : (m.post a b c d e).badLines = m.badLines := by unfold post; split <;> rfl
@[simp] theorem post_tables (m : Mod) (a b c d : Nat) (e : List Byte) : (m.post a b c d e).tables = m.tables := by unfold post; split <;> rfl
@[simp] theorem post_col (m : Mod) (a b c d : Nat) (e : List Byte) : (m.post a b c d e).col = m.col := by unfold post; split <;> rfl
@[simp] theorem post_ing (m : Mod) (a b c d : Nat) (e : List Byte) : (m.post a b c d e).ing = m.ing := by unfold post; split <;> rfl
@[simp] theorem post_fab (m : Mod) (a b c d : Nat) (e : List Byte) : (m.post a b c d e).fab = m.fab := by unfold post; split <;> rfl
@[simp] theorem post_pwr (m : Mod) (a b c d : Nat) (e : List Byte) : (m.post a b c d e).pwr = m.pwr := by unfold post; split <;> rfl
@[simp] theorem post_cast (m : Mod) (a b c d : Nat) (e : List Byte) : (m.post a b c d e).cast = m.cast := by unfold post; split <;> rfl

/-! ### `postModule` -/

@[simp] theorem postModule_regs (m : Mod) (a : Nat) (e : List Byte) : (m.postModule a e).regs = m.regs := by simp [postModule]
@[simp] theorem postModule_latch (m : Mod) (a : Nat) (e : List Byte) : (m.postModule a e).latch = m.latch := by simp [postModule]
@[simp] theorem postModule_taken (m : Mod) (a : Nat) (e : List Byte) : (m.postModule a e).taken = m.taken := by simp [postModule]
@[simp] theorem postModule_heldWrites (m : Mod) (a : Nat) (e : List Byte) : (m.postModule a e).heldWrites = m.heldWrites := by simp [postModule]
@[simp] theorem postModule_free (m : Mod) (a : Nat) (e : List Byte) : (m.postModule a e).free = m.free := by simp [postModule]
@[simp] theorem postModule_out (m : Mod) (a : Nat) (e : List Byte) : (m.postModule a e).out = m.out := by simp [postModule]
@[simp] theorem postModule_comps (m : Mod) (a : Nat) (e : List Byte) : (m.postModule a e).comps = m.comps := by simp [postModule]
@[simp] theorem postModule_jnlPend (m : Mod) (a : Nat) (e : List Byte) : (m.postModule a e).jnlPend = m.jnlPend := by simp [postModule]
@[simp] theorem postModule_heat (m : Mod) (a : Nat) (e : List Byte) : (m.postModule a e).heat = m.heat := by simp [postModule]
@[simp] theorem postModule_clusters (m : Mod) (a : Nat) (e : List Byte) : (m.postModule a e).clusters = m.clusters := by simp [postModule]
@[simp] theorem postModule_cores (m : Mod) (a : Nat) (e : List Byte) : (m.postModule a e).cores = m.cores := by simp [postModule]
@[simp] theorem postModule_dieLost (m : Mod) (a : Nat) (e : List Byte) : (m.postModule a e).dieLost = m.dieLost := by simp [postModule]
@[simp] theorem postModule_msgs (m : Mod) (a : Nat) (e : List Byte) : (m.postModule a e).msgs = m.msgs := by simp [postModule]
@[simp] theorem postModule_works (m : Mod) (a : Nat) (e : List Byte) : (m.postModule a e).works = m.works := by simp [postModule]
@[simp] theorem postModule_nextId (m : Mod) (a : Nat) (e : List Byte) : (m.postModule a e).nextId = m.nextId := by simp [postModule]
@[simp] theorem postModule_nv (m : Mod) (a : Nat) (e : List Byte) : (m.postModule a e).nv = m.nv := by simp [postModule]
@[simp] theorem postModule_boot (m : Mod) (a : Nat) (e : List Byte) : (m.postModule a e).boot = m.boot := by simp [postModule]
@[simp] theorem postModule_sec (m : Mod) (a : Nat) (e : List Byte) : (m.postModule a e).sec = m.sec := by simp [postModule]
@[simp] theorem postModule_staging (m : Mod) (a : Nat) (e : List Byte) : (m.postModule a e).staging = m.staging := by simp [postModule]
@[simp] theorem postModule_maint (m : Mod) (a : Nat) (e : List Byte) : (m.postModule a e).maint = m.maint := by simp [postModule]
@[simp] theorem postModule_hub (m : Mod) (a : Nat) (e : List Byte) : (m.postModule a e).hub = m.hub := by simp [postModule]
@[simp] theorem postModule_banks (m : Mod) (a : Nat) (e : List Byte) : (m.postModule a e).banks = m.banks := by simp [postModule]
@[simp] theorem postModule_arrays (m : Mod) (a : Nat) (e : List Byte) : (m.postModule a e).arrays = m.arrays := by simp [postModule]
@[simp] theorem postModule_num (m : Mod) (a : Nat) (e : List Byte) : (m.postModule a e).num = m.num := by simp [postModule]
@[simp] theorem postModule_disabled (m : Mod) (a : Nat) (e : List Byte) : (m.postModule a e).disabled = m.disabled := by simp [postModule]
@[simp] theorem postModule_badLines (m : Mod) (a : Nat) (e : List Byte) : (m.postModule a e).badLines = m.badLines := by simp [postModule]
@[simp] theorem postModule_tables (m : Mod) (a : Nat) (e : List Byte) : (m.postModule a e).tables = m.tables := by simp [postModule]
@[simp] theorem postModule_col (m : Mod) (a : Nat) (e : List Byte) : (m.postModule a e).col = m.col := by simp [postModule]
@[simp] theorem postModule_ing (m : Mod) (a : Nat) (e : List Byte) : (m.postModule a e).ing = m.ing := by simp [postModule]
@[simp] theorem postModule_fab (m : Mod) (a : Nat) (e : List Byte) : (m.postModule a e).fab = m.fab := by simp [postModule]
@[simp] theorem postModule_pwr (m : Mod) (a : Nat) (e : List Byte) : (m.postModule a e).pwr = m.pwr := by simp [postModule]
@[simp] theorem postModule_cast (m : Mod) (a : Nat) (e : List Byte) : (m.postModule a e).cast = m.cast := by simp [postModule]

/-! ### `postDie` -/

@[simp] theorem postDie_regs (m : Mod) (a b : Nat) (e : List Byte) : (m.postDie a b e).regs = m.regs := by simp [postDie]
@[simp] theorem postDie_latch (m : Mod) (a b : Nat) (e : List Byte) : (m.postDie a b e).latch = m.latch := by simp [postDie]
@[simp] theorem postDie_taken (m : Mod) (a b : Nat) (e : List Byte) : (m.postDie a b e).taken = m.taken := by simp [postDie]
@[simp] theorem postDie_heldWrites (m : Mod) (a b : Nat) (e : List Byte) : (m.postDie a b e).heldWrites = m.heldWrites := by simp [postDie]
@[simp] theorem postDie_free (m : Mod) (a b : Nat) (e : List Byte) : (m.postDie a b e).free = m.free := by simp [postDie]
@[simp] theorem postDie_out (m : Mod) (a b : Nat) (e : List Byte) : (m.postDie a b e).out = m.out := by simp [postDie]
@[simp] theorem postDie_comps (m : Mod) (a b : Nat) (e : List Byte) : (m.postDie a b e).comps = m.comps := by simp [postDie]
@[simp] theorem postDie_jnlPend (m : Mod) (a b : Nat) (e : List Byte) : (m.postDie a b e).jnlPend = m.jnlPend := by simp [postDie]
@[simp] theorem postDie_heat (m : Mod) (a b : Nat) (e : List Byte) : (m.postDie a b e).heat = m.heat := by simp [postDie]
@[simp] theorem postDie_clusters (m : Mod) (a b : Nat) (e : List Byte) : (m.postDie a b e).clusters = m.clusters := by simp [postDie]
@[simp] theorem postDie_cores (m : Mod) (a b : Nat) (e : List Byte) : (m.postDie a b e).cores = m.cores := by simp [postDie]
@[simp] theorem postDie_dieLost (m : Mod) (a b : Nat) (e : List Byte) : (m.postDie a b e).dieLost = m.dieLost := by simp [postDie]
@[simp] theorem postDie_msgs (m : Mod) (a b : Nat) (e : List Byte) : (m.postDie a b e).msgs = m.msgs := by simp [postDie]
@[simp] theorem postDie_works (m : Mod) (a b : Nat) (e : List Byte) : (m.postDie a b e).works = m.works := by simp [postDie]
@[simp] theorem postDie_nextId (m : Mod) (a b : Nat) (e : List Byte) : (m.postDie a b e).nextId = m.nextId := by simp [postDie]
@[simp] theorem postDie_nv (m : Mod) (a b : Nat) (e : List Byte) : (m.postDie a b e).nv = m.nv := by simp [postDie]
@[simp] theorem postDie_boot (m : Mod) (a b : Nat) (e : List Byte) : (m.postDie a b e).boot = m.boot := by simp [postDie]
@[simp] theorem postDie_sec (m : Mod) (a b : Nat) (e : List Byte) : (m.postDie a b e).sec = m.sec := by simp [postDie]
@[simp] theorem postDie_staging (m : Mod) (a b : Nat) (e : List Byte) : (m.postDie a b e).staging = m.staging := by simp [postDie]
@[simp] theorem postDie_maint (m : Mod) (a b : Nat) (e : List Byte) : (m.postDie a b e).maint = m.maint := by simp [postDie]
@[simp] theorem postDie_hub (m : Mod) (a b : Nat) (e : List Byte) : (m.postDie a b e).hub = m.hub := by simp [postDie]
@[simp] theorem postDie_banks (m : Mod) (a b : Nat) (e : List Byte) : (m.postDie a b e).banks = m.banks := by simp [postDie]
@[simp] theorem postDie_arrays (m : Mod) (a b : Nat) (e : List Byte) : (m.postDie a b e).arrays = m.arrays := by simp [postDie]
@[simp] theorem postDie_num (m : Mod) (a b : Nat) (e : List Byte) : (m.postDie a b e).num = m.num := by simp [postDie]
@[simp] theorem postDie_disabled (m : Mod) (a b : Nat) (e : List Byte) : (m.postDie a b e).disabled = m.disabled := by simp [postDie]
@[simp] theorem postDie_badLines (m : Mod) (a b : Nat) (e : List Byte) : (m.postDie a b e).badLines = m.badLines := by simp [postDie]
@[simp] theorem postDie_tables (m : Mod) (a b : Nat) (e : List Byte) : (m.postDie a b e).tables = m.tables := by simp [postDie]
@[simp] theorem postDie_col (m : Mod) (a b : Nat) (e : List Byte) : (m.postDie a b e).col = m.col := by simp [postDie]
@[simp] theorem postDie_ing (m : Mod) (a b : Nat) (e : List Byte) : (m.postDie a b e).ing = m.ing := by simp [postDie]
@[simp] theorem postDie_fab (m : Mod) (a b : Nat) (e : List Byte) : (m.postDie a b e).fab = m.fab := by simp [postDie]
@[simp] theorem postDie_pwr (m : Mod) (a b : Nat) (e : List Byte) : (m.postDie a b e).pwr = m.pwr := by simp [postDie]
@[simp] theorem postDie_cast (m : Mod) (a b : Nat) (e : List Byte) : (m.postDie a b e).cast = m.cast := by simp [postDie]

/-! ### `postCluster` -/

@[simp] theorem postCluster_regs (m : Mod) (a b : Nat) (e : List Byte) : (m.postCluster a b e).regs = m.regs := by simp [postCluster]
@[simp] theorem postCluster_latch (m : Mod) (a b : Nat) (e : List Byte) : (m.postCluster a b e).latch = m.latch := by simp [postCluster]
@[simp] theorem postCluster_taken (m : Mod) (a b : Nat) (e : List Byte) : (m.postCluster a b e).taken = m.taken := by simp [postCluster]
@[simp] theorem postCluster_heldWrites (m : Mod) (a b : Nat) (e : List Byte) : (m.postCluster a b e).heldWrites = m.heldWrites := by simp [postCluster]
@[simp] theorem postCluster_free (m : Mod) (a b : Nat) (e : List Byte) : (m.postCluster a b e).free = m.free := by simp [postCluster]
@[simp] theorem postCluster_out (m : Mod) (a b : Nat) (e : List Byte) : (m.postCluster a b e).out = m.out := by simp [postCluster]
@[simp] theorem postCluster_comps (m : Mod) (a b : Nat) (e : List Byte) : (m.postCluster a b e).comps = m.comps := by simp [postCluster]
@[simp] theorem postCluster_jnlPend (m : Mod) (a b : Nat) (e : List Byte) : (m.postCluster a b e).jnlPend = m.jnlPend := by simp [postCluster]
@[simp] theorem postCluster_heat (m : Mod) (a b : Nat) (e : List Byte) : (m.postCluster a b e).heat = m.heat := by simp [postCluster]
@[simp] theorem postCluster_clusters (m : Mod) (a b : Nat) (e : List Byte) : (m.postCluster a b e).clusters = m.clusters := by simp [postCluster]
@[simp] theorem postCluster_cores (m : Mod) (a b : Nat) (e : List Byte) : (m.postCluster a b e).cores = m.cores := by simp [postCluster]
@[simp] theorem postCluster_dieLost (m : Mod) (a b : Nat) (e : List Byte) : (m.postCluster a b e).dieLost = m.dieLost := by simp [postCluster]
@[simp] theorem postCluster_msgs (m : Mod) (a b : Nat) (e : List Byte) : (m.postCluster a b e).msgs = m.msgs := by simp [postCluster]
@[simp] theorem postCluster_works (m : Mod) (a b : Nat) (e : List Byte) : (m.postCluster a b e).works = m.works := by simp [postCluster]
@[simp] theorem postCluster_nextId (m : Mod) (a b : Nat) (e : List Byte) : (m.postCluster a b e).nextId = m.nextId := by simp [postCluster]
@[simp] theorem postCluster_nv (m : Mod) (a b : Nat) (e : List Byte) : (m.postCluster a b e).nv = m.nv := by simp [postCluster]
@[simp] theorem postCluster_boot (m : Mod) (a b : Nat) (e : List Byte) : (m.postCluster a b e).boot = m.boot := by simp [postCluster]
@[simp] theorem postCluster_sec (m : Mod) (a b : Nat) (e : List Byte) : (m.postCluster a b e).sec = m.sec := by simp [postCluster]
@[simp] theorem postCluster_staging (m : Mod) (a b : Nat) (e : List Byte) : (m.postCluster a b e).staging = m.staging := by simp [postCluster]
@[simp] theorem postCluster_maint (m : Mod) (a b : Nat) (e : List Byte) : (m.postCluster a b e).maint = m.maint := by simp [postCluster]
@[simp] theorem postCluster_hub (m : Mod) (a b : Nat) (e : List Byte) : (m.postCluster a b e).hub = m.hub := by simp [postCluster]
@[simp] theorem postCluster_banks (m : Mod) (a b : Nat) (e : List Byte) : (m.postCluster a b e).banks = m.banks := by simp [postCluster]
@[simp] theorem postCluster_arrays (m : Mod) (a b : Nat) (e : List Byte) : (m.postCluster a b e).arrays = m.arrays := by simp [postCluster]
@[simp] theorem postCluster_num (m : Mod) (a b : Nat) (e : List Byte) : (m.postCluster a b e).num = m.num := by simp [postCluster]
@[simp] theorem postCluster_disabled (m : Mod) (a b : Nat) (e : List Byte) : (m.postCluster a b e).disabled = m.disabled := by simp [postCluster]
@[simp] theorem postCluster_badLines (m : Mod) (a b : Nat) (e : List Byte) : (m.postCluster a b e).badLines = m.badLines := by simp [postCluster]
@[simp] theorem postCluster_tables (m : Mod) (a b : Nat) (e : List Byte) : (m.postCluster a b e).tables = m.tables := by simp [postCluster]
@[simp] theorem postCluster_col (m : Mod) (a b : Nat) (e : List Byte) : (m.postCluster a b e).col = m.col := by simp [postCluster]
@[simp] theorem postCluster_ing (m : Mod) (a b : Nat) (e : List Byte) : (m.postCluster a b e).ing = m.ing := by simp [postCluster]
@[simp] theorem postCluster_fab (m : Mod) (a b : Nat) (e : List Byte) : (m.postCluster a b e).fab = m.fab := by simp [postCluster]
@[simp] theorem postCluster_pwr (m : Mod) (a b : Nat) (e : List Byte) : (m.postCluster a b e).pwr = m.pwr := by simp [postCluster]
@[simp] theorem postCluster_cast (m : Mod) (a b : Nat) (e : List Byte) : (m.postCluster a b e).cast = m.cast := by simp [postCluster]

/-! ### `postCore` -/

@[simp] theorem postCore_regs (m : Mod) (a b : Nat) (e : List Byte) : (m.postCore a b e).regs = m.regs := by simp [postCore]
@[simp] theorem postCore_latch (m : Mod) (a b : Nat) (e : List Byte) : (m.postCore a b e).latch = m.latch := by simp [postCore]
@[simp] theorem postCore_taken (m : Mod) (a b : Nat) (e : List Byte) : (m.postCore a b e).taken = m.taken := by simp [postCore]
@[simp] theorem postCore_heldWrites (m : Mod) (a b : Nat) (e : List Byte) : (m.postCore a b e).heldWrites = m.heldWrites := by simp [postCore]
@[simp] theorem postCore_free (m : Mod) (a b : Nat) (e : List Byte) : (m.postCore a b e).free = m.free := by simp [postCore]
@[simp] theorem postCore_out (m : Mod) (a b : Nat) (e : List Byte) : (m.postCore a b e).out = m.out := by simp [postCore]
@[simp] theorem postCore_comps (m : Mod) (a b : Nat) (e : List Byte) : (m.postCore a b e).comps = m.comps := by simp [postCore]
@[simp] theorem postCore_jnlPend (m : Mod) (a b : Nat) (e : List Byte) : (m.postCore a b e).jnlPend = m.jnlPend := by simp [postCore]
@[simp] theorem postCore_heat (m : Mod) (a b : Nat) (e : List Byte) : (m.postCore a b e).heat = m.heat := by simp [postCore]
@[simp] theorem postCore_clusters (m : Mod) (a b : Nat) (e : List Byte) : (m.postCore a b e).clusters = m.clusters := by simp [postCore]
@[simp] theorem postCore_cores (m : Mod) (a b : Nat) (e : List Byte) : (m.postCore a b e).cores = m.cores := by simp [postCore]
@[simp] theorem postCore_dieLost (m : Mod) (a b : Nat) (e : List Byte) : (m.postCore a b e).dieLost = m.dieLost := by simp [postCore]
@[simp] theorem postCore_msgs (m : Mod) (a b : Nat) (e : List Byte) : (m.postCore a b e).msgs = m.msgs := by simp [postCore]
@[simp] theorem postCore_works (m : Mod) (a b : Nat) (e : List Byte) : (m.postCore a b e).works = m.works := by simp [postCore]
@[simp] theorem postCore_nextId (m : Mod) (a b : Nat) (e : List Byte) : (m.postCore a b e).nextId = m.nextId := by simp [postCore]
@[simp] theorem postCore_nv (m : Mod) (a b : Nat) (e : List Byte) : (m.postCore a b e).nv = m.nv := by simp [postCore]
@[simp] theorem postCore_boot (m : Mod) (a b : Nat) (e : List Byte) : (m.postCore a b e).boot = m.boot := by simp [postCore]
@[simp] theorem postCore_sec (m : Mod) (a b : Nat) (e : List Byte) : (m.postCore a b e).sec = m.sec := by simp [postCore]
@[simp] theorem postCore_staging (m : Mod) (a b : Nat) (e : List Byte) : (m.postCore a b e).staging = m.staging := by simp [postCore]
@[simp] theorem postCore_maint (m : Mod) (a b : Nat) (e : List Byte) : (m.postCore a b e).maint = m.maint := by simp [postCore]
@[simp] theorem postCore_hub (m : Mod) (a b : Nat) (e : List Byte) : (m.postCore a b e).hub = m.hub := by simp [postCore]
@[simp] theorem postCore_banks (m : Mod) (a b : Nat) (e : List Byte) : (m.postCore a b e).banks = m.banks := by simp [postCore]
@[simp] theorem postCore_arrays (m : Mod) (a b : Nat) (e : List Byte) : (m.postCore a b e).arrays = m.arrays := by simp [postCore]
@[simp] theorem postCore_num (m : Mod) (a b : Nat) (e : List Byte) : (m.postCore a b e).num = m.num := by simp [postCore]
@[simp] theorem postCore_disabled (m : Mod) (a b : Nat) (e : List Byte) : (m.postCore a b e).disabled = m.disabled := by simp [postCore]
@[simp] theorem postCore_badLines (m : Mod) (a b : Nat) (e : List Byte) : (m.postCore a b e).badLines = m.badLines := by simp [postCore]
@[simp] theorem postCore_tables (m : Mod) (a b : Nat) (e : List Byte) : (m.postCore a b e).tables = m.tables := by simp [postCore]
@[simp] theorem postCore_col (m : Mod) (a b : Nat) (e : List Byte) : (m.postCore a b e).col = m.col := by simp [postCore]
@[simp] theorem postCore_ing (m : Mod) (a b : Nat) (e : List Byte) : (m.postCore a b e).ing = m.ing := by simp [postCore]
@[simp] theorem postCore_fab (m : Mod) (a b : Nat) (e : List Byte) : (m.postCore a b e).fab = m.fab := by simp [postCore]
@[simp] theorem postCore_pwr (m : Mod) (a b : Nat) (e : List Byte) : (m.postCore a b e).pwr = m.pwr := by simp [postCore]
@[simp] theorem postCore_cast (m : Mod) (a b : Nat) (e : List Byte) : (m.postCore a b e).cast = m.cast := by simp [postCore]

end Mod

end Sys2Proof.Machine
end

