-- ==== Sys2Proof/Laws/Regs.lean ====
section
/-!
SUPPORT. Reading a register or a field after an update of the module: a register written reads as written and no other
register changes; a field put reads as put and no field beside it changes.
-/

namespace Sys2Proof.Machine

open Sys2Proof

/-! ### Bits of a number -/

theorem insBits_low (old hi lo v : Nat) (h : lo ≤ hi + 1) :
    insBits old hi lo v = (old / 2 ^ (hi + 1) * 2 ^ (hi + 1 - lo) + v % 2 ^ (hi + 1 - lo)) * 2 ^ lo + old % 2 ^ lo := by
  unfold insBits
  have e : 2 ^ (hi + 1) = 2 ^ (hi + 1 - lo) * 2 ^ lo := by rw [← Nat.pow_add]; congr 1; omega
  rw [Nat.add_mul, Nat.mul_assoc, ← e]

/-- The bits put in are read back. -/
theorem bitsOf_insBits_same (old v : Nat) {hi lo : Nat} (h : lo ≤ hi + 1) :
    bitsOf (insBits old hi lo v) hi lo = v % 2 ^ (hi + 1 - lo) := by
  rw [insBits_low _ _ _ _ h]
  unfold bitsOf
  have h1 : ((old / 2 ^ (hi + 1) * 2 ^ (hi + 1 - lo) + v % 2 ^ (hi + 1 - lo)) * 2 ^ lo + old % 2 ^ lo) / 2 ^ lo =
      old / 2 ^ (hi + 1) * 2 ^ (hi + 1 - lo) + v % 2 ^ (hi + 1 - lo) := by
    rw [Nat.mul_comm, Nat.mul_add_div (Nat.two_pow_pos lo), Nat.div_eq_of_lt (Nat.mod_lt _ (Nat.two_pow_pos lo))]
    rfl
  rw [h1, Nat.mul_comm, Nat.mul_add_mod, Nat.mod_mod]

/-- Putting bits in keeps every bit outside them. -/
theorem insBits_testBit (old v : Nat) {hi lo i : Nat} (h : lo ≤ hi + 1) :
    (insBits old hi lo v).testBit i =
      if lo ≤ i ∧ i ≤ hi then v.testBit (i - lo) else old.testBit i := by
  have hlow : old % 2 ^ lo < 2 ^ lo := Nat.mod_lt _ (Nat.two_pow_pos lo)
  have hmid : v % 2 ^ (hi + 1 - lo) < 2 ^ (hi + 1 - lo) := Nat.mod_lt _ (Nat.two_pow_pos _)
  rw [insBits_low _ _ _ _ h, Nat.mul_comm _ (2 ^ lo), Nat.testBit_two_pow_mul_add _ hlow]
  rw [Nat.mul_comm _ (2 ^ (hi + 1 - lo)), Nat.testBit_two_pow_mul_add _ hmid]
  by_cases h1 : i < lo
  · have h3 : ¬ (lo ≤ i ∧ i ≤ hi) := by omega
    simp [h1, h3, Nat.testBit_mod_two_pow]
  · by_cases h2 : i - lo < hi + 1 - lo
    · have h3 : lo ≤ i ∧ i ≤ hi := by omega
      simp [h1, h2, h3, Nat.testBit_mod_two_pow]
    · have h3 : ¬ (lo ≤ i ∧ i ≤ hi) := by omega
      simp only [h1, h2, h3, if_false]
      rw [Nat.testBit_div_two_pow]
      congr 1
      omega

theorem bitsOf_testBit (n i : Nat) {hi lo : Nat} :
    (bitsOf n hi lo).testBit i = (decide (i < hi + 1 - lo) && n.testBit (i + lo)) := by
  unfold bitsOf
  rw [Nat.testBit_mod_two_pow, Nat.testBit_div_two_pow]

/-- Bits outside those put in read as before. -/
theorem bitsOf_insBits_apart (old v : Nat) {hi lo hi' lo' : Nat} (h : lo ≤ hi + 1)
    (ap : hi < lo' ∨ hi' < lo) : bitsOf (insBits old hi lo v) hi' lo' = bitsOf old hi' lo' := by
  apply Nat.eq_of_testBit_eq
  intro i
  rw [bitsOf_testBit, bitsOf_testBit]
  by_cases hi1 : i < hi' + 1 - lo'
  · have : ¬ (lo ≤ i + lo' ∧ i + lo' ≤ hi) := by omega
    simp [hi1, insBits_testBit _ _ h, this]
  · simp [hi1]

theorem insBits_lt (old v : Nat) {hi lo : Nat} (h : lo ≤ hi + 1) (hw : hi < 32) (ho : old < 2 ^ 32) :
    insBits old hi lo v < 2 ^ 32 := by
  apply Nat.lt_pow_two_of_testBit
  intro i hi'
  rw [insBits_testBit _ _ h]
  have : ¬ (lo ≤ i ∧ i ≤ hi) := by omega
  simp only [this, if_false]
  exact Nat.testBit_lt_two_pow (Nat.lt_of_lt_of_le ho (Nat.pow_le_pow_right (by omega) hi'))

namespace Mod

/-! ### Registers -/

@[simp] theorem rd_wr_same (m : Mod) (a : Nat) (v : Word) : (m.wr a v).rd a = v := by simp [rd, wr]

theorem rd_wr_ne (m : Mod) {a b : Nat} (v : Word) (h : b ≠ a) : (m.wr a v).rd b = m.rd b := by
  simp [rd, wr, tabGet_put_ne _ _ _ h]

theorem rd_wr (m : Mod) (a b : Nat) (v : Word) : (m.wr a v).rd b = if b = a then v else m.rd b := by
  simp [rd, wr, tabGet_put]

theorem rdN_lt (m : Mod) (a : Nat) : m.rdN a < 2 ^ 32 := (m.rd a).isLt

theorem rdN_wrN (m : Mod) (a b v : Nat) : (m.wrN a v).rdN b = if b = a then v % 2 ^ 32 else m.rdN b := by
  unfold rdN wrN
  rw [rd_wr]
  split <;> simp [BitVec.toNat_ofNat]

theorem rdN_wrN_ne (m : Mod) {a b : Nat} (v : Nat) (h : b ≠ a) : (m.wrN a v).rdN b = m.rdN b := by
  simp [rdN_wrN, h]

theorem rd_wrN_ne (m : Mod) {a b : Nat} (v : Nat) (h : b ≠ a) : (m.wrN a v).rd b = m.rd b := by
  simp [wrN, rd_wr_ne _ _ h]

/-! ### Fields -/

/-- A field put reads as put. -/
theorem fget_fset_same (m : Mod) (f : Field) (v : Nat) (h : f.lo ≤ f.hi) (hw : f.hi < 32) :
    (m.fset f v).fget f = v % 2 ^ (f.hi + 1 - f.lo) := by
  unfold fget fset
  rw [rdN_wrN, if_pos rfl, Nat.mod_eq_of_lt (insBits_lt _ _ (by omega) hw (rdN_lt _ _)),
    bitsOf_insBits_same _ _ (by omega)]

/-- A field put leaves a field of another register, or apart from it in the same register, as it was. -/
theorem fget_fset_apart (m : Mod) (f g : Field) (v : Nat) (h : f.lo ≤ f.hi) (hw : f.hi < 32)
    (ap : g.reg ≠ f.reg ∨ f.hi < g.lo ∨ g.hi < f.lo) : (m.fset f v).fget g = m.fget g := by
  unfold fget fset
  rw [rdN_wrN]
  by_cases e : g.reg = f.reg
  · rw [if_pos e, Nat.mod_eq_of_lt (insBits_lt _ _ (by omega) hw (rdN_lt _ _)),
      bitsOf_insBits_apart _ _ (by omega) (by rcases ap with ap | ap; exact absurd e ap; exact ap), e]
  · rw [if_neg e]

theorem fget_fset_reg (m : Mod) (f g : Field) (v : Nat) (ap : g.reg ≠ f.reg) : (m.fset f v).fget g = m.fget g := by
  unfold fget fset
  rw [rdN_wrN_ne _ _ ap]

theorem rd_fset_ne (m : Mod) (f : Field) (v : Nat) {a : Nat} (h : a ≠ f.reg) : (m.fset f v).rd a = m.rd a := by
  simp [fset, rd_wrN_ne _ _ h]

theorem rd_fput_ne (m : Mod) (f : Field) (b : Bool) {a : Nat} (h : a ≠ f.reg) : (m.fput f b).rd a = m.rd a := by
  simp [fput, rd_fset_ne _ _ _ h]

/-- A flag put reads as put. -/
theorem flag_fput_same (m : Mod) (f : Field) (b : Bool) (h : f.hi = f.lo) (hw : f.hi < 32) :
    (m.fput f b).flag f = b := by
  unfold flag fput
  rw [fget_fset_same _ _ _ (by omega) hw, h]
  cases b <;> simp

/-- A flag put leaves every field apart from it as it was. -/
theorem fget_fput_apart (m : Mod) (f g : Field) (b : Bool) (h : f.lo ≤ f.hi) (hw : f.hi < 32)
    (ap : g.reg ≠ f.reg ∨ f.hi < g.lo ∨ g.hi < f.lo) : (m.fput f b).fget g = m.fget g :=
  fget_fset_apart m f g _ h hw ap

theorem flag_fput_apart (m : Mod) (f g : Field) (b : Bool) (h : f.lo ≤ f.hi) (hw : f.hi < 32)
    (ap : g.reg ≠ f.reg ∨ f.hi < g.lo ∨ g.hi < f.lo) : (m.fput f b).flag g = m.flag g := by
  unfold flag
  rw [fget_fput_apart m f g b h hw ap]

/-- A 64-bit value put into a _LO and a _HI register reads as put. -/
theorem rd64_wr64 (m : Mod) (lo v : Nat) (h : v < 2 ^ 64) : (m.wr64 lo v).rd64 lo = v := by
  have h1 : v / 2 ^ 32 < 2 ^ 32 := by omega
  unfold rd64 wr64
  simp only [rdN_wrN, if_true]
  have h2 : ¬ lo = lo + 4 := by omega
  simp only [h2, if_false]
  omega

@[simp] theorem base64_setBase64_same (m : Mod) (a v : Nat) : (m.setBase64 a v).base64 a = v := by
  simp [base64, setBase64]

theorem base64_setBase64_ne (m : Mod) {a b : Nat} (v : Nat) (h : b ≠ a) : (m.setBase64 a v).base64 b = m.base64 b := by
  simp [base64, setBase64, tabGet_put_ne _ _ _ h]

/-! ### Units -/

@[simp] theorem coreSt_setCore_same (m : Mod) (n : Nat) (c : CoreSt) : (m.setCore n c).coreSt n = c := by
  simp [coreSt, setCore]

theorem coreSt_setCore_ne (m : Mod) {n k : Nat} (c : CoreSt) (h : k ≠ n) : (m.setCore n c).coreSt k = m.coreSt k := by
  simp [coreSt, setCore, tabGet_put_ne _ _ _ h]

@[simp] theorem coreSt_modCore_same (m : Mod) (n : Nat) (f : CoreSt → CoreSt) :
    (m.modCore n f).coreSt n = f (m.coreSt n) := by simp [modCore]

theorem coreSt_modCore_ne (m : Mod) {n k : Nat} (f : CoreSt → CoreSt) (h : k ≠ n) :
    (m.modCore n f).coreSt k = m.coreSt k := by simp [modCore, coreSt_setCore_ne _ _ h]

@[simp] theorem clusterSt_setCluster_same (m : Mod) (g : Nat) (c : ClusterSt) : (m.setCluster g c).clusterSt g = c := by
  simp [clusterSt, setCluster]

theorem clusterSt_setCluster_ne (m : Mod) {g k : Nat} (c : ClusterSt) (h : k ≠ g) :
    (m.setCluster g c).clusterSt k = m.clusterSt k := by simp [clusterSt, setCluster, tabGet_put_ne _ _ _ h]

@[simp] theorem clusterSt_modCluster_same (m : Mod) (g : Nat) (f : ClusterSt → ClusterSt) :
    (m.modCluster g f).clusterSt g = f (m.clusterSt g) := by simp [modCluster]

theorem clusterSt_modCluster_ne (m : Mod) {g k : Nat} (f : ClusterSt → ClusterSt) (h : k ≠ g) :
    (m.modCluster g f).clusterSt k = m.clusterSt k := by simp [modCluster, clusterSt_setCluster_ne _ _ h]

/-- A piece of work dropped is no longer found. -/
theorem findWork_dropWork (m : Mod) (i : Nat) : (m.dropWork i).findWork i = none := by
  simp [findWork, dropWork, List.find?_eq_none]

/-- A ready module posts an event at the end of those that wait; another posts none. -/
theorem post_events (m : Mod) (a b c d : Nat) (e : List Byte) :
    (m.post a b c d e).events =
      if m.ready then m.events ++ [⟨m.now, m.heatNo, a, b, c, d, padBytes 14 e⟩] else m.events := by
  unfold post
  split <;> simp_all

/-! ### What the other updates leave of registers -/

@[simp] theorem emit_rd (m : Mod) (o : Out) (x : Nat) : (m.emit o).rd x = m.rd x := by simp [rd]
@[simp] theorem emit_rdN (m : Mod) (o : Out) (x : Nat) : (m.emit o).rdN x = m.rdN x := by simp [rdN]
@[simp] theorem emit_fget (m : Mod) (o : Out) (x : Field) : (m.emit o).fget x = m.fget x := by simp [fget]
@[simp] theorem emit_flag (m : Mod) (o : Out) (x : Field) : (m.emit o).flag x = m.flag x := by simp [flag]
@[simp] theorem journal_rd (m : Mod) (a b c d e f g : Nat) (x : Nat) : (m.journal a b c d e f g).rd x = m.rd x := by simp [rd]
@[simp] theorem journal_rdN (m : Mod) (a b c d e f g : Nat) (x : Nat) : (m.journal a b c d e f g).rdN x = m.rdN x := by simp [rdN]
@[simp] theorem journal_fget (m : Mod) (a b c d e f g : Nat) (x : Field) : (m.journal a b c d e f g).fget x = m.fget x := by simp [fget]
@[simp] theorem journal_flag (m : Mod) (a b c d e f g : Nat) (x : Field) : (m.journal a b c d e f g).flag x = m.flag x := by simp [flag]
@[simp] theorem journalWrite_rd (m : Mod) (a b : Nat) (c d : Word) (o : Origin) (x : Nat) : (m.journalWrite a b c d o).rd x = m.rd x := by simp [rd]
@[simp] theorem journalWrite_rdN (m : Mod) (a b : Nat) (c d : Word) (o : Origin) (x : Nat) : (m.journalWrite a b c d o).rdN x = m.rdN x := by simp [rdN]
@[simp] theorem journalWrite_fget (m : Mod) (a b : Nat) (c d : Word) (o : Origin) (x : Field) : (m.journalWrite a b c d o).fget x = m.fget x := by simp [fget]
@[simp] theorem journalWrite_flag (m : Mod) (a b : Nat) (c d : Word) (o : Origin) (x : Field) : (m.journalWrite a b c d o).flag x = m.flag x := by simp [flag]
@[simp] theorem journalAction_rd (m : Mod) (a b c d e : Nat) (x : Nat) : (m.journalAction a b c d e).rd x = m.rd x := by simp [rd]
@[simp] theorem journalAction_rdN (m : Mod) (a b c d e : Nat) (x : Nat) : (m.journalAction a b c d e).rdN x = m.rdN x := by simp [rdN]
@[simp] theorem journalAction_fget (m : Mod) (a b c d e : Nat) (x : Field) : (m.journalAction a b c d e).fget x = m.fget x := by simp [fget]
@[simp] theorem journalAction_flag (m : Mod) (a b c d e : Nat) (x : Field) : (m.journalAction a b c d e).flag x = m.flag x := by simp [flag]
@[simp] theorem setBase64_rd (m : Mod) (a v : Nat) (x : Nat) : (m.setBase64 a v).rd x = m.rd x := by simp [rd]
@[simp] theorem setBase64_rdN (m : Mod) (a v : Nat) (x : Nat) : (m.setBase64 a v).rdN x = m.rdN x := by simp [rdN]
@[simp] theorem setBase64_fget (m : Mod) (a v : Nat) (x : Field) : (m.setBase64 a v).fget x = m.fget x := by simp [fget]
@[simp] theorem setBase64_flag (m : Mod) (a v : Nat) (x : Field) : (m.setBase64 a v).flag x = m.flag x := by simp [flag]
@[simp] theorem setCluster_rd (m : Mod) (g : Nat) (c : ClusterSt) (x : Nat) : (m.setCluster g c).rd x = m.rd x := by simp [rd]
@[simp] theorem setCluster_rdN (m : Mod) (g : Nat) (c : ClusterSt) (x : Nat) : (m.setCluster g c).rdN x = m.rdN x := by simp [rdN]
@[simp] theorem setCluster_fget (m : Mod) (g : Nat) (c : ClusterSt) (x : Field) : (m.setCluster g c).fget x = m.fget x := by simp [fget]
@[simp] theorem setCluster_flag (m : Mod) (g : Nat) (c : ClusterSt) (x : Field) : (m.setCluster g c).flag x = m.flag x := by simp [flag]
@[simp] theorem modCluster_rd (m : Mod) (g : Nat) (f : ClusterSt → ClusterSt) (x : Nat) : (m.modCluster g f).rd x = m.rd x := by simp [rd]
@[simp] theorem modCluster_rdN (m : Mod) (g : Nat) (f : ClusterSt → ClusterSt) (x : Nat) : (m.modCluster g f).rdN x = m.rdN x := by simp [rdN]
@[simp] theorem modCluster_fget (m : Mod) (g : Nat) (f : ClusterSt → ClusterSt) (x : Field) : (m.modCluster g f).fget x = m.fget x := by simp [fget]
@[simp] theorem modCluster_flag (m : Mod) (g : Nat) (f : ClusterSt → ClusterSt) (x : Field) : (m.modCluster g f).flag x = m.flag x := by simp [flag]
@[simp] theorem setCore_rd (m : Mod) (n : Nat) (c : CoreSt) (x : Nat) : (m.setCore n c).rd x = m.rd x := by simp [rd]
@[simp] theorem setCore_rdN (m : Mod) (n : Nat) (c : CoreSt) (x : Nat) : (m.setCore n c).rdN x = m.rdN x := by simp [rdN]
@[simp] theorem setCore_fget (m : Mod) (n : Nat) (c : CoreSt) (x : Field) : (m.setCore n c).fget x = m.fget x := by simp [fget]
@[simp] theorem setCore_flag (m : Mod) (n : Nat) (c : CoreSt) (x : Field) : (m.setCore n c).flag x = m.flag x := by simp [flag]
@[simp] theorem modCore_rd (m : Mod) (n : Nat) (f : CoreSt → CoreSt) (x : Nat) : (m.modCore n f).rd x = m.rd x := by simp [rd]
@[simp] theorem modCore_rdN (m : Mod) (n : Nat) (f : CoreSt → CoreSt) (x : Nat) : (m.modCore n f).rdN x = m.rdN x := by simp [rdN]
@[simp] theorem modCore_fget (m : Mod) (n : Nat) (f : CoreSt → CoreSt) (x : Field) : (m.modCore n f).fget x = m.fget x := by simp [fget]
@[simp] theorem modCore_flag (m : Mod) (n : Nat) (f : CoreSt → CoreSt) (x : Field) : (m.modCore n f).flag x = m.flag x := by simp [flag]
@[simp] theorem dropWork_rd (m : Mod) (i : Nat) (x : Nat) : (m.dropWork i).rd x = m.rd x := by simp [rd]
@[simp] theorem dropWork_rdN (m : Mod) (i : Nat) (x : Nat) : (m.dropWork i).rdN x = m.rdN x := by simp [rdN]
@[simp] theorem dropWork_fget (m : Mod) (i : Nat) (x : Field) : (m.dropWork i).fget x = m.fget x := by simp [fget]
@[simp] theorem dropWork_flag (m : Mod) (i : Nat) (x : Field) : (m.dropWork i).flag x = m.flag x := by simp [flag]
@[simp] theorem modWork_rd (m : Mod) (i : Nat) (f : Work → Work) (x : Nat) : (m.modWork i f).rd x = m.rd x := by simp [rd]
@[simp] theorem modWork_rdN (m : Mod) (i : Nat) (f : Work → Work) (x : Nat) : (m.modWork i f).rdN x = m.rdN x := by simp [rdN]
@[simp] theorem modWork_fget (m : Mod) (i : Nat) (f : Work → Work) (x : Field) : (m.modWork i f).fget x = m.fget x := by simp [fget]
@[simp] theorem modWork_flag (m : Mod) (i : Nat) (f : Work → Work) (x : Field) : (m.modWork i f).flag x = m.flag x := by simp [flag]
@[simp] theorem complete_rd (m : Mod) (a b c d e f : Nat) (x : Nat) : (m.complete a b c d e f).rd x = m.rd x := by simp [rd]
@[simp] theorem complete_rdN (m : Mod) (a b c d e f : Nat) (x : Nat) : (m.complete a b c d e f).rdN x = m.rdN x := by simp [rdN]
@[simp] theorem complete_fget (m : Mod) (a b c d e f : Nat) (x : Field) : (m.complete a b c d e f).fget x = m.fget x := by simp [fget]
@[simp] theorem complete_flag (m : Mod) (a b c d e f : Nat) (x : Field) : (m.complete a b c d e f).flag x = m.flag x := by simp [flag]
@[simp] theorem holdWrite_rd (m : Mod) (a : Nat) (b c : Word) (x : Nat) : (m.holdWrite a b c).rd x = m.rd x := by simp [rd]
@[simp] theorem holdWrite_rdN (m : Mod) (a : Nat) (b c : Word) (x : Nat) : (m.holdWrite a b c).rdN x = m.rdN x := by simp [rdN]
@[simp] theorem holdWrite_fget (m : Mod) (a : Nat) (b c : Word) (x : Field) : (m.holdWrite a b c).fget x = m.fget x := by simp [fget]
@[simp] theorem holdWrite_flag (m : Mod) (a : Nat) (b c : Word) (x : Field) : (m.holdWrite a b c).flag x = m.flag x := by simp [flag]
@[simp] theorem post_rd (m : Mod) (a b c d : Nat) (e : List Byte) (x : Nat) : (m.post a b c d e).rd x = m.rd x := by simp [rd]
@[simp] theorem post_rdN (m : Mod) (a b c d : Nat) (e : List Byte) (x : Nat) : (m.post a b c d e).rdN x = m.rdN x := by simp [rdN]
@[simp] theorem post_fget (m : Mod) (a b c d : Nat) (e : List Byte) (x : Field) : (m.post a b c d e).fget x = m.fget x := by simp [fget]
@[simp] theorem post_flag (m : Mod) (a b c d : Nat) (e : List Byte) (x : Field) : (m.post a b c d e).flag x = m.flag x := by simp [flag]
@[simp] theorem postModule_rd (m : Mod) (a : Nat) (e : List Byte) (x : Nat) : (m.postModule a e).rd x = m.rd x := by simp [rd]
@[simp] theorem postModule_rdN (m : Mod) (a : Nat) (e : List Byte) (x : Nat) : (m.postModule a e).rdN x = m.rdN x := by simp [rdN]
@[simp] theorem postModule_fget (m : Mod) (a : Nat) (e : List Byte) (x : Field) : (m.postModule a e).fget x = m.fget x := by simp [fget]
@[simp] theorem postModule_flag (m : Mod) (a : Nat) (e : List Byte) (x : Field) : (m.postModule a e).flag x = m.flag x := by simp [flag]
@[simp] theorem postDie_rd (m : Mod) (a b : Nat) (e : List Byte) (x : Nat) : (m.postDie a b e).rd x = m.rd x := by simp [rd]
@[simp] theorem postDie_rdN (m : Mod) (a b : Nat) (e : List Byte) (x : Nat) : (m.postDie a b e).rdN x = m.rdN x := by simp [rdN]
@[simp] theorem postDie_fget (m : Mod) (a b : Nat) (e : List Byte) (x : Field) : (m.postDie a b e).fget x = m.fget x := by simp [fget]
@[simp] theorem postDie_flag (m : Mod) (a b : Nat) (e : List Byte) (x : Field) : (m.postDie a b e).flag x = m.flag x := by simp [flag]
@[simp] theorem postCluster_rd (m : Mod) (a b : Nat) (e : List Byte) (x : Nat) : (m.postCluster a b e).rd x = m.rd x := by simp [rd]
@[simp] theorem postCluster_rdN (m : Mod) (a b : Nat) (e : List Byte) (x : Nat) : (m.postCluster a b e).rdN x = m.rdN x := by simp [rdN]
@[simp] theorem postCluster_fget (m : Mod) (a b : Nat) (e : List Byte) (x : Field) : (m.postCluster a b e).fget x = m.fget x := by simp [fget]
@[simp] theorem postCluster_flag (m : Mod) (a b : Nat) (e : List Byte) (x : Field) : (m.postCluster a b e).flag x = m.flag x := by simp [flag]
@[simp] theorem postCore_rd (m : Mod) (a b : Nat) (e : List Byte) (x : Nat) : (m.postCore a b e).rd x = m.rd x := by simp [rd]
@[simp] theorem postCore_rdN (m : Mod) (a b : Nat) (e : List Byte) (x : Nat) : (m.postCore a b e).rdN x = m.rdN x := by simp [rdN]
@[simp] theorem postCore_fget (m : Mod) (a b : Nat) (e : List Byte) (x : Field) : (m.postCore a b e).fget x = m.fget x := by simp [fget]
@[simp] theorem postCore_flag (m : Mod) (a b : Nat) (e : List Byte) (x : Field) : (m.postCore a b e).flag x = m.flag x := by simp [flag]

end Mod

end Sys2Proof.Machine
end

