-- ==== Sys2Proof/Laws/Write.lean ====
section
/-!
SUPPORT. What a write of a register does, once for every register: an accepted one is journalled with status OK and
carried out by its block, a dropped one is journalled with its status, and one that reaches no writable register leaves
the module as it was.
-/

namespace Sys2Proof.Machine

open Sys2Proof

namespace Mod

/-- An offset outside the producers' control registers changes no byte of memory. -/
theorem ingestMemory_other (mem : Memory) (m m' : Mod) {off : Nat}
    (h : rowIndex (Reg.ING_P_CTRL 0) 0x40 16 off = none) : ingestMemory mem m m' off = mem := by
  simp [ingestMemory, h]

/-- The module with the entry of an accepted write at the end of its journal. -/
def noted (m : Mod) (off : Nat) (v : Word) (o : Origin) : Mod := m.journalWrite stOk off (m.readValue off) v o

/-- An accepted write of a register that is no ledger's configuration is journalled and carried out by its block. -/
theorem busWrite_accepted {mem : Memory} {m : Mod} {off : Nat} {v : Word} {o : Origin} {d : RegDef}
    (hp : m.boot.powered = true) (hr : m.ready = true ∨ off < 0x10000) (hd : regAt off = some d)
    (hw : recordedBits d ≠ 0) (hc : m.commonCheck d off v = stOk) (hb : m.blockCheck mem off v = stOk)
    (hl : rowIndex (Reg.MEM_LG_CFG 0) 0x20 64 off = none) :
    m.busWrite mem off v o =
      (ingestMemory mem m ((m.noted off v o).blockEffect off v o) off, (m.noted off v o).blockEffect off v o) := by
  have h1 : (!m.boot.powered || (!m.ready && decide (0x10000 ≤ off))) = false := by
    rcases hr with h | h
    · simp [hp, h]
    · simp [hp]; omega
  have hw' : writableBits d ≠ 0 := by
    intro h
    apply hw
    unfold writableBits at h
    unfold recordedBits
    simp only [Nat.or_eq_zero_iff] at h ⊢
    exact ⟨⟨⟨h.1.1.1.1, h.1.1.2⟩, h.1.2⟩, h.2⟩
  simp only [busWrite, hl, refusedTrace, regWrite, h1, hd, hw, hw', hc, hb, noted]
  simp

end Mod

/-- The checks of R7 and R8 pass. -/
theorem commonCheck_ok {m : Mod} {d : RegDef} {off : Nat} {v : Word}
    (h0 : v &&& BitVec.ofNat 32 (reservedBits d) = 0)
    (h1 : m.locked = true → (v ^^^ m.pendingRd off) &&& BitVec.ofNat 32 d.rwl = 0) : m.commonCheck d off v = stOk := by
  unfold Mod.commonCheck
  rw [if_neg (by simp [h0])]
  by_cases hl : m.locked = true
  · simp [hl, h1 hl]
  · simp [hl]

/-- The reply a management write is answered with. -/
def replyTo (o : Origin) (m : Mod) : Mod :=
  match o with
  | .host => m
  | .mgmt e => m.emit (.reply e stOk [])

/-- A write of a register that passes both checks, or of one no field of which can be written, completes with OK (R4). -/
theorem completionStatus_ok {mem : Memory} {m : Mod} {off : Nat} {v : Word} {d : RegDef} (hd : regAt off = some d)
    (hc : m.commonCheck d off v = stOk) (hb : m.blockCheck mem off v = stOk) :
    m.completionStatus mem off v = stOk := by
  simp [Mod.completionStatus, hd, Mod.writeStatus, hc, hb]

/-- A register write that is accepted, its block's own check among it, answers the state its block's effect leaves. -/
theorem writeReg_accepted {s : State} {off : Nat} {v : Word} {o : Origin} (h : s.Accepts off v o)
    (hb : s.mod.blockCheck s.mem off v = stOk) (hl : rowIndex (Reg.MEM_LG_CFG 0) 0x20 64 off = none)
    (hi : rowIndex (Reg.ING_P_CTRL 0) 0x40 16 off = none) :
    writeReg off v o s =
      .next { s with mod := replyTo o ((s.mod.noted off v o).blockEffect off v o) } := by
  obtain ⟨hp, hr, ho, d, hd, hw, h0, h1⟩ := h
  have hbw := Mod.busWrite_accepted (o := o) hp hr hd hw (commonCheck_ok h0 h1) hb hl
  rw [Mod.ingestMemory_other _ _ _ hi] at hbw
  cases o with
  | host => simp [writeReg, nextMem, Mod.commandWrite, replyTo, hbw]
  | mgmt e =>
    have ht : s.mod.torvordUp = true := ho
    simp [writeReg, nextMem, Mod.commandWrite, replyTo, hbw, ht, completionStatus_ok hd (commonCheck_ok h0 h1) hb]

namespace Mod

/-- A write before ready outside the ID_ block, outside every register, or of a register no field of which can be
written, leaves the module as it was (R7, R8, R413). -/
theorem regWrite_nothing {check : Mod → Nat → Word → Nat} {effect : Mod → Nat → Word → Mod} {m : Mod} {off : Nat}
    {old v : Word} {o : Origin}
    (h : m.boot.powered = false ∨ (m.ready = false ∧ 0x10000 ≤ off) ∨ (∀ d, regAt off = some d → writableBits d = 0)) :
    m.regWrite check effect off old v o = m := by
  unfold regWrite
  split
  · rfl
  · next hn =>
    split
    · rfl
    · next d hd =>
      rcases h with h | h | h
      · simp [h] at hn
      · simp [h.1, h.2] at hn
      · simp [h d hd]

end Mod

end Sys2Proof.Machine
end

