-- ==== Sys2Proof/Tests/Slice0.lean ====
section
/-!
SUPPORT. Tests: ill-formed commands are refused by well-formedness, what single commands do on small states, with
results taken from spec/, and for every statement with hypotheses a state and operands that meet them.
-/

namespace Sys2Proof.Machine.Tests

open Sys2Proof Sys2Proof.Machine

set_option maxRecDepth 20000
set_option exponentiation.threshold 1100

/-! ### Small states -/

/-- A module at ready, its time master, with the set-up not locked. -/
def readyMod : Mod :=
  ((({} : Mod).fput Fld.ID_READY true).fset Fld.ID_BOOT_STAGE 9).fput Fld.HEAT_IS_MASTER true

/-- A module at ready with a change. -/
def at_ (f : Mod → Mod := id) : State := { mod := f readyMod }

/-- The same after the set-up lock. -/
def locked (f : Mod → Mod := id) : State := at_ (fun m => f (m.fput Fld.ID_SETUP_LOCK true))

/-- A write passes every check that does not depend on the register's block, as a computation. -/
def acceptsB (s : State) (off : Nat) (v : Word) (o : Origin) : Bool :=
  s.mod.boot.powered && (s.mod.ready || decide (off < 0x10000)) &&
    (match o with | .host => true | .mgmt _ => s.mod.torvordUp) &&
    (match regAt off with
      | some d => recordedBits d != 0 && (v &&& BitVec.ofNat 32 (reservedBits d) == 0) &&
          (!s.mod.locked || ((v ^^^ s.mod.pendingRd off) &&& BitVec.ofNat 32 d.rwl == 0))
      | none => false)

theorem accepts_of {s : State} {off : Nat} {v : Word} {o : Origin} (h : acceptsB s off v o = true) :
    s.Accepts off v o := by
  unfold acceptsB at h
  cases hr : regAt off with
  | none => simp [hr] at h
  | some d =>
    simp only [hr, Bool.and_eq_true, Bool.or_eq_true, decide_eq_true_eq, bne_iff_ne, ne_eq, beq_iff_eq,
      Bool.not_eq_true'] at h
    obtain ⟨⟨⟨h1, h2⟩, h3⟩, ⟨h4, h5⟩, h6⟩ := h
    refine ⟨h1, h2, ?_, d, hr, h4, h5, fun hl => ?_⟩
    · cases o with
      | host => trivial
      | mgmt e => exact h3
    · rcases h6 with h | h
      · simp [h] at hl
      · exact h

/-- A word from its fields: value and lowest bit. -/
def fields (l : List (Nat × Nat)) : Nat := l.foldl (fun x f => x + f.1 <<< f.2) 0

/-- A choice of core `n` whose block of two words starts at line 1 of its local SRAM. -/
def chosen (n : Nat) (m : Mod) : Mod := m.setCore n { choice := some {
  entry := 0, alt := 0, inMask := 0, outMask := 1, workPtr := 1, workLen := 2, step := 0, mb := 0, heat := 0, taken := [] } }

/-- A state whose core 0 holds a work word issued, and a block at line 0 of its local SRAM. -/
def issued (word block : Nat) (f : Mod → Mod := id) : State :=
  { mem := memWrite [] (localCell 0 0) (leBytes 64 block)
    mod := f ((chosen 0 readyMod).modCore 0 (fun c => { c with issued := some { word := word, pos := 0, block := block } })) }

/-- A work in flight. -/
def flying (who : Issuer) (u : UnitKind) : Work :=
  { id := 5, who := who, unit := u, pos := 0, heat := 0, word := 0, step := 0, mb := 0, dst := [] }

/-- A state with that work. -/
def inFlight (who : Issuer) (u : UnitKind) (f : Mod → Mod := id) : State :=
  at_ (fun m => f { m with works := [flying who u], nextId := 6 })

/-- A data header of core 1's channel 2 to channel 3 of core 0. -/
def header (kind : Nat) : List Byte := headerBytes {
  sendHeat := 2 ^ 48 - 1, length := 1, srcChip := 0, srcCluster := 0, srcCore := 1, srcChan := 2, dstChip := 0
  dstCluster := 0, dstCore := 0, dstChan := 3, kind := kind, credits := 1 }

/-- The tiers of a module: 36 GiB of tier 0 on every die and 256 GiB of tier 1; trackers of 64 entries. -/
def tiered (m : Mod) : Mod :=
  ([0, 1, 2, 3] : List Nat).foldl (fun m d => (m.wrN (Reg.MEM_T0_SIZE d) 36).wrN (Reg.MEM_TRK_DEPTH d) 64)
    (m.wrN Reg.MEM_T1_SIZE 256)

/-- A ladle word issued at core 0, with its block. -/
def ladled (block : Nat) (f : Mod → Mod := id) : State := issued (fields [(5, 56)]) block (fun m => f (tiered m))

/-- The module's time. -/
def timed (t : Nat) (m : Mod) : Mod := { m with heat := { m.heat with time := BitVec.ofNat 64 t } }

/-- Module time `now` of a heat of 100 microseconds whose set is 4 percent. -/
def pouring (now : Nat) (m : Mod) : Mod :=
  { m.fput Fld.HEAT_RUNNING true with heat := { m.heat with time := BitVec.ofNat 64 now, base := ⟨0, 0, 100⟩, pageRead := false } }

/-- A descriptor fetched for index 0 of ring 63, in the pour. -/
def ringed (body : Nat) (f : Mod → Mod := id) : State :=
  at_ (fun m => f { tiered (pouring 2500 m) with hub := { m.hub with rings := [{ ring := 63, index := 0, body := some (BitVec.ofNat 512 body) }] } })

/-- Directory entry: 8 rows of one BF16 value, sparse, two drupelets at most, home map entry 0. -/
def tableEntry : Nat := fields [(1, 286), (2, 288), (2, 328), (7, 344)]

/-- That table as number 1, its rows from address 0x4000 in tier 0 of die 0. -/
def tabled (m : Mod) : Mod :=
  { tiered m with tables := { m.tables with dir := [(1, some tableEntry)], homeMap := [(0, 0x4000)] } }

/-- The ledger slot 0 enabled for that table, with one entry at the start of tier 1. -/
def ledgered (m : Mod) : Mod :=
  (((tabled m).wrN (Reg.MEM_LG_CFG 0) 1).fput (Fld.MEM_LG_EN 0) true).wrN (Reg.MEM_LG_BASE_HI 0) 0x100

/-- The state a command leaves. -/
def after (c : Instr) (s : State) : State := match Machine.exec c s with | .next t => t | _ => State.reset

/-- No work is in flight. -/
theorem fresh_of {s : State} (h : s.mod.works = [] ∧ s.mod.msgs = [] ∧ s.mod.tables.applies = [] ∧
    s.mod.tables.lookups = [] ∧ s.mod.tables.contribs = []) : s.FreshNumbers := by
  obtain ⟨a, b, c, d, e⟩ := h
  refine ⟨?_, ?_, ?_, ?_, ?_⟩ <;> simp_all

/-- The first work, lookup and contribution of a state. -/
def work1 (s : State) : Work := (s.mod.works[0]?).getD (flying (.core 0) .vector)
def lookup1 (s : State) : Lookup := (s.mod.tables.lookups[0]?).getD
  { work := 0, core := 0, picker := 0, block := 0, heat := 0, table := 0, entry := 0, partA := none, entryA := 0
    partB := none, entryB := 0, idx := [], wgt := [], reqs := [], padding := 0, oor := [] }
def contrib1 (s : State) : Contribution := (s.mod.tables.contribs[0]?).getD
  { work := 0, core := 0, picker := 0, block := 0, rows := [], oor := 0 }

/-- Bucket 1: ALLREDUCE of 16 elements of binary32 in the group of this module alone. -/
def bucket : Nat := fields [(1, 195), (1, 219), (1, 248), (16, 280), (0x2000, 384), (0x1000, 448)]

def bucketed (m : Mod) : Mod := { m with col := { m.col with buckets := [(1, some bucket)] } }

/-- Sixteen instances of other buckets run. -/
def busyEngine (m : Mod) : Mod :=
  let m1 := bucketed m
  { m1 with col := { m1.col with insts := (List.range 16).map (fun k =>
    { bucket := 2 + k, step := 0, entry := bucket, ldim := 0, notify := none, stat := none, startAt := 0 }) } }

/-- A number of words in registers `r 0`, `r 1` and so on. -/
def loadWords (r : Nat → Nat) (words x : Nat) (m : Mod) : Mod :=
  (List.range words).foldl (fun m w => m.wrN (r w) (x / 2 ^ (32 * w) % 2 ^ 32)) m

/-! ### Well-formedness: one ill-formed command for every check -/

theorem test_wf_cluster : (Instr.heatWatchdog 47).wellFormed = true ∧ (Instr.heatWatchdog 48).wellFormed = false := by decide
theorem test_wf_core : (Instr.slotFree 383).wellFormed = true ∧ (Instr.slotFree 384).wellFormed = false := by decide
theorem test_wf_picker : (Instr.pickerLookup 0 1 0).wellFormed = true ∧ (Instr.pickerLookup 0 2 0).wellFormed = false := by
  decide
theorem test_wf_table_slot : (Instr.memOptArm 255 0 .host).wellFormed = true ∧ (Instr.memOptArm 256 0 .host).wellFormed = false := by
  decide
theorem test_wf_directory : (Instr.memTdDrainClear 4095).wellFormed = true ∧ (Instr.memTdDrainClear 4096).wellFormed = false := by
  decide
theorem test_wf_hot_map : (Instr.memHotDrainClear 16383).wellFormed = true ∧ (Instr.memHotDrainClear 16384).wellFormed = false := by
  decide
theorem test_wf_channel : (Instr.creditReclaim 287 5).wellFormed = true ∧ (Instr.creditReclaim 288 5).wellFormed = false ∧
    (Instr.creditReclaim 287 6).wellFormed = false := by decide
theorem test_wf_scrub : (Instr.scrub 287 0 []).wellFormed = true ∧ (Instr.scrub 288 0 []).wellFormed = false := by
  decide
theorem test_wf_abort : (Instr.abort 8191 1023 0 15).wellFormed = true ∧ (Instr.abort 8192 0 0 0).wellFormed = false ∧
    (Instr.abort 0 1024 0 0).wellFormed = false ∧ (Instr.abort 0 0 0 16).wellFormed = false := by decide
theorem test_wf_stack : (Instr.stackTempReport 15 0).wellFormed = true ∧ (Instr.stackTempReport 16 0).wellFormed = false := by
  decide
theorem test_wf_aperture : (Instr.hifB2Map 63 0 .host).wellFormed = true ∧ (Instr.hifB2Map 64 0 .host).wellFormed = false := by
  decide
theorem test_wf_port : (Instr.linkTraining 12).wellFormed = true ∧ (Instr.linkTraining 13).wellFormed = false := by decide
theorem test_wf_ring : (Instr.sqEnable 63 0 .host).wellFormed = true ∧ (Instr.sqEnable 64 0 .host).wellFormed = false := by
  decide
theorem test_wf_window : (Instr.hifPwProbe 7 0 .host).wellFormed = true ∧ (Instr.hifPwProbe 8 0 .host).wellFormed = false := by
  decide
theorem test_wf_producer : (Instr.producerEnable 15 0 .host).wellFormed = true ∧
    (Instr.producerEnable 16 0 .host).wellFormed = false := by decide
theorem test_wf_die : (Instr.voltageReached 3).wellFormed = true ∧ (Instr.voltageReached 4).wellFormed = false := by decide
theorem test_wf_bucket : (Instr.collectiveEnd 1023).wellFormed = true ∧ (Instr.collectiveEnd 1024).wellFormed = false := by decide
theorem test_wf_runner : (Instr.copy (.core 383) []).wellFormed = true ∧ (Instr.copy (.core 384) []).wellFormed = false ∧
    (Instr.move (.ring 64 0) []).wellFormed = false := by decide
theorem test_wf_meters : (Instr.heatTick { vin := 48000, pin := 0, meters := [], tj := [0, 0, 0, 0], acked := [] }).wellFormed = false := by decide
theorem test_wf_page : (Instr.doorbellPageReturn []).wellFormed = false := by decide
theorem test_wf_header : (Instr.data 0 [] []).wellFormed = false := by decide
theorem test_wf_host_map : (Instr.hostMapLoadDone (some [])).wellFormed = false ∧ (Instr.hostMapLoadDone none).wellFormed = true := by
  decide
theorem test_wf_module : (Instr.masterTakeover [(8191, true)]).wellFormed = true ∧
    (Instr.masterTakeover [(8192, true)]).wellFormed = false := by decide
theorem test_wf_bar2 : (Instr.bar2Read 0 0 none).wellFormed = false ∧ (Instr.bar2Read (2 ^ 36 - 1) 2 none).wellFormed = false ∧
    (Instr.bar2Read (2 ^ 36 - 1) 1 none).wellFormed = true := by decide
theorem test_wf_bar0 : (Instr.registerRead 0x2000000 4).wellFormed = false ∧ (Instr.registerWrite 0 9 0).wellFormed = false := by
  decide
theorem test_wf_endpoint : (Instr.regRead 256 0).wellFormed = false ∧ (Instr.getCert 256).wellFormed = false := by decide
theorem test_wf_nonce : (Instr.attest 8 []).wellFormed = false := by decide
theorem test_wf_notice : (Instr.linkStateNotice 0 ⟨8192, 0, 0⟩).wellFormed = false := by decide
theorem test_wf_source : (Instr.reseqGapTimeout (8192, [])).wellFormed = false := by decide
theorem test_wf_column : (Instr.maintEnd [512]).wellFormed = false ∧ (Instr.maintEnd [511]).wellFormed = true := by decide

/-! ### Witnesses: states and operands that meet the hypotheses of the statements, clause by clause -/

/-- Some transition exists to talk of. -/
theorem wit_step : (∃ t, Machine.step State.reset = .next t) ∧ State.reset.Inv ∧ State.reset.FreshNumbers := by
  refine ⟨⟨_, rfl⟩, rfl, ?_, ?_, ?_, ?_, ?_⟩ <;> intro k hk <;> simp [State.reset] at hk

theorem wit_StepTakesTheFrontCommand : (at_).pending = [] ∧ (at_).mod.boot.powered = true ∧ (at_).mod.heat.pull = 0 ∧
    (State.mk [] [] { boot := { powered := false } }).mod.boot.powered = false := by decide

theorem wit_FusesAndRevocationsNeverFall :
    (State.mk [] [] { nv := { revoked := 9, debugEver := true } }).mod.nv.revoked.testBit 3 = true := by decide

/-- Offset 0x1C is ID_RESET with reserved bits, 0x0 ID_PCI is read-only, 0xFFFC nothing. -/
theorem wit_ReservedAndUnassignedOffsets : (at_).mod.boot.powered = true ∧ (at_).mod.ready = true ∧
    (∃ d, regAt Reg.ID_RESET = some d ∧ writableBits d ≠ 0 ∧ (2 : Word) &&& BitVec.ofNat 32 (reservedBits d) ≠ 0) ∧
    regAt 0xFFFC = none ∧ (∃ d, regAt Reg.ID_PCI = some d ∧ writableBits d = 0) ∧ State.reset.mod.ready = false := by
  refine ⟨by decide, by decide, ⟨_, rfl, by decide, by decide⟩, by decide, ⟨_, rfl, by decide⟩, by decide⟩

theorem wit_LockedAndEarlyWritesAreDropped : locked.mod.boot.powered = true ∧ locked.mod.ready = true ∧
    locked.mod.locked = true ∧
    (∃ d, regAt Reg.CAST_RES1 = some d ∧ writableBits d ≠ 0 ∧ (1 : Word) &&& BitVec.ofNat 32 (reservedBits d) = 0 ∧
      (1 ^^^ locked.mod.pendingRd Reg.CAST_RES1) &&& BitVec.ofNat 32 d.rwl ≠ 0) ∧
    State.reset.mod.ready = false ∧ 0x10000 ≤ Reg.HEAT_CTRL ∧
    (State.mk [] [] (({} : Mod).fset Fld.ID_BOOT_STAGE 2)).mod.torvordUp = true := by
  refine ⟨by decide, by decide, by decide, ⟨_, rfl, by decide, by decide, by decide⟩, by decide, by decide, by decide⟩

theorem wit_RegisterAccessByAddress : (at_).Accepts Reg.HEAT_CFG_NEXT 0 .host ∧ (at_).Accepts Reg.FWC_SET_SEL 0xFF (.mgmt 8) ∧
    Reg.HEAT_CFG_NEXT % 4 = 0 ∧ tabGet (fun _ => none) (at_).mod.latch Reg.HEAT_CFG_NEXT = none ∧
    (at_).mod.torvordUp = true ∧ (∃ d, regAt Reg.ID_SERIAL_LO = some d ∧ loBases.contains d.base = true) := by
  exact ⟨accepts_of (by decide), accepts_of (by decide), by decide, by decide, by decide, _, rfl, by decide⟩

theorem wit_LatchedHighHalf : ∃ t, Machine.exec (.registerRead Reg.ID_SERIAL_LO 4) (at_) = .next t ∧
    t.mod.boot.powered = true ∧ t.mod.ready = true ∧ tabGet (fun _ => none) (at_).mod.latch Reg.ID_SERIAL_LO = none :=
  ⟨_, rfl, by decide, by decide, by decide⟩

/-- A change armed for heat 2, the first that may be named, and for heat 1. -/
theorem wit_HeatSetupWrites : (at_ (fun m => m.wrN Reg.HEAT_CHANGE_AT_LO 2)).Accepts Reg.HEAT_CHANGE_AT_HI (setBit 0 31) .host ∧
    (at_ (fun m => m.wrN Reg.HEAT_CHANGE_AT_LO 2)).mod.heatNo + 2 =
      (at_ (fun m => m.wrN Reg.HEAT_CHANGE_AT_LO 2)).mod.rdN Reg.HEAT_CHANGE_AT_LO + 2 ^ 32 * wordBits (setBit 0 31) 15 0 ∧
    cfgInRange ((at_ (fun m => m.wrN Reg.HEAT_CHANGE_AT_LO 2)).mod.rd Reg.HEAT_CFG_NEXT) = true ∧
    (at_ (fun m => m.wrN Reg.HEAT_CHANGE_AT_LO 1)).Accepts Reg.HEAT_CHANGE_AT_HI (setBit 0 31) .host ∧
    ¬ ((at_ (fun m => m.wrN Reg.HEAT_CHANGE_AT_LO 1)).mod.heatNo + 2 ≤
      (at_ (fun m => m.wrN Reg.HEAT_CHANGE_AT_LO 1)).mod.rdN Reg.HEAT_CHANGE_AT_LO + 2 ^ 32 * wordBits (setBit 0 31) 15 0) ∧
    (at_).Accepts Reg.HEAT_CHANGE_AT_HI (clearBit 0xFFFF 31) .host ∧
    (at_).Accepts Reg.HEAT_TIME_SET_HI 1 .host ∧ (at_).mod.flag Fld.HEAT_IS_MASTER = true ∧
    (at_).mod.flag Fld.HEAT_RUN = false ∧ (at_).mod.flag Fld.HEAT_RUNNING = false ∧
    (at_ (fun m => m.fput Fld.HEAT_RUN true)).Accepts Reg.HEAT_TIME_SET_HI 1 .host := by
  exact ⟨accepts_of (by decide), by decide, by decide, accepts_of (by decide), by decide, accepts_of (by decide),
    accepts_of (by decide), by decide, by decide, by decide, accepts_of (by decide)⟩

/-- HEAT_RUN set by a module that the write makes eligible and so time master, and by one it does not. -/
theorem wit_HeatRunWrites : (at_).Accepts Reg.HEAT_CTRL (setBit 2 0) .host ∧ (at_).mod.locked = false ∧
    locked.Accepts Reg.HEAT_CTRL (setBit 2 0) .host ∧ locked.mod.locked = true ∧
    locked.mod.flag Fld.HEAT_RUN = false ∧ locked.mod.flag Fld.HEAT_RUNNING = false ∧
    (after (.heatRunSet 2 .host) locked).mod.flag Fld.HEAT_IS_MASTER = true ∧
    (let s := locked (fun m => { m.fput Fld.HEAT_MASTER_ELIG false with heat := { m.heat with joinIn := some 0 } })
    s.Accepts Reg.HEAT_CTRL (setBit 0 0) .host ∧ s.mod.heat.joinIn = some 0 ∧
      (after (.heatRunSet 0 .host) s).mod.flag Fld.HEAT_IS_MASTER = false) ∧
    locked.Accepts Reg.HEAT_CTRL (clearBit 3 0) .host := by
  exact ⟨accepts_of (by decide), by decide, accepts_of (by decide), by decide, by decide, by decide, by decide,
    ⟨accepts_of (by decide), by decide, by decide⟩, accepts_of (by decide)⟩

/-- The master among modules told of; an edge used and one not; a lock that changes and one that does not. -/
theorem wit_TimeKeeping : (at_).mod.ready = true ∧ State.reset.mod.ready = false ∧
    (let s := at_ (fun m => m.fput Fld.HEAT_MASTER_ELIG false)
    (after (.masterTakeover [(5, false), (3, false), (7, true)]) s).mod.heat.master = some 7 ∧
      (after (.masterTakeover [(5, false), (3, false)]) s).mod.heat.master = some 3) ∧
    (after (.masterTakeover []) (at_ (fun m => m.fput Fld.HEAT_MASTER_ELIG true))).mod.heat.master = some (at_).mod.self ∧
    (after (.masterTakeover []) (at_ (fun m => m.fput Fld.HEAT_MASTER_ELIG false))).mod.heat.master = none ∧
    (let s := at_ (fun m => (m.fput Fld.HEAT_REF_EN true).fput Fld.HEAT_PPS_LOCK true)
    s.mod.flag Fld.HEAT_PPS_LOCK = true ∧ s.mod.flag Fld.HEAT_REF_EN = true ∧ s.mod.flag Fld.HEAT_IS_MASTER = true) ∧
    (at_).mod.flag Fld.HEAT_PPS_LOCK = false ∧ (at_).mod.flag Fld.HEAT_10M_LOCK = false := by decide

/-- A message to the time master itself; to a running module, with offsets of 1000 and 1001 ns; to one that waits to
join for the first time, to one that has run before with an offset of 20 ns, and to one that is held. -/
def timeMsg (t : Nat) (known : List (Nat × Bool)) : TimeMsg :=
  { time := t, heat := 3, cfg := 0, baseB := 1000000, baseN := 0, change := none, known := known, port := 0 }

theorem wit_TimeMessageSynchronises : (at_).mod.ready = true ∧ State.reset.mod.ready = false ∧
    (after (.timeMessage (timeMsg 5 [])) (at_ (fun m => m.fput Fld.HEAT_MASTER_ELIG true))).mod.flag Fld.HEAT_IS_MASTER = true ∧
    (let s := at_ (fun m => (m.fput Fld.HEAT_MASTER_ELIG false).fput Fld.HEAT_RUNNING true)
    s.mod.flag Fld.HEAT_RUNNING = true ∧
      (after (.timeMessage (timeMsg 1000 [])) s).mod.flag Fld.HEAT_IS_MASTER = false ∧
      (after (.timeMessage (timeMsg 1000 [])) s).mod.heat.offsetFault = none ∧
      (after (.timeMessage (timeMsg 1001 [])) s).mod.heat.offsetFault ≠ none) ∧
    (let s := at_ (fun m => (m.fput Fld.HEAT_MASTER_ELIG false).fput Fld.HEAT_RUN true)
    s.mod.flag Fld.HEAT_RUN = true ∧ s.mod.flag Fld.HEAT_HELD = false ∧ s.mod.heat.joinIn = none ∧
      s.mod.heat.everRan = false ∧ s.mod.flag Fld.HEAT_RUNNING = false ∧
      (after (.timeMessage (timeMsg 5000 [(4, true)])) s).mod.now = 5000) ∧
    (let s := at_ (fun m => { (m.fput Fld.HEAT_MASTER_ELIG false).fput Fld.HEAT_RUN true with
      heat := { m.heat with everRan := true } })
    s.mod.heat.everRan = true ∧ s.mod.rdN (Reg.FAB_P_DELAY 0) = 0 ∧
      (after (.timeMessage (timeMsg 20 [])) s).mod.heat.joinIn = some 2 ∧
      (after (.timeMessage (timeMsg 21 [])) s).mod.heat.joinIn = none) ∧
    (at_ (fun m => m.fput Fld.HEAT_HELD true)).mod.flag Fld.HEAT_HELD = true ∧
    (let s := at_ (fun m => ((m.fput Fld.HEAT_MASTER_ELIG false).fput (Fld.FAB_RT_VALID 4) true).fset (Fld.FAB_RT_PRIMARY 4) 3)
    (after (.timeMessage (timeMsg 5 [(4, true)])) s).mod.heat.master = some 4 ∧
      s.mod.flag (Fld.FAB_RT_VALID 4) = true ∧ s.mod.fget (Fld.FAB_RT_PRIMARY 4) ≠ (timeMsg 5 [(4, true)]).port) := by
  decide

theorem wit_HeatTickAdvancesTheHeat :
    (let s := at_ (fun m => (m.fput Fld.HEAT_RUNNING true).fput Fld.HEAT_RUN true)
    s.mod.ready = true ∧ s.mod.flag Fld.HEAT_RUNNING = true ∧ s.mod.flag Fld.HEAT_RUN = true ∧
      s.mod.heat.offsetFault = none ∧ s.mod.heat.pageRead = false) ∧
    (let s := at_ (fun m => m.fput Fld.HEAT_RUNNING true)
    s.mod.flag Fld.HEAT_RUNNING = true ∧ s.mod.flag Fld.HEAT_RUN = false) ∧
    (at_).mod.heat.joinIn = none ∧ (at_).mod.flag Fld.HEAT_RUNNING = false ∧
    (∀ k ∈ [0, 1, 2], (at_ (fun m => { m with heat := { m.heat with joinIn := some k } })).mod.heat.joinIn = some k) ∧
    State.reset.mod.ready = false := by decide

/-- A page of session 0 for a module of session 0, the last moment it counts and the first it does not. -/
theorem wit_DoorbellPageAndLateRead :
    (let s := fun t : Nat => at_ (fun m => { (m.fput Fld.HIF_LINK_UP true).fput Fld.HIF_DETACHED false with
      heat := { m.heat with pageRead := true, time := BitVec.ofNat 64 t } })
    (s 2000).mod.heat.pageRead = true ∧ (s 2000).mod.flag Fld.HIF_LINK_UP = true ∧ (s 2000).mod.detached = false ∧
      (s 2000).mod.now ≤ (s 2000).mod.heat.tickTime + 2000 ∧ (s 2000).mod.heat.tickTime + 2000 ≤ (s 2000).mod.now ∧
      (s 2001).mod.heat.tickTime + 2000 < (s 2001).mod.now ∧ (s 1999).mod.now < (s 1999).mod.heat.tickTime + 2000 ∧
      leNat (leBytes 4 0) = (s 2000).mod.rdN Reg.HIF_SESSION ∧ leNat (leBytes 4 1) ≠ (s 2000).mod.rdN Reg.HIF_SESSION) ∧
    (at_).mod.heat.pageRead = false ∧ (at_ (fun m => m.fput Fld.HIF_LINK_UP false)).mod.flag Fld.HIF_LINK_UP = false ∧
    (at_ (fun m => m.fput Fld.HIF_DETACHED true)).mod.detached = true := by decide

theorem wit_HeatWatchdogHoldsTheCluster :
    (let s := at_ (fun m => m.setCluster 47 { wdogDue := true })
    s.mod.ready = true ∧ (s.mod.clusterSt 47).wdogDue = true ∧ s.mod.now = s.mod.heat.tickTime ∧
      s.mod.dieHalted (47 / 12) = false) ∧
    ((at_).mod.clusterSt 0).wdogDue = false ∧
    (at_ (fun m => { m with heat := { m.heat with time := 1 } })).mod.now ≠ (at_).mod.heat.tickTime ∧
    (at_ (fun m => m.fput (Fld.PWR_D_HALTED 3) true)).mod.dieHalted 3 = true := by decide

/-- A core's control register accepts every arm and withdrawal; the switch named for heat 2 and for heat 1. -/
theorem wit_CoreControlWrites : (at_).Accepts (Reg.CORE_CTRL 383) (setBit 0 0) .host ∧
    (at_ (fun m => m.wrN (Reg.CORE_SWITCH_AT_LO 383) 2)).Accepts (Reg.CORE_CTRL 383) (setBit 0 1) .host ∧
    (at_ (fun m => m.wrN (Reg.CORE_SWITCH_AT_LO 383) 2)).mod.heatNo + 2 =
      (at_ (fun m => m.wrN (Reg.CORE_SWITCH_AT_LO 383) 2)).mod.rdN (Reg.CORE_SWITCH_AT_LO 383) +
        2 ^ 32 * (at_ (fun m => m.wrN (Reg.CORE_SWITCH_AT_LO 383) 2)).mod.rdN (Reg.CORE_SWITCH_AT_HI 383) ∧
    (at_).Accepts (Reg.CORE_CTRL 0) (clearBit 2 1) .host ∧ (at_).Accepts (Reg.CORE_CTRL 0) (setBit 0 2) .host ∧
    (at_).Accepts (Reg.CORE_CTRL 0) (clearBit 4 2) .host ∧
    (at_ (fun m => m.wrN (Reg.CORE_SWITCH_AT_LO 0) 1)).mod.rdN (Reg.CORE_SWITCH_AT_LO 0) < (at_).mod.heatNo + 2 ∧
    (at_).Accepts (Reg.CORE_MB 0) 7 .host ∧ (at_).Accepts (Reg.CORE_STEP 0) 7 .host ∧ (at_).mod.coreState 0 ≠ 1 ∧
    (at_).mod.flag Fld.CAST_RS_LOCKED = false ∧ (at_ (fun m => m.fset (Fld.CORE_STATE 0) 1)).Accepts (Reg.CORE_STEP 0) 7 .host ∧
    (at_ (fun m => m.fset (Fld.CORE_STATE 0) 1)).mod.coreState 0 = 1 ∧
    (at_ (fun m => m.fput Fld.CAST_RS_LOCKED true)).mod.flag Fld.CAST_RS_LOCKED = true := by
  exact ⟨accepts_of (by decide), accepts_of (by decide), by decide, accepts_of (by decide), accepts_of (by decide),
    accepts_of (by decide), by decide, accepts_of (by decide), accepts_of (by decide), by decide, by decide,
    accepts_of (by decide), by decide, by decide⟩

/-- A state in which core 0 is to issue `word` at module time `now`. -/
def issuing (word : Nat) (now : Nat := 2500) : State :=
  { at_ (fun m => pouring now (chosen 0 m)) with mem := memWrite [] (localCell 0 64) (leBytes 8 word) }

/-- The pour's first and last moment and those beside it; words of unit 1, of unit 7 and of unknown units, and a send,
which waits while a vector operation is unfinished. -/
theorem wit_CoreIssueAndValidation :
    (∃ c, ((issuing 0).mod.coreSt 0).choice = some c ∧ c.stopped = false ∧ c.next < c.workLen) ∧
    ((issuing 0).mod.coreSt 0).issued = none ∧ (issuing 0).mod.dieHalted 0 = false ∧
    (let s := issuing 0
    s.mod.flag Fld.HEAT_RUNNING = true ∧ s.mod.heat.pageRead = false ∧ s.mod.heat.tickTime + 2500 ≤ s.mod.now ∧
      s.mod.heat.tickTime + s.mod.heat.base.p * 1000 - s.mod.heat.base.p * wordBits (s.mod.rd Reg.HEAT_CFG) 7 0 = 96000) ∧
    (issuing 0 95999).mod.inPour = true ∧ (issuing 0 96000).mod.inPour = false ∧ (issuing 0 2499).mod.inPour = false ∧
    (∀ u ∈ [0, 1, 7, 8], bitsOf (memNat (issuing (u * 2 ^ 56)).mem (localCell 0 64) 8) 63 56 = u) ∧
    (∀ u ∈ [1, 7], (issuing (u * 2 ^ 56)).mod.wordWaits (issuing (u * 2 ^ 56)).mem 0 (u * 2 ^ 56) = false) ∧
    ({ issuing 0 with mod := { (issuing 0).mod with works := [flying (.core 0) .vector] } } : State).mod.wordWaits
      (issuing 0).mem 0 (4 * 2 ^ 56) = true ∧
    (at_ (fun m => m.fput (Fld.CORE_VALIDATING 383) true)).mod.flag (Fld.CORE_VALIDATING 383) = true ∧
    ((at_).mod.coreSt 383).loading = none := by
  refine ⟨⟨_, rfl, by decide, by decide⟩, by decide, by decide, by decide, by decide, by decide, by decide, by decide,
    by decide, by decide, by decide, by decide⟩

/-- R48: the word at the head of the block is taken. -/
theorem test_issue : ((after (.workWordIssue 0) (issuing (7 * 2 ^ 56))).mod.coreSt 0).issued =
    some { word := 7 * 2 ^ 56, pos := 0, block := 0, time := 2500 } := by decide

/-- Core 0 RUNNING, with in-channel 3 and out-channel 3 of one slot of one line to channel 2 of core 1. -/
def channelled (f : Mod → Mod := id) : State :=
  let d := leBytes 16 (fields [(1, 32), (1, 26), (2, 22), (1, 19)])
  { at_ (fun m => f (m.fset (Fld.CORE_STATE 0) 1)) with
    mem := memWrite (memWrite [] (bankCell 0 0 + 64 + 48) d) (bankCell 0 0 + 320 + 48) d }

theorem wit_ChannelMessagesReceived : (∀ k ∈ [1, 2, 3, 4], headerOk (header k) = true ∧ mhKind (leNat (header k)) = k) ∧
    mhDstChan (leNat (header 1)) = 3 ∧
    (let s := channelled
    let d := s.mod.inChan s.mem 0 3
    s.mod.coreState 0 = 1 ∧ chValid d = true ∧ Mod.peerIs d (leNat (header 1)) = true ∧ s.mod.outChan s.mem 0 3 = d ∧
      (s.mod.inSt 0 3).bindHeat ≤ mhSendHeat (leNat (header 1)) ∧ chSlots d = mhCredits (leNat (header 2)) ∧
      chSize d = mhLength (leNat (header 2)) ∧ chSize d = mhLength (leNat (header 4)) ∧ s.mod.ready = true ∧
      s.mod.destGone (chPeerChip d) (chPeerCluster d) (chPeerCore d) = none) ∧
    (at_).mod.coreState 0 = 0 ∧ chValid ((at_).mod.inChan [] 0 3) = false ∧ chValid ((at_).mod.outChan [] 0 3) = false ∧
    headerOk (leBytes 32 0) = false := by decide

theorem wit_ChannelHeaderRoundTrip : let f : MsgFields := {
      sendHeat := 2 ^ 48 - 1, credits := 31, length := 2 ^ 18 - 1, step := 2 ^ 32 - 1, mb := 2 ^ 16 - 1, seq := 2 ^ 32 - 1
      srcChip := 2 ^ 15 - 1, srcCluster := 15, srcCore := 7, srcChan := 15, dstChip := 2 ^ 15 - 1, dstCluster := 15
      dstCore := 7, dstChan := 15, kind := 4 }
    f.sendHeat < 2 ^ 48 ∧ f.credits < 32 ∧ f.length < 2 ^ 18 ∧ f.step < 2 ^ 32 ∧ f.mb < 2 ^ 16 ∧ f.seq < 2 ^ 32 ∧
    f.srcChip < 2 ^ 15 ∧ f.srcCluster < 16 ∧ f.srcCore < 8 ∧ f.srcChan < 16 ∧ f.dstChip < 2 ^ 15 ∧ f.dstCluster < 16 ∧
    f.dstCore < 8 ∧ f.dstChan < 16 ∧ 1 ≤ f.kind ∧ f.kind ≤ 4 := by decide

/-- A send of no lines on out-channel 0, which the entry uses, with its peer here and with it in a lost die; a word with
a reserved bit and one without a source; choices that are complete and not; messages whose peer is here and gone. -/
theorem wit_ChannelSendAndFree :
    (∀ w ∈ [fields [(4, 56)], fields [(4, 56), (1, 0)]], (let s := issued w 0
    ∃ c, (s.mod.coreSt 0).choice = some c ∧ (s.mod.coreSt 0).issued = some { word := w, pos := 0, block := 0 } ∧
      s.mod.dieHalted 0 = false ∧ bitsOf w 63 56 = 4 ∧ (Mod.sendSource 0 w).isSome = true ∧
      bitOf c.outMask (bitsOf w 55 52) = true ∧ bitOf c.sent (bitsOf w 55 52) = false ∧
      bitsOf w 32 15 ≤ chSize (s.mod.outChan s.mem 0 (bitsOf w 55 52)) ∧
      s.mod.destGone (chPeerChip (s.mod.outChan s.mem 0 0)) (chPeerCluster (s.mod.outChan s.mem 0 0))
        (chPeerCore (s.mod.outChan s.mem 0 0)) = none)) ∧
    bitsOf (fields [(4, 56)]) 14 0 = 0 ∧ bitsOf (fields [(4, 56), (1, 0)]) 14 0 ≠ 0 ∧
    (let s := at_ (fun m => m.fset (Fld.CORE_STATE 0) 4)
    s.mod.destGone 0 0 0 = some .unit ∧ s.mod.ready = true ∧ s.mod.msgs = []) ∧
    bitOf (0 : Nat) 0 = false ∧ Mod.sendSource 0 (fields [(4, 56), (14337, 33)]) = none ∧
    (let s := at_ (fun m => (chosen 383 m).modCore 383 (fun c => { c with choice := c.choice.map (fun d => { d with next := 2 }) }))
    ∃ c, (s.mod.coreSt 383).choice = some c ∧ c.freed = false ∧ s.mod.choiceDone 383 = true) ∧
    ((at_ (chosen 383)).mod.choiceDone 383 = false ∧ ((at_).mod.coreSt 383).choice = none) ∧
    (let x : SentMsg := ⟨7, 0, 2, 0, 0, 0, 1, none, true⟩
    let s := at_ (fun m => { m.fset (Fld.CORE_STATE 0) 4 with msgs := [x], nextId := 8 })
    s.mod.msgs.find? (fun y => y.id == x.id) = some x ∧ s.mod.ready = true ∧
      s.mod.destGone x.dstChip x.dstCluster x.dstCore = none ∧ s.mod.destGone 0 0 0 = some .unit ∧
      (4 : Nat) / 4 ≠ s.mod.self) := by
  refine ⟨?_, by decide, by decide, by decide, by decide, by decide, ⟨_, rfl, by decide, by decide⟩, by decide, by decide⟩
  intro w hw
  simp only [List.mem_cons, List.not_mem_nil, or_false] at hw
  obtain rfl | rfl := hw <;>
    exact ⟨_, rfl, rfl, by decide, by decide, by decide, by decide, by decide, by decide, by decide⟩

/-- A pass of one row, 32 columns and one result: INT8 by INT8, its tiles at units 0 and 16 of the buffer. -/
def passBlock : Nat := fields [(7, 26), (1, 54), (7, 90), (16, 103), (1, 118)]

/-- The pass of core 0 of cluster 0, which holds the array, with 3, -2 in A and 5, 4 in B; no shadow tiles. -/
def passMem (mem : Memory) : Memory :=
  memWrite (memWrite (memWrite mem (transCell 0 0) (leBytes 2 0xFE03)) (transCell 0 1024) (leBytes 1 5))
    (transCell 0 (1024 + 32)) (leBytes 1 4)
def passWord (block : Nat) (mem : Memory) : IssuedWord :=
  { word := 2 ^ 56, pos := 0, block := block
    a := (Mod.passOperands mem 0 block).1, b := (Mod.passOperands mem 0 block).2 }
def passState (block : Nat := passBlock) (f : Mod → Mod := id) : State :=
  let s := issued (2 ^ 56) block (fun m => f ((m.wrN (Reg.CORE_CL_LEASE 0) 8).fset Fld.NUM_SHADOW_LOG2 0))
  let mem := passMem s.mem
  { s with mem := mem, mod := s.mod.modCore 0 (fun c => { c with issued := some (passWord block mem) }) }

/-- The pass that runs, one with an error of Table 3.4, one whose bank is still to be drained, one of an array that is
off; and one with FINISH. -/
theorem wit_ArrayPassStreams :
    ((passState).mod.coreSt 0).issued = some (passWord passBlock (passState).mem) ∧
    bitsOf (passWord passBlock []).word 63 56 = 1 ∧ (passState).mod.dieHalted 0 = false ∧
    ((passWord passBlock (passState).mem).a, (passWord passBlock (passState).mem).b) =
      Mod.passOperands (passState).mem 0 passBlock ∧
    (passState).mod.arrayOff 0 = false ∧ (passState).mod.passError 0 (2 ^ 56) passBlock = 0 ∧
    (((passState).mod.arr 0).drains.any fun d => d.bank == pbBank passBlock) = false ∧
    (passState 0).mod.passError 0 (2 ^ 56) 0 ≠ 0 ∧
    (let s := passState (f := fun m => m.modArr 0 (fun a => { a with drains := [⟨5, 0, pbBank passBlock, 1, 1, false, 0, 0, 0, 1⟩] }))
    s.mod.passError 0 (2 ^ 56) passBlock = 0 ∧ ((s.mod.arr 0).drains.any fun d => d.bank == pbBank passBlock) = true) ∧
    (passState (f := fun m => { m with disabled := [(Mod.fnKey 2 0 0 0, { on := true })] })).mod.arrayOff 0 = true ∧
    (let b := passBlock + 2 ^ 155 + 2 ^ 162
    pbFinish passBlock = false ∧ pbFinish b = true ∧ (passState b).mod.passError 0 (2 ^ 56) b = 0) := by decide

/-- R70: 3 * 5 + (-2) * 4 = 7. -/
theorem test_array_pass : (match Machine.exec (.arrayPass 0 ⟨0, 0, []⟩) passState with
    | .next t => t.mod.bankWord 0 0 0 0
    | _ => 0) = 7 := by decide

theorem wit_ArrayDrainAndRampDown :
    (at_ (fun m => m.fput (Fld.PWR_D_HALTED 3) true)).mod.dieHalted (47 / 12) = true ∧
    (let d : DrainWork := ⟨5, 376, 1, 256, 512, false, 0, 0, 0, 32⟩
    let s := inFlight (.core 376) .array (fun m => m.modArr 47 (fun a => { a with drains := [d] }))
    s.mod.dieHalted (47 / 12) = false ∧
    (s.mod.arr 47).drains = d :: [] ∧ s.mod.findWork d.work = some (flying (.core d.core) .array) ∧ d.core < 384 ∧
      4 * d.nw ≤ 64 * d.pitch ∧ 64 * d.base + ((drainOperand d.core d.space d.dcore d.base d.pitch d.t).span d.m d.nw).len ≤
        0x1000000) ∧
    (∀ n ∈ Mod.coresOf 47, (at_).mod.issuedFor n 1 = none) ∧
    (∃ n ∈ Mod.coresOf 0, ((issued (2 ^ 56) 0).mod.issuedFor n 1).isSome = true) := by
  refine ⟨by decide, by decide, by decide, ⟨0, by decide, by decide⟩⟩

/-- A captured tile of one product, right (6) and wrong (7). -/
def tile (sum : Word) : Capture :=
  { heat := 0, cls := 3, phys := [0], a := [[.fin false 2 0]], b := [[.fin false 3 0]], sums := [[sum]] }

theorem wit_ShadowTilesAndSlagRequests :
    (let s := at_ (fun m => m.modArr 47 (fun a => { a with captures := [tile 6] }))
    s.mod.ready = true ∧ s.mod.dieHalted (47 / 12) = false ∧ (s.mod.arr 47).captures = tile 6 :: [] ∧ s.mod.heatNo ≤ (tile 6).heat + 1) ∧
    (at_).mod.badColumns (tile 6) = [] ∧ (at_).mod.badColumns (tile 7) = [0] ∧
    ((at_).mod.fget Fld.NUM_SHADOW_THRESH ≤ ((at_).mod.arr 0).disagree + 1 ∨
      ((at_).mod.arr 0).disagree + 1 < (at_).mod.fget Fld.NUM_SHADOW_THRESH) ∧
    (at_).Accepts (Reg.ARR_SLAG_REQ 47) (setBit 511 31) .host ∧
    ((at_ (fun m => m.modArr 47 (fun a => { a with failed := true }))).mod.arr 47).failed = true ∧
    (at_).mod.flag (Fld.ARR_FAILED 47) = false := by
  exact ⟨by decide, by decide, by decide, by decide, accepts_of (by decide), by decide, by decide⟩

/-- ADD of two binary32 rows of 2, at lines 1 and 2 of the shared memory, to line 3. -/
def addBlock : Nat :=
  fields [(2, 0), (1, 24), (1, 48), (1, 72), (1, 76), (2, 88), (1, 112), (1, 116), (3, 168), (1, 196), (1, 320)]

/-- A vector operation issued at core 0 with 1.5 and -2 in A, 2 and 2 in B. -/
def vecState (block : Nat := addBlock) : State :=
  let s := issued (2 ^ 57) block
  let mem := memWrite s.mem (sharedCell 0 64) (leBytes 8 0xC00000003FC00000)
  { s with mem := memWrite mem (sharedCell 0 128) (leBytes 8 0x4000000040000000) }

theorem wit_VectorOperations :
    (vecState).mod.issuedFor 0 2 = some (2 ^ 57, 0, addBlock) ∧ (vecState).FreshNumbers ∧
    vecError (2 ^ 57) addBlock = 0 ∧
    opSpace (vbD addBlock) = 0 ∧ opT (vbD addBlock) = false ∧ vbConv addBlock = 1 ∧
    4 * (vecShapeD addBlock).2 ≤ 64 * opPitch (vbD addBlock) ∧
    vecError (2 ^ 57) 0 ≠ 0 ∧
    (inFlight (.core 0) .vector).mod.findWork 5 = some (flying (.core 0) .vector) ∧
    (inFlight (.core 0) .vector).mod.dieHalted (0 / 96) = false := by
  refine ⟨by decide, ?_, by decide, by decide, by decide, by decide, by decide, by decide, by decide, by decide⟩
  exact fresh_of (by decide)

/-- Table 6.4: 1.5 + 2 = 3.5 and -2 + 2 = 0. -/
theorem test_vector_add : (match Machine.exec (.vectorOperation 0) vecState with
    | .next t => memNat t.mem (sharedCell 0 192) 8
    | _ => 1) = 0x40600000 := by decide

theorem wit_LossScaleAndSeedWrites :
    (at_).Accepts Reg.NUM_LS_SET (setBit 16 31) .host ∧ (at_).mod.flag Fld.CAST_RS_LOCKED = false ∧
    (at_).mod.lsSetOk (setBit 16 31) = true ∧ (at_ (fun m => { m with num := { m.num with leRead := some 0 } })).mod.lsSetOk
      (setBit 16 31) = false ∧
    (at_ (fun m => m.fput Fld.CAST_RS_LOCKED true)).Accepts Reg.NUM_LS_SET (setBit 16 31) .host ∧
    (at_ (fun m => m.fput Fld.CAST_RS_LOCKED true)).mod.flag Fld.CAST_RS_LOCKED = true ∧
    (at_ (fun m => { m with num := { m.num with leRead := some 0 } })).Accepts Reg.NUM_LS_SET (setBit 16 31) .host ∧
    (at_).Accepts Reg.NUM_SEED_LO 0xFFFFFFFF .host ∧ (at_).Accepts Reg.NUM_SEED_HI 0xFFFFFFFF .host ∧
    (at_ (fun m => m.fput Fld.CAST_RS_LOCKED true)).Accepts Reg.NUM_SEED_LO 1 .host ∧
    (at_).mod.noCoreBusy = true ∧ (at_ (fun m => m.fput Fld.CAST_RS_LOCKED true)).Accepts Reg.NUM_SEED_HI 1 .host := by
  exact ⟨accepts_of (by decide), by decide, by decide, by decide, accepts_of (by decide), by decide, accepts_of (by decide),
    accepts_of (by decide), accepts_of (by decide), accepts_of (by decide), by decide, accepts_of (by decide)⟩

/-- A staging block of 64 bytes and one slot: tier 0 of die 0 from address 0, core 0's local memory from line 1. -/
def stageBlock (kind : Nat) : Nat :=
  fields [(kind, 0), (1, 353), (3, 357), (1, 359), (1, 366), (localCell 0 64, 384), (0, 448)]

/-- The shared memory instead, which no slot of the core lies in. -/
def stageShared (kind : Nat) : Nat :=
  fields [(kind, 0), (1, 353), (3, 357), (1, 359), (1, 366), (sharedCell 0 64, 384), (0, 448)]

theorem wit_StagingWords :
    (let s := ladled (stageBlock 3)
    (s.mod.stageWord 0 3).2 = some (stageBlock 3) ∧ s.mod.reach 0 false = stOk) ∧
    (let s := ladled (stageBlock 3) (fun m => { m with dieLost := [(0, true)] })
    (s.mod.stageWord 0 3).2 = some (stageBlock 3) ∧ ∀ k, k < 64 → s.mod.reach k false = stTierError) ∧
    (let s := ladled (stageShared 4)
    (s.mod.stageWord 0 4).2 = some (stageShared 4) ∧ placeCell (placeOf s.mod 0) = some 0 ∧
      placeCell (placeOf s.mod (sgSram (stageShared 4))) = some (sharedCell 0 64) ∧
      s.mod.flag (Mod.poisonBit 0 3 0) = false ∧
      s.mod.badIn 0 64 = false ∧ Mod.localOf (sharedCell 0 64) = none) ∧
    (let s := ladled (stageShared 4) (fun m => m.fput (Mod.poisonBit 0 3 0) true)
    (s.mod.stageWord 0 4).2 = some (stageShared 4) ∧ s.mod.flag (Mod.poisonBit 0 3 0) = true) := by decide

/-- A hand-off or START block (kinds 6 and 5) of bucket 1: status record at line 2 of core 0's local memory, gradient in
tier 0 of die 0. -/
def startBlock (kind m : Nat) : Nat := fields [(kind, 0), (m, 357), (0x40, 368), (1, 438), (localCell 0 128, 448)]

theorem wit_HandoffAndStart :
    (let s := ladled (startBlock 6 2)
    (s.mod.stageWord 0 6).2 = some (startBlock 6 2) ∧ s.mod.boundMb 0 % hoM (startBlock 6 2) ≠ hoM (startBlock 6 2) - 1) ∧
    (let s := ladled (startBlock 6 1) busyEngine
    (s.mod.stageWord 0 6).2 = some (startBlock 6 1) ∧ s.mod.boundMb 0 % hoM (startBlock 6 1) = hoM (startBlock 6 1) - 1 ∧
      s.mod.startError s.mem (some 0) (startBlock 6 1) = 0 ∧ s.mod.startBusy (srBucket (startBlock 6 1)) = false ∧
      s.mod.ownRegion (hoG (startBlock 6 1)) 64 false = some 0x40 ∧ s.mod.ownRegion (bkSrc bucket) 64 true = some 0x1000 ∧
      (s.mod.handoffMove s.mem 0 0x40 0x1000 64).2.2 = stOk ∧ s.mod.tables.hold = [] ∧ 16 ≤ s.mod.col.insts.length) ∧
    (let b := fields [(5, 0), (1, 438), (localCell 0 128, 448)]
    let s := ladled b bucketed
    (s.mod.stageWord 0 5).2 = some b ∧ s.mod.startError s.mem (some 0) b = 0 ∧ s.mod.startBusy 1 = false) ∧
    (let b := fields [(5, 0), (1, 438)]
    let s := ringed b busyEngine
    s.mod.ringDesc 63 0 5 = some b ∧ s.mod.startError s.mem none b = 0 ∧ s.mod.startBusy 1 = false) ∧
    (let b := fields [(5, 0), (2, 438)]
    let s := ringed b busyEngine
    s.mod.ringDesc 63 0 5 = some b ∧ s.mod.startError s.mem none b = 2 ∧ s.mod.startBusy 2 = true) ∧
    (let b := fields [(5, 0), (0, 438)]
    let s := ringed b (fun m => { m with col := { m.col with starts := [⟨0, 0, none, none⟩] } })
    s.mod.ringDesc 63 0 5 = some b ∧ s.mod.startError s.mem none b = 0 ∧ s.mod.startBusy 0 = true) := by decide

/-- A COPY (kind 1) or MOVE (kind 2) of 64 bytes from address 0x40 to address 0x1000, both in tier 0 of die 0. -/
def moveBlock (kind : Nat) : Nat := fields [(kind, 0), (64, 248), (0x1000, 384), (0x40, 448)]

theorem wit_CopyAndMove :
    (ringed (moveBlock 1)).FreshNumbers ∧ (ringed (moveBlock 1)).LadleReady 1 (.ring 63 0) (moveBlock 1) ∧
    (ringed (moveBlock 2)).LadleReady 2 (.ring 63 0) (moveBlock 2) ∧
    (ladled (moveBlock 1)).LadleReady 1 (.core 0) ((ladled (moveBlock 1)).mod.relocSrc (ladled (moveBlock 1)).mem 0 (moveBlock 1)) ∧
    (let s := ringed (moveBlock 2)
    s.mod.badLines = [] ∧ s.OwnStretch 0x40 64 0x40 true ∧ s.OwnStretch 0x1000 64 0x1000 false) ∧
    (let b := moveBlock 1
    ldConverts b = false ∧ ldRclr b = false ∧ ldSrcPeer b = none ∧ ldDstPeer b = none ∧ ldSrcFmt b ≠ 15 ∧
      ∀ k, k < ldCount b → Mod.localOf (0x1000 + k) = none) ∧
    (let s := ringed (moveBlock 2)
    let b := moveBlock 2
    s.mod.heldOver s.mem 0x40 (ldCount b) = false ∧ ldCount b % 64 = 0 ∧ ldSrc b = 0x40 ∧ ldDst b = 0x1000 ∧
      ∀ k, k < ldCount b → isTierCell (0x40 + k) = true ∧ isTierCell (0x1000 + k) = true) := by
  refine ⟨?_, ?_, ?_, ?_, ⟨by decide, ?_, ?_⟩, by decide, by decide⟩
  · exact fresh_of (by decide)
  · show Mod.ringDesc _ _ _ _ = _
    decide
  · show Mod.ringDesc _ _ _ _ = _
    decide
  · exact ⟨by decide, by decide, fields [(5, 56)], 0, moveBlock 1, by decide, by decide, by decide⟩
  · unfold State.OwnStretch
    decide
  · unfold State.OwnStretch
    decide

theorem wit_LadleCompletionAndTimeout :
    (∀ who ∈ [Issuer.core 383, Issuer.ring 63 0], (inFlight who .ladle).mod.findWork 5 = some (flying who .ladle) ∧
      (flying who .ladle).open_ = 0 ∧ (inFlight who .ladle).mod.workRetained 5 = false) ∧
    (inFlight (.ring 63 0) .ladle (fun m => { m with hub := { m.hub with
      retained := [⟨0, [], false, .work 5⟩] } })).mod.workRetained 5 = true ∧
    (inFlight (.core 383) .ladle (fun m => m.fput (Fld.PWR_D_HALTED 3) true)).mod.dieHalted (383 / 96) = true ∧
    (inFlight (.core 383) .ladle).mod.dieHalted (383 / 96) = false ∧
    (∀ who ∈ [Issuer.core 383, Issuer.ring 63 0], ∀ run ∈ [true, false],
      let k := { flying who .ladle with due := [(1000000, 0), (70000, 1)] }
      let s := at_ (fun m => { m.fput Fld.HEAT_RUNNING run with works := [k], heat := { m.heat with base := ⟨0, 0, 100⟩ } })
      s.mod.findWork k.id = some k ∧ Mod.earliest (k.due.map (·.1)) = some 70000 ∧ (∀ w ∈ s.mod.works, w.waits = []) ∧
        70000 ≤ tickAt s.mod.heat.base (s.mod.heatNo + 1)) ∧
    (let s := at_ (fun m => { m.fput Fld.HEAT_RUNNING true with heat := { m.heat with base := ⟨0, 0, 69⟩ } })
    s.mod.flag Fld.HEAT_RUNNING = true ∧ tickAt s.mod.heat.base (s.mod.heatNo + 1) < 70000) := by decide

/-- Ring sizes 2^6 and 2^16, and what lies beyond them. -/
theorem wit_RingDescriptorsAndEnables :
    (∀ l ∈ [5, 6, 16, 17], ∀ en ∈ [true, false],
      acceptsB (at_) (Reg.HIF_SQ_CFG 63) (if en then setBit (BitVec.ofNat 32 (l * 2 ^ 16)) 31 else
        clearBit (BitVec.ofNat 32 (l * 2 ^ 16)) 31) .host = true ∧ wordBits (BitVec.ofNat 32 (l * 2 ^ 16)) 20 16 = l) ∧
    (at_ (fun m => m.wrN (Reg.HIF_SQ_CFG 63) (2 ^ 31 + 7 * 2 ^ 16))).mod.sqOn 63 = true ∧ (at_).mod.sqOn 63 = false ∧
    acceptsB (at_ (fun m => m.wrN (Reg.HIF_SQ_CFG 63) (2 ^ 31 + 7 * 2 ^ 16))) (Reg.HIF_SQ_CFG 63)
      (setBit (BitVec.ofNat 32 (6 * 2 ^ 16)) 31) .host = true ∧
    (at_ (fun m => m.wrN (Reg.HIF_SQ_CFG 63) (2 ^ 31 + 7 * 2 ^ 16))).mod.fget (Fld.HIF_SQ_LOG2 63) = 7 ∧
    (let w : RingWork := { ring := 63, index := 0 }
    (at_ (fun m => { m with hub := { m.hub with rings := [w] } })).mod.ringWork 63 0 = some w ∧ w.body = none ∧
      w.started = false) ∧ (at_).mod.detached = false ∧ (at_ (fun m => m.fput Fld.HIF_DETACHED true)).mod.detached = true ∧
    (∀ x ∈ [(true, false), (false, true)], (let w : RingWork := { ring := 63, index := 0, stopping := x.1, refused := x.2 }
    (at_ (fun m => { m with hub := { m.hub with rings := [w] } })).mod.ringWork 63 0 = some w)) ∧
    (∀ v ∈ [(8, 0), (2 ^ 9 + 8, 7), (9, 2)],
      (at_ (fun m => m.wrN (Reg.HIF_SQ_CFG 63) (2 ^ 31 + 6 * 2 ^ 16))).mod.ladleError none (some (63, 0)) v.1 = v.2) ∧
    (ringed 8).mod.ringDesc 63 0 8 = some 8 := by decide

/-- The first bytes of tier 0 of die 0. -/
theorem tier0_low (m : Mod) (h : m.self = 0) (h0 : m.rdN (Reg.MEM_T0_SIZE 0) = 36) (k : Nat) (hk : k < 65536) :
    placeOf m (0 + k) = .tier0 0 k := by
  have a : addrModule (0 + k) = 0 := by unfold addrModule bitsOf; omega
  have b : addrDie (0 + k) = 0 := by unfold addrDie bitsOf; omega
  have c : addrOffset (0 + k) = k := by unfold addrOffset bitsOf; omega
  have d : k < 0xC00000000 := by omega
  have e : k < 36 * 2 ^ 30 := by omega
  unfold placeOf
  rw [a, b, c, h]
  simp only [placeOffset, h0, if_pos d, if_pos e, if_true, Nat.zero_mul, Nat.zero_add]

theorem reach_low (m : Mod) (h : m.self = 0) (h0 : m.rdN (Reg.MEM_T0_SIZE 0) = 36) (hl : m.dieIsLost 0 = false)
    (hh : m.dieHalted 0 = false) (hr : m.rdN (Reg.CAST_RES0 0) = 0) (hb : m.rdN Reg.CAST_BUDDY = 0) (k : Nat)
    (hk : k < 65536) : m.reach (0 + k) true = stOk := by
  have a : addrModule (0 + k) = 0 := by unfold addrModule bitsOf; omega
  have b : addrDie (0 + k) = 0 := by unfold addrDie bitsOf; omega
  have c : addrOffset (0 + k) = k := by unfold addrOffset bitsOf; omega
  have t : isTier2Offset k = false := by
    unfold isTier2Offset tier2Base
    exact decide_eq_false (by omega)
  have d : k < 0xC00000000 := by omega
  have e : k < 36 * 2 ^ 30 := by omega
  have f : k % 2 ^ 49 < tier1Base := by unfold tier1Base; omega
  have g : k / 2 ^ 49 = 0 := by omega
  have n : ∀ x y, bitsOf 0 x y = 0 := by intro x y; simp [bitsOf]
  have z : m.castArea k 1 = false := by
    unfold Mod.castArea Mod.inReserve Mod.inBuddyArea
    simp only [f, g, hr, hb, n, if_true]
    rfl
  unfold Mod.reach
  rw [a, b, c, h]
  simp only [t, placeOffset, h0, if_pos d, if_pos e, hl, hh, Nat.zero_mul, Nat.zero_add, z]
  rfl

theorem reach_bank (m : Mod) (h : m.self = 0) (hl : (m.clusterSt 47).lost = false) (hc : m.coreState 383 ≠ 4) (k : Nat) (hk : k < 65536) :
    m.reach (globalOf m (bankCell 383 1 + k)) false = stOk := by
  have v : globalOf m (bankCell 383 1 + k) = 3 * 2 ^ 49 + (0x80000000000 + 11 * 0x4000000 + 0x2000000 + 7 * 0x100000 + 0xF0000 + k) := by
    simp [globalOf, h, bankCell, localCell, sramBase]; omega
  rw [v]
  have a : addrModule (3 * 2 ^ 49 + (0x80000000000 + 11 * 0x4000000 + 0x2000000 + 7 * 0x100000 + 0xF0000 + k)) = 0 := by
    unfold addrModule bitsOf; omega
  have b : addrDie (3 * 2 ^ 49 + (0x80000000000 + 11 * 0x4000000 + 0x2000000 + 7 * 0x100000 + 0xF0000 + k)) = 3 := by
    unfold addrDie bitsOf; omega
  have c : addrOffset (3 * 2 ^ 49 + (0x80000000000 + 11 * 0x4000000 + 0x2000000 + 7 * 0x100000 + 0xF0000 + k)) =
      0x80000000000 + 11 * 0x4000000 + 0x2000000 + 7 * 0x100000 + 0xF0000 + k := by unfold addrOffset bitsOf; omega
  have o : placeOffset m 3 (0x80000000000 + 11 * 0x4000000 + 0x2000000 + 7 * 0x100000 + 0xF0000 + k) =
      .sram 3 11 (3 * 2 ^ 49 + (0x80000000000 + 11 * 0x4000000 + 0x2000000 + 7 * 0x100000 + 0xF0000 + k)) := by
    have e : (0x80000000000 + 11 * 0x4000000 + 0x2000000 + 7 * 0x100000 + 0xF0000 + k - sramBase) % 0x4000000 =
        0x2000000 + 7 * 0x100000 + 0xF0000 + k := by unfold sramBase; omega
    have f : (0x80000000000 + 11 * 0x4000000 + 0x2000000 + 7 * 0x100000 + 0xF0000 + k - sramBase) / 0x4000000 = 11 := by
      unfold sramBase; omega
    have g : sramMapped (0x2000000 + 7 * 0x100000 + 0xF0000 + k) = true := by simp [sramMapped]; omega
    unfold placeOffset
    rw [if_neg (by omega), if_neg (by unfold tier1Base; omega), if_pos (by unfold sramBase; omega), e, f, if_pos g]
  have t : isTier2Offset (0x80000000000 + 11 * 0x4000000 + 0x2000000 + 7 * 0x100000 + 0xF0000 + k) = false := by
    unfold isTier2Offset tier2Base
    exact decide_eq_false (by omega)
  have d : m.sramDown (3 * 2 ^ 49 + (0x80000000000 + 11 * 0x4000000 + 0x2000000 + 7 * 0x100000 + 0xF0000 + k)) = false := by
    have x : (3 * 2 ^ 49 + (0x80000000000 + 11 * 0x4000000 + 0x2000000 + 7 * 0x100000 + 0xF0000 + k)) / 2 ^ 49 * 12 +
        ((3 * 2 ^ 49 + (0x80000000000 + 11 * 0x4000000 + 0x2000000 + 7 * 0x100000 + 0xF0000 + k)) % 2 ^ 49 - sramBase) /
          0x4000000 = 47 := by unfold sramBase; omega
    have y : (((3 * 2 ^ 49 + (0x80000000000 + 11 * 0x4000000 + 0x2000000 + 7 * 0x100000 + 0xF0000 + k)) % 2 ^ 49 -
        sramBase) % 0x4000000 - 0x2000000) / 0x100000 = 7 := by unfold sramBase; omega
    unfold Mod.sramDown
    simp only [x, y, hl, beq_eq_false_iff_ne.mpr hc]
    simp
  unfold Mod.reach
  rw [a, b, c, h]
  simp only [t, o, d]
  rfl

/-- A pattern load for core 383, from tier 0 of die 0. -/
def loadBlock : Nat := fields [(7, 0), (7, 378), (11, 381), (3, 385)]

theorem wit_PatternLoadFillsTheInactiveBank :
    (ringed loadBlock).mod.ringDesc 63 0 7 = some loadBlock ∧ Mod.plTarget loadBlock = 383 ∧
    (ringed loadBlock (fun m => m.fput (Fld.CORE_SWITCH_ARM 383) true)).mod.flag (Fld.CORE_SWITCH_ARM 383) = true ∧
    ((ringed loadBlock (fun m => m.setCluster 47 { missing := true })).mod.clusterSt 47).missing = true ∧
    (let s := ringed loadBlock
    (s.mod.clusterSt 47).missing = false ∧ s.mod.flag (Fld.CORE_SWITCH_ARM 383) = false ∧ (s.mod.coreSt 383).loading = none ∧ s.mod.badLines = [] ∧
      plSrc loadBlock % 64 = 0) ∧
    (let s := ringed loadBlock
    s.OwnStretch (plSrc loadBlock) 65536 0 true ∧
      ∀ k, k < 65536 → s.mod.reach (globalOf s.mod (bankCell 383 (1 - s.mod.activeBank 383) + k)) false = stOk) := by
  refine ⟨by decide, by decide, by decide, by decide, by decide, ?_, ?_⟩
  · intro k hk
    have h : placeOf (ringed loadBlock).mod (plSrc loadBlock + k) = .tier0 0 k := tier0_low _ (by decide) (by decide) k hk
    exact ⟨by rw [h, Nat.zero_add]; rfl, reach_low _ (by decide) (by decide) (by decide) (by decide) (by decide) (by decide) k hk⟩
  · exact fun k hk => reach_bank _ (by decide) (by decide) (by decide) k hk

/-- A dense apply of rule slot 0 to one element: master at 0x3000, gradient at 0x1000, BF16 weight to 0x2000. -/
def applyBlock : Nat := fields [(1, 140), (2, 192), (1, 224), (0x2000, 320), (0x1000, 384), (0x3000, 448)]

/-- It is issued at core 0; bucket 0 of step 0 has ended with a status. -/
def applying (block : Nat) (ended : Option Nat) (f : Mod → Mod := id) : State :=
  issued (fields [(7, 56)]) block (fun m =>
    let m1 := f ((tiered m).fput Fld.NUM_GUARD_EN false)
    { m1 with col := { m1.col with results := match ended with | some st => [⟨0, 0, st, 0⟩] | none => [] } })

theorem wit_DenseApplyUpdates :
    (∀ e ∈ [some 0, some stRouteLost, none],
      let s := applying applyBlock e
      s.mod.issuedFor 0 7 = some (fields [(7, 56)], 0, applyBlock) ∧ s.mod.coreApplies 0 1 = [] ∧
      (s.mod.atIssue 0 (abRule applyBlock)).applyError (fields [(7, 56)]) applyBlock = 0 ∧
      (s.mod.denseCheck applyBlock (s.mod.issuedWord 0).rule (s.mod.boundStep 0)).map (·.status) = e) ∧ (applying applyBlock none).FreshNumbers ∧
    (applying applyBlock none).mod.badLines = [] ∧ placeCell (placeOf (applying applyBlock none).mod 0x3000) = some 0x3000 ∧
    placeCell (placeOf (applying applyBlock none).mod 0x2000) = some 0x2000 ∧ (0x2000 + rowBytes 2 1 ≤ 0x3000) ∧
    (∀ x ∈ [0x3000, 0x1000, 0x2000], (applying applyBlock (some 0)).mod.stackDown x = false) ∧
    abKind applyBlock = 1 ∧
    (let b := fields [(1, 140)]
    ((applying b none).mod.atIssue 0 (abRule b)).applyError (fields [(7, 56)]) b ≠ 0 ∧ abKind b = 1) ∧
    (applying applyBlock none (fun m => m.fput Fld.NUM_GUARD_EN true)).mod.verdictOf 0 = none ∧
    (at_).Accepts (Reg.MEM_OPT_CTRL 255) (setBit 15 31) .host :=
  ⟨by decide, fresh_of (by decide), by decide, by decide, by decide, by decide, by decide, by decide, by decide,
    by decide, accepts_of (by decide)⟩

/-- A drain of ledger slot 0 by the sparse rule 3 (R166). -/
def drainBlock : Nat := fields [(2, 140), (0x22, 192)]

/-- It is issued; the ledger is empty, or holds an entry of row 5 of step 0. -/
def draining (entry : Bool) : State :=
  let s := applying drainBlock none (fun m => let m1 := ledgered m; { m1 with tables := { m1.tables with rules := [(0, { rule := 3 })] } })
  { s with mod := s.mod.modCore 0 (fun c => { c with issued := c.issued.map (fun x => { x with rule := { rule := 3 } }) }),
           mem := if entry then memWrite s.mem tier1Base (leBytes 14 5 ++ leBytes 2 0x8001) else s.mem }

theorem wit_LedgerDrainApplies :
    (∀ e ∈ [true, false],
      let s := draining e
      s.mod.issuedFor 0 7 = some (fields [(7, 56)], 0, drainBlock) ∧ s.mod.coreApplies 0 2 = [] ∧
      abKind drainBlock = 2 ∧ abLedger drainBlock = 0 ∧ s.mod.works = [] ∧ (s.mod.issuedWord 0).rule = { rule := 3 } ∧
      (s.mod.issuedWord 0).heat = 0 ∧ (s.mod.atIssue 0 (abRule drainBlock)).applyError (fields [(7, 56)]) drainBlock = 0 ∧
      s.mod.lgDelay 0 = 0 ∧
      s.mod.drainDue s.mem { work := s.mod.nextId, core := 0, block := drainBlock, rule := { rule := 3 } }
        (flying (.core 0) .optimiser) = if e then [0] else []) ∧ (draining true).FreshNumbers ∧
    (let s := draining true
    s.mod.dirEntry (s.mod.lgTable 0) = some tableEntry ∧ Mod.leVersion s.mem tier1Base = tdVersion tableEntry ∧
      s.mod.lgCell 0 0 = tier1Base ∧ (s.mod.drainCheck 1 { rule := 3 } 0).map (·.status) = some stOk ∧
      s.mod.badLines = [] ∧ s.mod.tables.hold = [] ∧
      s.mod.stackDown tier1Base = false ∧ s.mod.sramDown tier1Base = false ∧ replyFor [] (globalOf s.mod tier1Base) = none ∧
      Memory.wf s.mem ∧ cvFmt (abConv drainBlock) = tdFormat tableEntry ∧ s.mod.lgCount 0 = 1 ∧
      s.mod.moveHolds (s.mod.lgTable 0) (Mod.leRow s.mem tier1Base) 0 = false ∧ Mod.leRow s.mem tier1Base = 5 ∧
      (s.mod.rowHome tableEntry 1 5 0).1 = 0x4000 + 5 * 64 ∧ rowBytes (tdFormat tableEntry) (tdDim tableEntry) = 2) ∧
    (let s := draining true
    (s.mod.wrN (Reg.COL_TN 63) (2 ^ 31 + 1)).drainCheck 1 { rule := 3 } 0 = none) ∧
    (let b := fields [(2, 140), (0x122, 192)]
    ((applying b none).mod.atIssue 0 (abRule b)).applyError (fields [(7, 56)]) b ≠ 0 ∧ abKind b = 2) ∧
    (let s := draining true
    s.OwnStretch (0x4000 + 5 * 64) 2 (0x4000 + 5 * 64) true ∧ s.OwnStretch (0x4000 + 5 * 64) 2 (0x4000 + 5 * 64) false ∧
      isTierCell (0x4000 + 5 * 64) = true ∧ 0x4000 + 5 * 64 + 2 ≤ tier1Base) := by
  refine ⟨by decide, fresh_of (by decide), by decide, by decide, by decide, ?_⟩
  unfold State.OwnStretch
  decide

/-- A lookup of table 1: one bag of one index, list at line 1, record at line 2, D at line 3 of the shared memory. -/
def lookupBlock (table : Nat := 1) : Nat :=
  fields [(0, 250), (table, 238), (2, 274), (3 * 2 ^ 18, 294), (1, 314), (3, 334), (1, 362), (1, 384)]

def looking (table : Nat := 1) : State := issued (fields [(3, 56)]) (lookupBlock table) tabled

/-- The lookup has been issued; its row has landed; its bag has been pooled. -/
def looked : State := after (.pickerLookup 0 1 0) (looking)
def landed : State := after (.rowLand (lookup1 looked).work 0 none) looked
def pooled : State := after (.bagPool (lookup1 looked).work 0) landed

/-- The request of its only row. -/
def request1 : RowReq := ((lookup1 looked).reqs[0]?).getD { pos := 9, part := 9, table := 9, row := 9, addr := 9 }

/-- The lookup while its row moves to address 0x8000 of this module, from heat 0 on. -/
def lookedMoving : State := { looked with mod := { looked.mod with tables := { looked.mod.tables with
  moved := [(0, some { entry := fields [(1, 52), (0x8000, 64)], moving := true, fence := 0 })] } } }

theorem wit_LookupsRequestPoolAndComplete :
    ((looking).mod.issuedFor 0 3 = some (fields [(3, 56)], 0, lookupBlock) ∧ (looking).mod.pickerOff 0 1 = false ∧
    (looking).mod.flag (Fld.PICK_BUSY 0 1) = false ∧ ((looking).mod.atIssue 0 0).lookupError (fields [(3, 56)]) lookupBlock = 0 ∧
    ((looking 2).mod.atIssue 0 0).lookupError (fields [(3, 56)]) (lookupBlock 2) ≠ 0 ∧
    ((looking).mod.fput (Fld.PICK_BUSY 0 1) true).flag (Fld.PICK_BUSY 0 1) = true ∧
    ({ (looking).mod with disabled := [(Mod.fnKey 1 0 0 1, { on := true })] } : Mod).pickerOff 0 1 = true ∧
    tdStored tableEntry = true) ∧
    (looked.mod.findLookup (lookup1 looked).work = some (lookup1 looked) ∧
      (looked.mod.findWork (lookup1 looked).work).isSome = true ∧ (lookup1 looked).core < 384 ∧
      (lookup1 looked).picker < 2 ∧ (lookup1 looked).reqs[0]? = some request1 ∧ request1.status = none ∧
      request1.due = some 50000 ∧ looked.mod.waitsRefresh (lookup1 looked) request1 = false ∧
      ((looked.mod.servedHere (lookup1 looked) 0 request1).map fun v =>
        let x := v.rechoose (lookup1 looked) request1
        (x.1.drup.isSome, v.rowRoute 1 0 (lookup1 looked).heat x.1.addr,
          match (x.2.tierAns looked.mem 0x4000 (Mod.reqLen (lookup1 looked) request1) none).1 with
          | .done st bytes => some (st, bytes)
          | _ => none)) = some (false, .serve 0x4000 false, some (0, [0, 0])) ∧
      ((lookedMoving.mod.servedHere (lookup1 lookedMoving) 0 request1).map fun v =>
        v.rowRoute 1 0 0 0x4000) = some (.hold 0 0x8000 true) ∧ looked.mod.flag Fld.HEAT_RUNNING = false) ∧
    (landed.mod.findLookup (lookup1 landed).work = some (lookup1 landed) ∧ 0 < pkBags (lookup1 landed).block ∧
      (landed.mod.findWork (lookup1 landed).work).isSome = true ∧
      (lookup1 landed).pooled.any (fun p => p.1 == 0) = false ∧ landed.mod.dieHalted 0 = false ∧ pooled.mod.dieHalted 0 = false ∧
      (∀ q ∈ (lookup1 landed).reqs, q.status.isSome = true)) ∧
    (pooled.mod.findLookup (lookup1 pooled).work = some (lookup1 pooled) ∧
      pooled.mod.findWork (lookup1 pooled).work = some (work1 pooled) ∧
      (work1 pooled).who = .core (lookup1 pooled).core ∧ (work1 pooled).unit = .picker ∧
      (lookup1 pooled).pooled.length = pkBags (lookup1 pooled).block ∧ lsSpace (pkStat (lookup1 pooled).block) = 0) := by
  refine ⟨by decide, ?_, ?_, ?_⟩ <;> decide

/-- Shadows loaded, for heat 2: bucket 2, table 2 like table 1, a second version of table 1, a promotion and a move of
its row 5. -/
def armed (sel sh : Nat) (f : Mod → Mod := id) : State :=
  at_ (fun m => f ((((tabled m).wrN Reg.MEM_TD_SEL sel).wrN Reg.MEM_TD_AT_LO 2 |>.setBase64 Reg.MEM_HOT_AT_LO 2 |>.setBase64
    Reg.MEM_MV_AT_LO 2) |> loadWords Reg.MEM_TD_SHADOW 16 sh))
def hotShadow : Nat := fields [(5, 0), (1, 52), (1, 64), (0x8000, 512)]
def moveShadow : Nat := fields [(5, 0), (1, 52), (0x9000, 64)]

theorem wit_MapOperationsAreArmed :
    ((armed 2 tableEntry).mod.tdArmError 0 = 0 ∧ (armed 1 (tableEntry + 1 <<< 292)).mod.tdArmError 1 = 0 ∧
      (armed 1 0).mod.tdArmError 2 = 0 ∧ (armed 1 tableEntry).mod.tdArmError 0 = 2 ∧ (armed 1 tableEntry).mod.tdArmError 1 = 7 ∧
      (armed 2 0).mod.tdArmError 2 = 2 ∧ ∀ op ∈ [0, 1, 2], acceptsB (armed 2 0) Reg.MEM_TD_CMD (setOp 0 op) .host = true) ∧
    (let s := armed 1 0 (loadWords Reg.MEM_HOT_SHADOW 32 hotShadow)
    s.mod.hotArmError 0 = 0 ∧ s.mod.hotArmError 1 = 2 ∧ (s.mod.setHot 0 (some { entry := hotShadow, since := 0 })).hotArmError 1 = 0 ∧
      (s.mod.setHot 0 (some { entry := hotShadow, since := 0 })).hotArmError 0 = 2 ∧
      ∀ op ∈ [0, 1], acceptsB s Reg.MEM_HOT_CMD (setOp 0 op) .host = true) ∧
    (let s := armed 1 0 (loadWords Reg.MEM_MV_SHADOW 4 moveShadow)
    s.mod.moveArmError = 0 ∧ (armed 1 0).mod.moveArmError = 3 ∧ acceptsB s Reg.MEM_MV_CMD (setBit 0 31) .host = true) ∧
    (let s := at_ (fun m => loadWords Reg.COL_BK_SHADOW 16 bucket ((tiered m).wrN Reg.COL_BK_SEL 2))
    let t := at_ (fun m => { (tiered m).wrN Reg.COL_BK_SEL 2 with
      col := { m.col with starts := [⟨2, 0, none, none⟩] } })
    s.mod.bucketOpStatus s.mod.bkSel 0 s.mod.bkShadow = stOk ∧ s.mod.bucketOpStatus s.mod.bkSel 1 s.mod.bkShadow = stOk ∧
      (at_).mod.bucketOpStatus 0 0 0 = stMalformed ∧ t.mod.bucketOpStatus t.mod.bkSel 1 0 = stAccessDenied ∧
      ∀ op ∈ [0, 1], acceptsB s Reg.COL_BK_CMD (setOp 0 op) .host = true) := by
  refine ⟨?_, ?_, ?_, ?_⟩ <;> decide

theorem wit_MapWritesAndDrains :
    acceptsB (at_) Reg.MEM_TD_MAP_HI 0 .host = true ∧ (at_).mod.mapInUse (at_).mod.mapSel = false ∧
    (at_).mod.rdN Reg.MEM_TD_MAP_LO % 64 = 0 ∧ (at_ tabled).mod.mapInUse (at_ tabled).mod.mapSel = true ∧
    (at_ (fun m => m.wrN Reg.MEM_TD_MAP_LO 63)).mod.rdN Reg.MEM_TD_MAP_LO % 64 ≠ 0 ∧
    (let s := at_ (fun m => { m with tables := { m.tables with dirDrain := [(4095, some 3)], hotDrain := [(16383, some 3)] } })
    tabGet (fun _ => none) s.mod.tables.dirDrain 4095 = some 3 ∧ tabGet (fun _ => none) s.mod.tables.hotDrain 16383 = some 3) := by
  decide

/-- A contribution of one binary32 element (kind ADDRESS) from line 1 of the shared memory to address 0x1000. -/
def addressBlock : Nat :=
  fields [(1, 230), (1, 233), (2, 316), (3 * 2 ^ 18, 336), (1, 376), (1, 400), (1, 404), (1, 416), (0x1000, 448)]

def contributing (f : Mod → Mod := id) : State := issued (fields [(6, 56)]) addressBlock (fun m => f (tiered m))
def contributed : State := after (.contribution 0 1 0) (contributing)
def rowed : State := after (.contributionRowTimeout (contrib1 contributed).work 0) contributed
def someRow (table : Option Nat) (row addr : Nat) : FarRow :=
  { table := table, row := row, addr := addr, heat := 0, time := 0, version := 0, ordered := false, step := 36, chip := 0
    seq := 1, dfmt := 1, sfmt := 1, vals := [0x3F800000] }
def contribRow1 : ContribRow := ((contrib1 contributed).rows[0]?).getD { far := someRow none 9 9, track := false }

/-- A row of a contribution to row 5 of table 1, which moves: within the module, or to module 1; its row is at its home, or
the home is elsewhere. -/
def rowState (new : Nat) (landed : Bool := false) (addr : Nat := 0x4140) : State :=
  inFlight (.core 0) .crucible (fun m =>
    let m1 := ledgered m
    { m1 with tables := { m1.tables with
      moved := [(0, some { entry := fields [(5, 0), (1, 52), (new, 64)], moving := true, fence := 0 })]
      contribs := [{ work := 5, core := 0, picker := 1, block := 0, oor := 0, rows := [
        { far := someRow (some 1) 5 addr, track := true, due := some 50000, landed := landed }] }] } })

/-- What its row meets in its turn. -/
def rowFate (s : State) (k : Nat) (r : ContribRow) : Option RowFate :=
  (s.mod.serve r.far.addr (r.far.vals.length * crBytes r.far.dfmt) (.contrib k 0)).map fun v => (v.homeRow s.mem r.far none).2.2

theorem wit_ContributionsReachTheirHomes :
    ((contributing).mod.issuedFor 0 6 = some (fields [(6, 56)], 0, addressBlock) ∧ (contributing).mod.pickerOff 0 1 = false ∧
      (contributing).mod.flag (Fld.PICK_BUSY 0 1) = false ∧
      ((contributing).mod.atIssue 0 0).contribError (fields [(6, 56)]) addressBlock = 0 ∧ ccKind addressBlock = 1 ∧
      ((issued (fields [(6, 56)]) 0).mod.atIssue 0 0).contribError (fields [(6, 56)]) 0 ≠ 0 ∧ (issued (fields [(6, 56)]) 0).mod.issuedFor 0 6 = some (fields [(6, 56)], 0, 0) ∧
      ((contributing).mod.fput (Fld.PICK_BUSY 0 1) true).flag (Fld.PICK_BUSY 0 1) = true ∧
      (contributing (fun m => { m with disabled := [(Mod.fnKey 1 0 0 1, { on := true })] })).mod.pickerOff 0 1 = true) ∧
    (contributed.mod.findContrib (contrib1 contributed).work = some (contrib1 contributed) ∧
      (contributed.mod.findWork (contrib1 contributed).work).isSome = true ∧ (contrib1 contributed).core < 384 ∧
      (contrib1 contributed).picker < 2 ∧
      (contrib1 contributed).rows[0]? = some contribRow1 ∧ contribRow1.outcome = none ∧ contribRow1.landed = false ∧
      contribRow1.due = some 50000 ∧ contributed.mod.flag Fld.HEAT_RUNNING = false ∧
      addrModule contribRow1.far.addr = contributed.mod.self ∧
      contributed.mod.rowBehind (contrib1 contributed) 0 contribRow1 = false ∧ contributed.mod.reach contribRow1.far.addr false = stOk ∧
      rowFate contributed (contrib1 contributed).work contribRow1 = some (.ended stOk)) ∧
    (∀ x ∈ [(rowState 0x9000, RowFate.held 0 0x9000), (rowState (2 ^ 51 + 0x9000), RowFate.away)],
      rowFate x.1 5 (((contrib1 x.1).rows[0]?).getD contribRow1) = some x.2 ∧ (contrib1 x.1).work = 5 ∧
      x.1.mod.rowBehind (contrib1 x.1) 0 (((contrib1 x.1).rows[0]?).getD contribRow1) = false ∧
      x.1.mod.reach 0x4140 false = stOk ∧ (x.1.mod.findWork 5).isSome = true) ∧
    ((((contrib1 (rowState 0x9000 true)).rows[0]?).getD contribRow1).landed = true ∧
      addrModule (((((contrib1 (rowState 0x9000 false (2 ^ 51))).rows[0]?).getD contribRow1).far.addr)) ≠ (at_).mod.self) ∧
    (rowed.mod.findContrib (contrib1 rowed).work = some (contrib1 rowed) ∧
      rowed.mod.findWork (contrib1 rowed).work = some (work1 rowed) ∧ (work1 rowed).who = .core (contrib1 rowed).core ∧
      (work1 rowed).unit = .crucible ∧ (contrib1 rowed).rows.all (fun r => r.outcome.isSome) = true ∧
      lsSpace (ccStat (contrib1 rowed).block) = 0) := by
  refine ⟨?_, ?_, ?_, ?_, ?_⟩ <;> decide

/-- A row of table 1 from module 9, for ledger slot 0. -/
theorem wit_ContributionRowArrives : (let s := at_ ledgered
    let r := someRow (some 1) 5 (0x4000 + 5 * 64)
    addrModule r.addr = s.mod.self ∧ s.mod.rowRoute 1 r.row r.heat r.addr = .serve r.addr false ∧ s.mod.dirEntry 1 = some tableEntry ∧ tdVersion tableEntry = r.version ∧
      s.mod.reach r.addr false = stOk ∧ placeCell (placeOf s.mod r.addr) = some (0x4000 + 5 * 64) ∧
      s.mod.homeRefused (0x4000 + 5 * 64) = false ∧ s.mod.lgSlot 1 = some 0 ∧ s.mod.lgDelay 0 = 0 ∧
      isTierCell (0x4000 + 5 * 64) = true ∧ r.ordered = false ∧ r.sfmt = 1 ∧ (s.mod.lgSt 0).drained = none ∧
      s.mod.lgFind s.mem 0 r.row r.step = none ∧ s.mod.lgFree s.mem 0 = some 0 ∧ r.vals.length ≤ tdDim tableEntry ∧
      s.mod.badLines = [] ∧ s.mod.lgCell 0 0 + s.mod.lgSize 0 ≤ sramBase) := by decide

theorem wit_CrucibleAddAndReadClear :
    (let s := at_ tiered
    let t := at_ (fun m => { tiered m with disabled := [(Mod.fnKey 6 0 0 0, { on := true })] })
    placeCell (placeOf s.mod 0x1000) = some 0x1000 ∧ isTierCell 0x1000 = true ∧ crPairOk 15 15 = true ∧ crFmtOk 2 = true ∧
      0x1000 % crBytes 15 = 0 ∧ s.mod.reach 0x1000 false = stOk ∧ s.mod.homeRefused 0x1000 = false ∧ s.mod.badLines = [] ∧
      t.mod.homeRefused 0x1000 = true ∧ t.mod.reach 0x1000 false = stOk ∧ s.mod.badIn 0x1000 64 = false ∧
      s.mod.heldIn 0x1000 64 = false) ∧
    (∀ x ∈ [Answer.tierTimeout, .tierError], answerStatus x ≠ stOk ∧ x ≠ .uncorrectable []) ∧
    (let r : HeldRow := ⟨.addr 0x1000, 0, 0, 0, 0, 0, 1, 1, 64, [(0x1000, 0x3F800000)], false⟩
    r.els = [(0x1000, 0x3F800000)] ∧ r.dest = .addr 0x1000 ∧ 0x1000 + crBytes r.dfmt ≤ 0x1000 + 64 ∧
      0x1000 / 64 = (0x1000 + 64 - 1) / 64) := by decide

/-- Row 5 of table 1 is promoted with one drupelet, and moves to 0x9000. -/
def hot1 : HotEntry := { entry := hotShadow, since := 0 }
def promoted (f : Mod → Mod := id) : State := at_ (fun m => f ((tabled m).setHot 0 (some hot1)))
def move1 (copied : Bool) (new : Nat := 0x9000) : MovedRow :=
  { entry := fields [(5, 0), (1, 52), (new, 64)], td := tableEntry, old := 0x4140, base := 0x4140, moving := true
    copied := copied, fence := 0 }
def moving (copied : Bool) (new : Nat := 0x9000) : State := at_ (fun m => (tabled m).setMoved 0 (some (move1 copied new)))

theorem wit_HotRowsRefreshAndRowsMove :
    ((at_ (fun m => m.fset Fld.MEM_HOT_DECAY 1)).mod.heatNo % 2 ^ 1 = 0 ∧
      (at_ (fun m => m.fset Fld.MEM_HOT_DECAY 1)).mod.fget Fld.MEM_HOT_DECAY = 1 ∧
      (at_).mod.tables.decayed ≠ some (at_).mod.heatNo ∧ tabWf (fun _ => 0) (at_).mod.tables.sketch = true ∧
      State.reset.mod.ready = false) ∧
    ((promoted).mod.hotEntry 0 = some hot1 ∧ hmTable hotShadow = 1 ∧ hmCount hotShadow = 1 ∧
      hmDrup hotShadow 0 = 0x8000 ∧ (promoted).mod.refreshDue hot1 = true ∧ (promoted).mod.hotHomeHere hot1 = true ∧
      isTierCell 0x8000 = true ∧ isTierCell 0x4140 = true ∧ (promoted).mod.dirEntry 1 = some tableEntry ∧
      (promoted).mod.refreshDue { hot1 with read := some (0, stOk, [1, 2]) } = true ∧
      ((promoted).mod.rowHome tableEntry 1 (hmRow hotShadow) 0).1 = 0x4140 ∧ (promoted).OwnStretch 0x4140 2 0x4140 true ∧
      (promoted).OwnStretch 0x8000 2 0x8000 false) ∧
    (∀ c ∈ [true, false], (moving c).mod.movedEntry 0 = some (move1 c) ∧ (Mod.moveSite (move1 c)).old = 0x4140 ∧
      (Mod.moveSite (move1 c)).new = 0x9000 ∧ addrModule 0x4140 = (moving c).mod.self ∧
      (moving c).mod.stateAt (Mod.moveSite (move1 c)) 0x4140 = none ∧ (moving c).mod.badLines = [] ∧
      (moving c).mod.moveBusy (Mod.moveSite (move1 c)) (move1 c).fence = false ∧ (move1 c).failed = false ∧
      (move1 c).put = 0 ∧ isTierCell 0x4140 = true ∧ isTierCell 0x9000 = true ∧ canon 0x9000 ≠ canon 0x4140) ∧
    (looked.mod.moveBusy (Mod.moveSite { move1 false with entry := fields [(1, 52), (0x9000, 64)], old := 0x4000 }) 1 = true) ∧
    (let g := { hot1 with done := some 0 }
    (promoted (fun m => m.setHot 0 (some g))).mod.hotEntry 0 = some g ∧ g.done = some (promoted).mod.heatNo ∧
      hot1.done ≠ some (promoted).mod.heatNo ∧ hot1.read = none ∧ (promoted).mod.badLines = [] ∧
      (promoted).mod.moveHolds (hmTable hotShadow) (hmRow hotShadow) 0 = false ∧
      (promoted (fun m => { m with tables := { m.tables with homeMap := [(0, 2 ^ 51 + 0x4000)] } })).mod.hotHomeHere hot1 = false) ∧
    ((moving true).OwnStretch 0x9000 2 0x9000 false ∧ (moving true).OwnStretch 0x9040 2 0x9040 false ∧
      (moving true).OwnStretch 0x4140 2 0x4140 true ∧ (0x9000 : Nat) + 2 ≤ 0x9040 ∧ isTierCell 0x9040 = true) ∧
    (addrModule (Mod.moveSite (move1 false (2 ^ 51 + 0x9000))).new ≠ (at_).mod.self) := by
  unfold State.OwnStretch
  refine ⟨?_, ?_, ?_, ?_, ?_, ?_, ?_⟩ <;> decide

theorem wit_TierScrubsCreditsAndStacks :
    (let s := at_ (fun m => m.fput Fld.MEM_SCRUB_EN true)
    s.mod.ready = true ∧ s.mod.flag Fld.MEM_SCRUB_EN = true ∧ isTierCell 0 = true ∧ channelOf 0 = 0 ∧
      channelOf tier1Base = 256 ∧ s.mod.lineState 0 = 0 ∧
      (at_ (fun m => m.fput Fld.MEM_SCRUB_EN false)).mod.flag Fld.MEM_SCRUB_EN = false) ∧
    (let s := at_ (fun m => (m.fput Fld.MEM_RC_PROFILE true).setPooled 287 5 1)
    s.mod.capacityProfile = true ∧ 0 < s.mod.pooled 287 5 ∧ s.mod.creditsUsed 287 5 < 2 + s.mod.pooled 287 5 ∧
      s.mod.flag Fld.HEAT_RUNNING = false ∧ (at_).mod.capacityProfile = false) ∧
    (let s := at_ (fun m => { ((m.fput Fld.MEM_RC_PROFILE true).setPooled 287 5 1).fput Fld.HEAT_RUNNING true with
      heat := { m.heat with base := ⟨0, 0, 1⟩ } })
    0 < s.mod.pooled 287 5 ∧ tabGet (fun _ => 0) (s.mod.chan 287).idle 5 + 1000 ≤ tickAt s.mod.heat.base (s.mod.heatNo + 1)) ∧
    (let s := at_ (fun m => { ((m.fput Fld.MEM_RC_PROFILE true).setPooled 287 5 1).fput Fld.HEAT_RUNNING true with
      heat := { m.heat with base := ⟨0, 0, 0⟩ } })
    0 < s.mod.pooled 287 5 ∧ tickAt s.mod.heat.base (s.mod.heatNo + 1) < tabGet (fun _ => 0) (s.mod.chan 287).idle 5 + 1000) ∧
    (∀ c ∈ [0, 83, 84, 85, 94, 95, 104, 105], (at_ (fun m => m.fset (Fld.MEM_STK_STATE 3 3) 1)).mod.ready = true ∧ c < 256) := by
  decide

/-- Aperture 0 maps tier 0 of die 0; the tiers are there, or not. -/
def aper (f : Mod → Mod := tiered) : State := at_ (fun m => { f m with taken := [(Reg.HIF_B2_MAP_LO 0, 1)] })

/-- A mapped read whose answer is an error, a mapped write, unmapped bytes; and what Bar2ReachesMemory asks of a line no lane
holds back. -/
theorem wit_Bar2MissesAndFailures :
    (aper).mod.ready = true ∧ (aper).mod.boot.powered = true ∧ (aper).mod.bar2Map 0 = some 0 ∧
    (∀ k, k < 8 → (at_).mod.bar2Map (0 + k) = none) ∧ (0 : Nat) / 64 = (0 + 64 - 1) / 64 ∧
    ((aper).mod.readReq (aper).mem 0 64 (some .tierError)).1 = .done stTierError [] ∧
    ((aper).mod.readReq (aper).mem 0 64 (some .tierTimeout)).1 = .done stTierTimeout [] ∧
    ((aper).mod.writeReq (aper).mem true false 0 [1, 2] .far (some .tierError)).2.2 = some stTierError ∧
    (aper).mod.bar2Overruns (aper).mem (some 0, 2) = false ∧ placeCell (placeOf (aper).mod 0) = some 0 ∧
    isTierCell 0 = true ∧ (aper).mod.badLines = [] ∧ (aper).mod.reachAll 0 64 true = stOk ∧ (aper).mod.reachAll 0 64 false = stOk ∧
    (aper).mod.unreleased (aper).mem 0 64 = false ∧
    (let s := aper (fun m => { tiered m with taken := [(Reg.HIF_B2_MAP_LO 0, 0x80000000001)] })
    let t : State := { s with mod := { s.mod with taken := [(Reg.HIF_B2_MAP_LO 0, 0x80000000001)] } }
    t.mod.bar2Map 0 = some 0x80000000000 ∧ placeCell (placeOf t.mod 0x80000000000) = some 0x80000000000 ∧
      isTierCell 0x80000000000 = false ∧ t.mod.reachAll 0x80000000000 64 false = stOk ∧
      t.mod.unreleased t.mem 0x80000000000 64 = false) := by decide

/-- Producer 0's lane, in a reservoir that begins 240 GiB into tier 1, holds 100 committed bytes; aperture 0 maps it. -/
def lane : State :=
  let s := aper (fun m => (((tiered m).fset Fld.ING_RES_BASE 240).fput (Fld.ING_P_EN 0) true).fset (Fld.ING_P_LANE_SIZE 0) 2)
  { s with
    mem := memWrite [] 0x13C00000000 [100], mod := { s.mod with taken := [(Reg.HIF_B2_MAP_LO 0, 0x13C00000001)] } }

theorem wit_Bar2ReachesMemory_overrun : lane.mod.bar2Map 4096 = some 0x13C00001000 ∧
    placeCell (placeOf lane.mod 0x13C00001000) = some 0x13C00001000 ∧
    lane.mod.unreleased lane.mem 0x13C00001000 4 = true := by decide

theorem wit_HostMapApertureAndProbe :
    acceptsB (at_) (Reg.HIF_B2_MAP_HI 63) 0 .host = true ∧ acceptsB (at_) (Reg.HIF_B2_MAP_HI 63) 0x80000 .host = true ∧
    (bitsOf 0 63 51 = (at_).mod.self ∧ bitsOf (2 ^ 32 * 0x80000) 63 51 ≠ (at_).mod.self) ∧
    acceptsB (at_) Reg.HIF_T2_CMD (setBit 0 31) .host = true ∧
    (let s := at_ (fun m => m.fput Fld.HIF_LINK_UP true)
    s.mod.flag Fld.HIF_DB_EN = false ∧ s.mod.tier2Busy = false ∧ s.mod.flag Fld.HIF_LINK_UP = true ∧
      acceptsB s Reg.HIF_T2_CMD (setBit 0 31) .host = true ∧ s.mod.detached = false) ∧
    (at_).mod.flag Fld.HIF_LINK_UP = false ∧
    (let s := at_ (fun m => m.fput Fld.HIF_DB_EN true)
    acceptsB s Reg.HIF_T2_CMD (setBit 0 31) .host = true ∧ s.mod.flag Fld.HIF_DB_EN = true) := by decide

theorem wit_ProbeAndMapLoad :
    acceptsB (at_) (Reg.HIF_PW_CTRL 7) (setBit 0 30) .host = true ∧ (at_).mod.windowInUse 7 = false ∧
    (ringed (fields [(1, 232), (7, 229)])).mod.windowInUse 7 = true ∧
    acceptsB (ringed (fields [(1, 232), (7, 229)])) (Reg.HIF_PW_CTRL 7) (setBit 0 30) .host = true ∧
    (at_ (fun m => { m with works := [{ flying (.core 0) .ladle with tier2 := true }] })).mod.tier2Busy = true ∧
    (let s := fun t => at_ (fun m => timed t { m.wrN Reg.MEM_T2_SIZE 1 with hub := { m.hub with mapLoad := true, mapDue := 50000 } })
    (s 50000).mod.hub.mapLoad = true ∧ (s 50000).mod.now ≤ (s 50000).mod.hub.mapDue ∧
      (s 50001).mod.hub.mapDue < (s 50001).mod.now ∧ (s 50000).mod.rdN Reg.MEM_T2_SIZE = 1 ∧
      bitsOf (1 : BitVec 64).toNat 29 1 = 0 ∧ bitsOf (2 : BitVec 64).toNat 29 1 ≠ 0) ∧
    (let s := at_ (fun m => { m with hub := { m.hub with probing := [(7, some 5)], probeDue := [(7, 50000)] } })
    tabGet (fun _ => none) s.mod.hub.probing 7 = some 5 ∧ ¬ tabGet (fun _ => 0) s.mod.hub.probeDue 7 < s.mod.now) ∧
    (let s := at_ (fun m => timed 1 { m with hub := { m.hub with mapLoad := true, probing := [(7, some 5)] } })
    s.mod.hub.mapLoad = true ∧ tabGet (fun _ => 0) s.mod.hub.probeDue 7 < s.mod.now ∧ tabGet (fun _ => none) s.mod.hub.probing 7 = some 5) := by decide

/-- A module detached with the link up; its new epoch word, and what became of the retained writes. -/
def detachedMod (result : Nat) (epoch : Nat := 7) : State :=
  at_ (fun m => { (((m.fput Fld.HIF_DETACHED true).fput Fld.HIF_LINK_UP true).fset Fld.HIF_RETAIN_RESULT result) with
    taken := [(Reg.HIF_EPOCH_NEXT_LO, epoch)] })

theorem wit_HostSessionOpensAndResumes :
    (acceptsB (at_) Reg.HIF_OPEN 1 .host = true ∧ (at_).mod.flag Fld.HIF_DETACHED = false) ∧
    (∀ r ∈ [0, 1, 3], acceptsB (detachedMod r) Reg.HIF_OPEN 1 .host = true ∧ (detachedMod r).mod.flag Fld.HIF_DETACHED = true ∧
      (detachedMod r).mod.flag Fld.HIF_LINK_UP = true ∧ (1 : Word) ≠ (detachedMod r).mod.rd Reg.HIF_SESSION ∧
      (detachedMod r).mod.base64 Reg.HIF_EPOCH_NEXT_LO ≠ 0 ∧ (detachedMod r).mod.fget Fld.HIF_RETAIN_RESULT = r) ∧
    (detachedMod 0 0).mod.base64 Reg.HIF_EPOCH_NEXT_LO = 0 ∧
    (let s := at_ (fun m => { (m.fput Fld.HIF_LINK_UP true).fset Fld.HIF_RETAIN_RESULT 1 with
      hub := { m.hub with opening := some 1, openDue := 50000, retained := [⟨0, [], false, .work 5⟩] }
      works := [{ flying (.ring 0 0) .ladle with retained := true }] })
    s.mod.fget Fld.HIF_RETAIN_RESULT = 1 ∧ s.mod.now ≤ s.mod.hub.openDue ∧ s.mod.flag Fld.HIF_LINK_UP = true ∧
      (some (1 : BitVec 64)).map (·.toNat) ≠ some (s.mod.rd64 Reg.HIF_EPOCH_LO) ∧ s.mod.tables.applies = [] ∧
      s.mod.hub.opening = some 1 ∧ (some (0 : BitVec 64)).map (·.toNat) = some (s.mod.rd64 Reg.HIF_EPOCH_LO) ∧
      s.mod.hub.retained ≠ [] ∧ (∀ x ∈ s.mod.hub.retained, x.src = .work 5) ∧ (s.mod.findWork 5).isSome = true ∧
      (s.mod.findWork 5).map (·.retained) = some true) ∧
    (∀ r ∈ [0, 3], (let s := at_ (fun m => { m.fset Fld.HIF_RETAIN_RESULT r with hub := { m.hub with opening := some 1 } })
    s.mod.hub.opening = some 1 ∧ s.mod.fget Fld.HIF_RETAIN_RESULT = r)) ∧
    acceptsB (at_) Reg.HIF_LOSS_CFG (setBit 0x7D00000 31) .host = true ∧
    wordBits (setBit 0x7D00000 31) 29 16 = 2000 ∧ wordBits (setBit 0x27110000 31) 29 16 = 10001 ∧
    (at_ (fun m => m.fput Fld.HIF_SESSION_OPEN true)).mod.flag Fld.HIF_SESSION_OPEN = true ∧
    acceptsB (at_ (fun m => m.fput Fld.HIF_SESSION_OPEN true)) Reg.HIF_LOSS_CFG (setBit 0x27100000 31) .host = true ∧
    acceptsB (at_ (fun m => m.fput Fld.HIF_SESSION_OPEN true)) Reg.HIF_LOSS_CFG (setBit 0x27110000 31) .host = true ∧
    (at_).mod.flag Fld.HIF_SESSION_OPEN = false := by decide

theorem wit_HostLossDetaches :
    State.reset.mod.ready = false ∧ (at_).mod.ready = true ∧ (at_).mod.flag Fld.HIF_LINK_UP = false ∧ (at_).mod.fget Fld.HIF_LINK_RATE = 0 ∧
    (at_).mod.fget Fld.HIF_LINK_WIDTH = 0 ∧ (at_).mod.flag Fld.HIF_DETACHED = false ∧
    (at_ (fun m => m.fput Fld.HIF_LINK_UP true)).mod.flag Fld.HIF_LINK_UP = true ∧
    (detachedMod 0).mod.flag Fld.HIF_DETACHED = true ∧ LossCause.flr ≠ .linkDown ∧
    (let s := at_ (fun m => { (m.fput Fld.HIF_DETACHED true).fput Fld.HEAT_RUNNING true with
      heat := { m.heat with tickTime := 2000000000 } })
    s.mod.flag Fld.HIF_DETACHED = true ∧ s.mod.hub.retainOver = false ∧ s.mod.hub.opening = none ∧
      s.mod.flag Fld.HEAT_RUNNING = true ∧ s.mod.hub.detachAt + s.mod.hub.retainMs * 1000000 ≤ s.mod.heat.tickTime) := by
  decide

/-- Port `p` is in a state. -/
def port (p st : Nat) (x : PortSt := {}) (f : Mod → Mod := id) : State :=
  at_ (fun m => f (((m.fset (Fld.FAB_P_STATE p) st).fput Fld.FAB_PAIR_EN true).setPort p x))

/-- A port DOWN not tried, and DOWN since 5 with a retrain time of 1 s, at the last moment before it and at it; the five
stages, lanes that train on none, eight and four, a stage at its limit and before; and what a write of FAB_P_CTRL meets. -/
theorem wit_PortsTrainAndTheirWrites :
    ((port 12 portDown).mod.fabricOn = true ∧ (port 12 portDown).mod.portState 12 = portDown ∧
      ((port 12 portDown).mod.portSt 12).tried = false ∧ (port 12 portDown).mod.portInService 12 = true ∧
      (port 12 portDown).mod.flag (Fld.FAB_P_DISABLE 12) = false ∧ (port 11 portDown).mod.portInService 11 = false) ∧
    (∀ t ∈ [1000000004, 1000000005], (let s := port 12 portDown { tried := true, downAt := 5 } (fun m =>
      timed t (m.wrN Reg.FAB_RETRAIN_S 1))
    (s.mod.portSt 12).tried = true ∧ s.mod.portState 12 = portDown ∧
      ((s.mod.portSt 12).downAt + s.mod.rdN Reg.FAB_RETRAIN_S * 1000000000 ≤ s.mod.now ↔ t = 1000000005))) ∧
    (∀ st ∈ [1, 2, 3, 4, 5], (port 12 portTraining { stage := st }).mod.portState 12 = portTraining ∧
      ((port 12 portTraining { stage := st }).mod.portSt 12).stage = st) ∧
    trainLanes (List.replicate 8 none) = none ∧ trainLanes (List.replicate 8 (some 32)) = some 8 ∧
    worstLane (List.replicate 8 (some 32)) = 2 ∧ trainLanes [some 16, some 16, some 16, some 16] = some 4 ∧
    (∀ t ∈ [6000000004, 6000000005], (let s := port 12 portTraining { stage := 1, stageAt := 5 } (timed t)
    s.mod.portState 12 = portTraining ∧
      ((s.mod.portSt 12).stageAt + Mod.trainLimit 12 (s.mod.portSt 12).stage * 1000000 ≤ s.mod.now ↔ t = 6000000005))) ∧
    (∀ st ∈ [portDown, portFault, portUp, portTraining, portDisabled],
      acceptsB (port 12 st) (Reg.FAB_P_CTRL 12) (setBit 0 0) .host = true ∧
      acceptsB (port 12 st) (Reg.FAB_P_CTRL 12) (clearBit 0 0) .host = true ∧
      acceptsB (port 12 st) (Reg.FAB_P_CTRL 12) (setBit 0 1) .host = true ∧
      (port 12 st).mod.portInService 12 = true ∧ (port 12 st).mod.flag (Fld.FAB_P_DISABLE 12) = false) ∧
    (acceptsB (port 12 portDisabled {} (fun m => m.fput (Fld.FAB_P_DISABLE 12) true)) (Reg.FAB_P_CTRL 12) (clearBit 1 0)
      .host = true ∧ (port 12 portDisabled {} (fun m => m.fput (Fld.FAB_P_DISABLE 12) true)).mod.flag (Fld.FAB_P_DISABLE 12) = true) ∧
    ((port 12 portTraining { stage := 5 }).mod.faultReason 12 ≠ 0 ∧
      (port 12 portTraining { stage := 5 } (fun m =>
        (((m.wrN (Reg.FAB_P_PARTNER 12) (12 * 2 ^ 16 + 4096)).fset (Fld.FAB_CAP_REV 12) 1).fput (Fld.FAB_CAP_PAIR 12) true).fset
          (Fld.FAB_CAP_DIMS 12) (m.fget Fld.FAB_DIMS))).mod.faultReason 12 = 0) := by
  refine ⟨?_, ?_, ?_, ?_, ?_, ?_, ?_, ?_, ?_, ?_, ?_⟩ <;> decide

/-- A packet header with its CRC. -/
def packetHeader (fs : List (Nat × Nat)) : List Byte :=
  leBytes 28 (fields fs) ++ leBytes 4 (crc32 (leBytes 28 (fields fs)))

/-- A packet held in a retry buffer. -/
def aPacket : Packet := { dst := 1, src := 2, seq := 0, hops := 1, detour := 15, lane := 0, kind := 2, addr := 0x1000
                          msgOff := 0, msgLast := false, payload := [] }

/-- Flits before, at and after the sequence number expected; replays not due, due for the seventh and the eighth time;
and a packet in the retry buffer that the alternate port takes. -/
theorem wit_LinkLayerReplaysAndLoss :
    (∀ q ∈ [65534, 65535, 0], q < 65536 ∧ (port 0 portUp { rxSeq := 65535 }).mod.isUp 0 = true ∧
      ((port 0 portUp { rxSeq := 65535 }).mod.portSt 0).rxSeq = 65535 ∧
      ((port 0 portUp { rxSeq := 65535 }).mod.portSt 0).waiting = []) ∧
    (∀ k ∈ [6, 7], ∀ t ∈ [1000, 1001], (let s := port 0 portUp { replays := k, unacked := [(3, none)], ackDue := t } (fun m =>
      { m.fput Fld.HEAT_RUNNING true with heat := { m.heat with base := ⟨0, 0, 1⟩ } })
    s.mod.isUp 0 = true ∧ (s.mod.portSt 0).replays = k ∧ s.mod.flag Fld.HEAT_RUNNING = true ∧
      ((s.mod.portSt 0).ackDue ≤ tickAt s.mod.heat.base (s.mod.heatNo + 1) ↔ t = 1000))) ∧
    (port 0 portUp).mod.flag Fld.HEAT_RUNNING = false ∧ (port 0 portDown).mod.isUp 0 = false ∧
    (let s := port 0 portUp { unacked := [(3, some aPacket)] } (fun m =>
      (m.fset (Fld.FAB_P_STATE 1) portUp).fset (Fld.FAB_RT_ALT 1) 1)
    (s.mod.portSt 0).unacked = [(3, some aPacket)] ∧ s.mod.fget (Fld.FAB_RT_ALT aPacket.dst) = 1 ∧ s.mod.isUp 1 = true ∧
      (∀ j ∈ List.range 13, (s.mod.portSt j).waiting = []) ∧
      (s.mod.portSt 1).unacked.length + flitCount aPacket ≤ retryFlits 1 ∧ aPacket.hops < 23) := by decide

/-- Packets from module 2: a WRITE and a READ for this module, one for module 1 that came 22 or 23 hops. -/
theorem wit_PacketsFlowsAndRoutes_local :
    (port 0 portUp).mod.isUp 0 = true ∧ packetOk [] = false ∧
    (let w := packetHeader [(2, 13), (0x1000, 64), (2, 136), (1, 144), (15, 164)]
    packetOk w = true ∧ (parsePacket w [1]).kind = 2 ∧ (parsePacket w [1]).dst = (port 0 portUp).mod.self ∧
      (parsePacket w [1]).seq = ((port 0 portUp).mod.flowSt 2).next ∧ (parsePacket w [1]).payload = [1]) ∧
    (let r := packetHeader [(2, 13), (0x1000, 64), (1, 136), (15, 164)]
    packetOk r = true ∧ (parsePacket r []).kind = 1 ∧ (parsePacket r []).addr / 64 * 64 = 0x1000) ∧
    (let w := packetHeader [(2, 13), (2, 136), (15, 164), (1, 176)]
    packetOk w = true ∧ ((port 0 portUp).mod.flowSt 2).next < (parsePacket w []).seq ∧
      ((port 0 portUp).mod.flowSt 2).held = [] ∧ (port 0 portUp).mod.reseqBytes + 32 ≤ 0x1000000 ∧
      (parsePacket (packetHeader [(2, 13), (2, 136), (15, 164)]) []).seq <
        ((port 0 portUp {} (fun m => { m with fab := { m.fab with flows := [(2, { next := 1 })] } })).mod.flowSt 2).next) ∧
    (let s := port 0 portUp {} tiered
    placeCell (placeOf s.mod 0x1000) = some 0x1000 ∧ isTierCell 0x1000 = true ∧ s.mod.buddyCell 0x1000 = none ∧
      s.mod.badLines = [] ∧ s.mod.reachAll 0x1000 1 false = stOk ∧ s.mod.reachAll 0x1000 64 true = stOk ∧
      s.mod.readRoute 0x1000 = .serve 0x1000 false) ∧
    (let s := port 0 portUp {} (fun m => (tabled m).setMoved 0 (some (move1 true)))
    s.mod.readRoute 0x9000 = .hold 0 0x9000 false ∧ (∀ k ∈ [(1, 136), (2, 136)], k.1 = (parsePacket (packetHeader [(2, 13), (0x9000, 64), k, (15, 164)]) []).kind)) ∧
    (let s := port 0 portUp {} (fun m => tiered ((m.wrN Reg.CAST_BUDDY 0x10000).fset Fld.CAST_SLOTS 2))
    s.mod.buddyCell tier1Base = some tier1Base) := by decide

theorem wit_PacketsFlowsAndRoutes_forward :
    (let w := packetHeader [(1, 0), (2, 13), (2, 136), (15, 164), (22, 168)]
    packetOk w = true ∧ (parsePacket w []).kind ≠ 7 ∧ (parsePacket w []).dst ≠ (port 0 portUp).mod.self ∧
      (parsePacket w []).detour = 15 ∧ (parsePacket w []).hops = 22 ∧
      (parsePacket (packetHeader [(1, 0), (2, 136), (23, 168)]) []).hops = 23) ∧
    (port 0 portUp).mod.flag (Fld.FAB_RT_VALID 1) = false ∧
    (∀ up ∈ [true, false],
      let s := port 0 (if up then portUp else portDown) {} (fun m =>
        ((m.wr (Reg.FAB_ROUTE 1) (Mod.routeWord 1 1 0)).fset (Fld.FAB_P_STATE 1) portUp))
      s.mod.flag (Fld.FAB_RT_VALID 1) = true ∧ s.mod.fget (Fld.FAB_RT_PRIMARY 1) = 0 ∧ s.mod.isUp 0 = up ∧
        s.mod.fget (Fld.FAB_RT_ALT 1) = 1 ∧ s.mod.isUp 1 = true ∧ (s.mod.portSt 0).waiting = [] ∧
        (s.mod.portSt 1).waiting = [] ∧ (s.mod.portSt 0).unacked.length + 1 ≤ retryFlits 0) ∧
    (∀ t ∈ [69, 70], (let s := at_ (fun m => timed t { m with fab := { m.fab with flows := [(2, { held := [(70, aPacket)] })] } })
    (s.mod.flowSt 2).held = [(70, aPacket)] ∧ (70 ≤ s.mod.now ↔ t = 70))) ∧
    ((1 : Nat) ≠ (port 0 portUp).mod.self ∧ tabGet (fun _ => 0) (port 0 portUp).mod.fab.seen 1 < 1 ∧
      (port 0 portUp).mod.routesWait = false ∧
      (port 0 portUp {} (fun m => m.fput Fld.HEAT_RUNNING true)).mod.routesWait = true) ∧
    (let s := at_ (fun m => (m.wrN Reg.FAB_LDIM_AT_LO 2).wrN Reg.FAB_LDIM_LO 0x76543210)
    acceptsB s Reg.FAB_LDIM_HI (setBit 0xCBA98 31) .host = true ∧
      Mod.ldimOk (s.mod.fget Fld.FAB_DIMS) (0x76543210 + 2 ^ 32 * wordBits (setBit 0xCBA98 31) 19 0) = true ∧
      acceptsB (at_) Reg.FAB_LDIM_HI (setBit 0 31) .host = true ∧ (at_).mod.rdN Reg.FAB_LDIM_AT_LO < (at_).mod.heatNo + 2) := by
  decide

/-- An instance of bucket 1 in a group of four: this module is rank 0, and each rank's chunk is one element. -/
def exchange (f : Inst → Inst := id) : Inst :=
  f { bucket := 1, step := 7, entry := bucket + 3 <<< 223, ldim := 0x10, notify := none, stat := some 0x2000, startAt := 0, due := 5
      chunks := [(0, 4), (4, 4), (8, 4), (12, 4)] }

/-- The engine runs it. -/
def engine (i : Inst) : State := at_ (fun m => { tiered m with col := { m.col with insts := [i] } })

/-- The first packet of its partner, rank 2, and the chunks this module keeps. -/
def firstPacket : CollMsg :=
  ⟨2, 1, 7, 1, 16, 0, 0, .chunks [(0, List.replicate 16 0), (1, List.replicate 16 0)]⟩

theorem wit_CollectivesExchangeAndEnd :
    ((at_).mod.col.insts.all (fun i => !(i.bucket == 1 && i.step == 7)) = true ∧ (at_).mod.instEnded 1 7 = false ∧
      (at_).mod.earlyBytes + earlySize firstPacket ≤ 0x2000000 ∧
      (at_ (fun m => { m with col := { m.col with results := [⟨1, 7, 0, 0⟩] } })).mod.instEnded 1 7 = true) ∧
    (let s := engine (exchange)
    s.mod.findInst 1 = some (exchange) ∧ (exchange).status = none ∧ Mod.instOp (exchange) = 1 ∧ Mod.instCount (exchange) = 16 ∧
      s.mod.instDims (exchange) = 2 ∧ s.mod.instRank (exchange) = 0 ∧ s.mod.instMember (exchange) (pairRank 0 1) = 2 ∧
      s.mod.bodyOk (exchange) 0 firstPacket.body = true ∧ (exchange).inbox = [] ∧
      (∀ st, firstPacket.body ≠ .abort st) ∧ s.mod.now < (exchange).due) ∧
    (engine (exchange (fun i => { i with due := 0 }))).mod.now = 0 ∧
    (let i := exchange (fun i => { i with bucket := 0 })
    (engine i).mod.findInst 0 = some i ∧ i.begun = false ∧ (engine i).mod.closeWaits i = false ∧
      (at_ (fun m => { m with col := { m.col with insts := [exchange, i] } })).mod.closeWaits i = true ∧
      (at_ (fun m => { m with col := { m.col with insts := [exchange, i] } })).mod.findInst 0 = some i) ∧
    (∀ st ∈ [stOk, stUnitLost], let i := exchange (fun i => { i with status := some st })
    (engine i).mod.findInst 1 = some i ∧ i.status = some st ∧ (engine i).mod.stackDown 0x2000 = false ∧ i.notify = none ∧ (engine i).mod.col.starts = [] ∧ (engine i).mod.badLines = [] ∧
      i.stat.bind (fun a => (engine i).mod.ownRegion a 16 true) = some 0x2000 ∧ isTierCell 0x2000 = true) := by
  refine ⟨by decide, ⟨by decide, by decide, by decide, by decide, by decide, by decide, by decide, by decide, by decide,
    ?_, by decide⟩, by decide, by decide, by decide⟩
  exact fun st h => CollBody.noConfusion h

/-- A packet whose chunk holds `n` bytes, and one that does not fit into the early store. -/
def bigPacket (n : Nat) : CollMsg := { firstPacket with body := .chunks [(0, List.replicate n 0)] }

theorem bigPacket_size (n : Nat) : earlySize (bigPacket n) = n := by simp [earlySize, bigPacket]

theorem wit_CollectivesExchangeAndEnd_full : ∃ x : CollMsg, x.bucket = 1 ∧ x.step = 7 ∧
    0x2000000 < (at_).mod.earlyBytes + earlySize x := by
  refine ⟨bigPacket 0x2000001, rfl, rfl, ?_⟩
  rw [bigPacket_size]
  omega

theorem wit_IngestLanesAndHeadroom :
    acceptsB (at_) (Reg.ING_P_CTRL 15) (setBit 0 31) .host = true ∧ (at_).mod.laneOn 15 = false ∧ (at_).mod.laneOk 15 = false ∧
    (let s := at_ (fun m => ((m.fset (Fld.ING_P_LANE_SIZE 15) 1024).fput Fld.HIF_LINK_UP true).fset Fld.ING_RES_SIZE 4)
    s.mod.laneOk 15 = true ∧ acceptsB s (Reg.ING_P_CTRL 15) (setBit 0 31) .host = true ∧ s.mod.flag Fld.HIF_LINK_UP = true ∧
      s.mod.flag Fld.HIF_DETACHED = false) ∧
    (let s := at_ (fun m => m.fput (Fld.ING_P_EN 15) true)
    s.mod.laneOn 15 = true ∧ acceptsB s (Reg.ING_P_CTRL 15) (setBit 0 31) .host = true ∧
      acceptsB s (Reg.ING_P_CTRL 15) (setBit 0x20000000 31) .host = true ∧
      acceptsB s (Reg.ING_P_CTRL 15) (clearBit 0 31) .host = true ∧
      wordBits (setBit 0 31) 29 26 = bitsOf (s.mod.rdN (Reg.ING_P_CTRL 15)) 29 26 ∧
      wordBits (setBit 0x20000000 31) 29 26 ≠ bitsOf (s.mod.rdN (Reg.ING_P_CTRL 15)) 29 26) ∧
    State.reset.mod.ready = false ∧ lane.mod.ready = true ∧ lane.mod.producers = [0] ∧
    Mod.readHeader lane.mem lane.mod 0 = some (100, 0, 0, 0) := by decide

/-- The broker's own report of heat 0 to module 1. -/
def ownReport : BrokerMsg := ⟨0, 0, 10, false, 0, 8, 8⟩
def brokering (f : Mod → Mod := id) : State :=
  at_ (fun m => f { (m.fput Fld.HEAT_RUNNING true).fput Fld.PWR_BROKER_EN true with
    pwr := { m.pwr with sent := some ownReport, partner := 1, waiting := true } })

theorem wit_PowerSuppliesAndTokens :
    ((at_).mod.ready = true ∧ (at_).mod.flag Fld.PWR_VIN_LOW = false ∧ (at_).mod.pwr.hubHot = false ∧
      (at_ (fun m => { m with pwr := { m.pwr with hubHot := true } })).mod.pwr.hubHot = true ∧
      (at_).mod.flag Fld.PWR_COOLANT_WARN = false ∧
      (at_ (fun m => m.fput Fld.PWR_COOLANT_WARN true)).mod.flag Fld.PWR_COOLANT_WARN = true) ∧
    (acceptsB (at_) Reg.PWR_CTRL (setBit 1 1) .host = true ∧ acceptsB (at_) (Reg.PWR_D_CTRL 3) (setBit 1 31) .host = true ∧
      (at_).mod.dieHalted 3 = false ∧ (at_ (fun m => m.fput (Fld.PWR_D_HALTED 3) true)).mod.dieHalted 3 = true ∧
      acceptsB (at_ (fun m => m.fput (Fld.PWR_D_HALTED 3) true)) (Reg.PWR_D_CTRL 3) (setBit 0 31) .host = true ∧
      (at_).mod.hotStack 3 ≤ 90 ∧ bitsOf ((at_).mod.rdN (Reg.PWR_D_TJ 3)) 7 0 ≤ 95) ∧
    (acceptsB (at_) Reg.PWR_TOKEN_RESET_AT_HI (setBit 0 31) .host = true ∧ (at_).mod.rdN Reg.PWR_TOKEN_RESET_AT_LO = 0 ∧
      acceptsB (at_ (fun m => m.wrN Reg.PWR_TOKEN_RESET_AT_LO 2)) Reg.PWR_TOKEN_RESET_AT_HI (setBit 0 31) .host = true ∧
      (at_ (fun m => m.wrN Reg.PWR_TOKEN_RESET_AT_LO 2)).mod.rdN Reg.PWR_TOKEN_RESET_AT_LO = (at_).mod.heatNo + 2) ∧
    (let s := brokering (fun m => { m.fset Fld.COL_JOB_MASK 1 with pwr := { m.pwr with sent := none } })
    s.mod.ready = true ∧ s.mod.flag Fld.HEAT_RUNNING = true ∧ s.mod.flag Fld.PWR_BROKER_EN = true ∧
      s.mod.heatNo % s.mod.fget Fld.PWR_BROKER_HEATS = 0 ∧ s.mod.pwr.sent.map (·.heat) ≠ some s.mod.heatNo ∧
      (s.mod.brokerPartner (s.mod.heatNo / s.mod.fget Fld.PWR_BROKER_HEATS)).isSome = true ∧
      (brokering (fun m => m.fset Fld.COL_JOB_MASK 0)).mod.brokerPartner 0 = none ∧ (at_).mod.pwr.sent = none ∧
      State.reset.mod.ready = false) ∧
    ((brokering).mod.pwr.sent = some ownReport ∧ (brokering).mod.pwr.waiting = true ∧ (brokering).mod.pwr.partner = 1 ∧
      (brokering).mod.flag Fld.PWR_TOKENS_FROZEN = false ∧
      (brokering (fun m => m.fput Fld.PWR_TOKENS_FROZEN true)).mod.flag Fld.PWR_TOKENS_FROZEN = true ∧
      brokerMove 4 ownReport ⟨1, 0, 10, false, 0, 8, 8⟩ = 0 ∧ brokerMove 4 ownReport ⟨1, 0, 500000, false, 0, 8, 8⟩ < 0 ∧
      0 < brokerMove 4 { ownReport with score := 500000 } ⟨1, 0, 10, false, 0, 8, 8⟩) := by
  refine ⟨?_, ?_, ?_, ?_, ?_⟩ <;> decide

/-- A cast may be armed: number 1 for heat 2 in two slots, with a reserve, a buddy slot and a host slot. -/
def castable (f : Mod → Mod := id) : State :=
  at_ (fun m => f (((((m.wrN Reg.CAST_NUMBER 1).wrN Reg.CAST_AT_LO 2).wrN Reg.CAST_RES1 0x10000).wrN Reg.CAST_BUDDY
    0x10000).wrN Reg.CAST_HOST_SIZE 1))

/-- A cast in a state. -/
def casting (st : Nat) (f : Mod → Mod := id) : State :=
  at_ (fun m => f { m.fset castStateField st with cast := { m.cast with run := some { number := 1, heat := 2, set := 0, step := 0, mb := 0 } } })

theorem wit_CastsCopyDrainAndCompare_arm :
    acceptsB (castable) Reg.CAST_CTRL (setBit 0x20 31) .host = true ∧ acceptsB (castable) Reg.CAST_CTRL (setBit 0x10 31) .host = true ∧
    bitsOf (0x20 : Word).toNat 7 4 = 2 ∧ bitsOf (0x10 : Word).toNat 7 4 = 1 ∧ (castable).mod.castState = 0 ∧ (casting 1).mod.castState = 1 ∧
    acceptsB (casting 1) Reg.CAST_CTRL (setBit 0x20 31) .host = true ∧
    (((castable).mod.regStore Reg.CAST_CTRL (setBit 0x20 31)).castArmOk (castable).mem 0) = true ∧
    (((at_).mod.regStore Reg.CAST_CTRL (setBit 0x20 31)).castArmOk (at_).mem 0) = false ∧
    acceptsB (at_) Reg.CAST_CTRL (setBit 0x20 31) .host = true := by decide +kernel

theorem wit_CastsCopyDrainAndCompare_run :
    (casting 2).mod.cast.run.isSome = true ∧ (casting 2).mod.castState = 2 ∧
    (∀ g, g < 48 → (casting 2).mod.clusterFinished g = true) ∧ (casting 2).mod.works = [] ∧
    (casting 3).mod.castState = 3 ∧ (casting 4).mod.castState = 4 ∧
    (∀ d ∈ [true, false],
      let s := casting 4 (fun m => (m.fput (Fld.FAB_RT_VALID 1) true).fput Fld.HIF_DETACHED d)
      s.mod.buddyStatus .corrected = stOk ∧ s.mod.detached = d ∧ s.mod.cast.run.map (fun r => (r.epochLost, r.buddy)) = some (false, none)) ∧
    (casting 4 (fun m => { m with cast := { m.cast with run := m.cast.run.map (fun r => { r with epochLost := true }) } })).mod.castState = 4 ∧
    (casting 4).mod.buddyStatus .corrected = stRouteLost := by decide

theorem wit_CastsCopyDrainAndCompare_compare :
    (let s := at_ (fun m => { m with cast := { m.cast with compare := [([1, 0, 0, 0], 0), (List.replicate 256 0, 0)] } })
    s.mod.cast.compare.find? (fun c => c.1.take 4 == [0, 0, 0, 0]) = some (List.replicate 256 0, 0) ∧ (0 : Nat) ≤ s.mod.now ∧
      (List.replicate 256 (0 : Byte)).take 4 = [0, 0, 0, 0]) ∧
    (let s := casting 3 (fun m => { m with cast := { m.cast with run := m.cast.run.map (fun r => { r with paired := true }) } })
    s.mod.cast.compare = [] ∧ s.mod.cast.run.map (fun r => (r.paired, r.number)) = some (true, 1) ∧
      leNat (([1] : List Byte).take 4) = 1) ∧
    (∀ t ∈ [69, 70], ∀ now ∈ [true, false],
      let s := at_ (fun m => { m.fput Fld.HEAT_RUNNING true with
        heat := { m.heat with time := BitVec.ofNat 64 t, tickTime := if now then t else 0 }
        cast := { m.cast with compare := [([], 70)] } })
      (s.mod.atTick = now) ∧ s.mod.cast.compare = [([], 70)] ∧ (70 ≤ s.mod.now ↔ t = 70)) := by decide

/-! ### Restores -/

/-- A record of 320 bytes: cast 7 of module 0 at step 5, one object of 64 bytes. -/
def record1 (digest : Nat) (size index : Nat) : List Byte :=
  leBytes 320 (7 + 1 * 2 ^ 32 + 1 * 2 ^ 48 + 5 * 2 ^ 96 + size * 2 ^ 2112 + index * 2 ^ 2144 + digest * 2 ^ 2304)

/-- SHAKE256 of 64 zero bytes, first 32 bytes, as a little-endian number. -/
def zeroDigest : Nat := 0x366a66d9b4ec08d7556c23891864fa91eb0853bf8b915347de87949eeaf2a57e

def restore7 : RestoreRun :=
  { number := 7, module := 0, src := 2, repl := 1, first := 0, count := 1, step := 5, mb := 0, mask := 0, pos := [] }

/-- That restore runs on a module whose object 0 is one line at the start of tier 1, with a tier 2 and a route to module 1. -/
def restoring (f : RestoreRun → RestoreRun := id) : State :=
  at_ (fun m => { (((((tiered m).wrN (Reg.CAST_OBJ_ADDR_HI 0) 0x100).wrN (Reg.CAST_OBJ_SIZE 0) 1).wrN (Reg.CAST_OBJ_SETS 0)
    0x80000001).fput Fld.MEM_RC_PROFILE true |>.wrN Reg.MEM_T2_SIZE 1 |>.fput Fld.HIF_LINK_UP true |>.fput (Fld.FAB_RT_VALID 1) true)
    with hub := { m.hub with hostMap := [(0, 1)] }, cast := { m.cast with restoring := some (f restore7) } })

/-- What the reads of the restore returned. -/
def returned (a b : List Byte) : RestoreData := ⟨some a, some b, [some (List.replicate 64 0)], []⟩

theorem wit_RestoresCheckThenWrite_arm :
    acceptsB (at_) Reg.CAST_RS_CTRL (setBit 0x12 31) .host = true ∧ acceptsB (restoring) Reg.CAST_RS_CTRL (setBit 0x12 31) .host = true ∧
    (restoring).mod.cast.restoring.isSome = true ∧ (at_).mod.cast.restoring = none ∧
    bitsOf (0x12 : Word).toNat 1 0 = 2 ∧ bitsOf (0x12 : Word).toNat 5 4 = 1 ∧
    (at_).mod.fget Fld.CAST_RS_COUNT = 0 ∧
    (let s := at_ (fun m => m.fset Fld.CAST_RS_COUNT 1)
    s.mod.fget Fld.CAST_RS_COUNT ≠ 0 ∧ s.mod.cast.restoring = none ∧ acceptsB s Reg.CAST_RS_CTRL (setBit 0x12 31) .host = true ∧
      s.mod.castState = 0 ∧ s.mod.noCoreBusy = true ∧ s.mod.producers = []) ∧
    (let s := at_ (fun m => (m.fset Fld.CAST_RS_COUNT 1).fset castStateField 1)
    s.mod.fget Fld.CAST_RS_COUNT ≠ 0 ∧ acceptsB s Reg.CAST_RS_CTRL (setBit 0x12 31) .host = true ∧
      ¬ (s.mod.castState = 0 ∨ s.mod.castState = 4)) ∧
    acceptsB (at_) Reg.CAST_RS_CTRL (setBit 0 30) .host = true ∧ bitOf (0 : Word).toNat 31 = false ∧
    bitOf (0x80000000 : Word).toNat 31 = true := by decide +kernel

/-- The reads fail, a record does not agree, the records differ, the positions differ, no destination, and all pass. -/
theorem wit_RestoresCheckThenWrite_done :
    (∀ d, (restoring).mod.slotData restore7 d = d) ∧ (at_).mod.slotReachable restore7 1 = false ∧
    (∀ d, (restoring).mod.ownData (restoring).mem restore7 d = d) ∧ (restoring).mod.stackDown 0 = false ∧ (restoring).mod.cast.restoring = some restore7 ∧
    (let a := record1 zeroDigest 1 0
    Mod.recordOk restore7 a = true ∧ Mod.recordOk { restore7 with number := 8 } a = false ∧
      Mod.normalRecord restore7 a ≠ Mod.normalRecord restore7 (record1 1 1 0) ∧ Mod.recordOk restore7 (record1 1 1 0) = true ∧
      Mod.positionsOk restore7 a = true ∧ Mod.positionsOk { restore7 with step := 6 } a = false ∧
      Mod.recordOk { restore7 with step := 6 } a = true ∧
      (restoring).mod.destinationOk 0 64 (some (List.replicate 64 0)) = true ∧
      (restoring).mod.destinationOk 1 64 (some (List.replicate 64 0)) = false ∧
      leNat ((a.drop 6).take 2) = 1 ∧ leNat (((a.drop 256).drop 12).take 2) = 0 ∧
      leNat (((a.drop 256).drop 8).take 4) * 64 = 64 ∧ leNat (((a.drop 256).drop 15).take 1) = stOk ∧
      shake256 (padBytes 64 (List.replicate 64 0)) = ((a.drop 256).drop 32).take 32) := by
  refine ⟨fun d => ?_, by decide +kernel, fun d => rfl, by decide +kernel, by decide +kernel, by decide +kernel⟩
  simp [Mod.slotData, show (restoring).mod.slotReachable restore7 restore7.src = true by decide +kernel,
    show (restoring).mod.slotReachable restore7 restore7.repl = true by decide +kernel]

/-- SHAKE256 of the empty message (FIPS 202's value) and CRC-32 of "123456789" (IEEE 802.3's check value). -/
theorem test_shake256_empty :
    leNat (shake256 []) = 0x2f76d56e64270cb5821bb862ea52cd3f24eb3e74eb3f3b23138da80b2bddb946 := by decide +kernel
theorem test_crc32_check : crc32 [0x31, 0x32, 0x33, 0x34, 0x35, 0x36, 0x37, 0x38, 0x39] = 0xCBF43926 := by decide +kernel

/-! ### Losses, bring-up, resets -/

/-- An instance of bucket 1 alone in the engine, and the module it exchanges with is declared lost. -/
theorem wit_UnitsModulesAndFunctionsAreLost :
    (let x : Word := setBit (setBit 0x00000001 31) 30
    acceptsB (at_) Reg.CAST_UNIT_CMD x .host = true ∧ acceptsB (at_) Reg.CAST_UNIT_CMD (setBit (setBit 0x03000000 31) 30) .host = true ∧
      acceptsB (at_) Reg.CAST_UNIT_CMD (clearBit (setBit 0x01000000 31) 30) .host = true ∧
      acceptsB (at_) Reg.CAST_UNIT_CMD (clearBit (setBit 0 31) 30) .host = true ∧
      bitsOf (0x01000000 : Word).toNat 25 24 = 1 ∧ bitsOf (0x03000000 : Word).toNat 25 24 = 3 ∧
      bitsOf (0x02003000 : Word).toNat 13 12 = 3 ∧ bitsOf (0x02003000 : Word).toNat 11 8 < 12) ∧
    ((at_).mod.coreState 1 ≠ 4 ∧ (at_).mod.castState ≠ 2 ∧ (casting 2).mod.castState = 2 ∧ (casting 2).mod.cast.run.isSome = true ∧
      (at_).mod.ready = true ∧
      (let s := at_ (fun m => (m.setCore 1 { loading := some (0, 3) }).setCore 9 { loading := some (1, 2) })
      (s.mod.coreSt 1).loading = some (0, 3) ∧ s.mod.coreState 1 ≠ 4 ∧ (at_).mod.coreSt 1 = {}) ∧
      (let x : SentMsg := { id := 7, core := 0, chan := 0, heat := 0, dstChip := 4, dstCluster := 0, dstCore := 0, work := none }
      let s := at_ (fun m => { (m.wrN Reg.FAB_SELF 0).fput (Fld.FAB_RT_VALID 1) true with msgs := [x], nextId := 8 })
      s.mod.destGone 4 0 0 = none ∧
        (after (.moduleDeclareLost 1 .host) s).mod.destGone 4 0 0 = some .unit ∧
        (after (.moduleDeclareLost 2 .host) s).mod.destGone 4 0 0 = none)) ∧
    ((at_).mod.boot.powered = true ∧ 6 ≤ (at_).mod.fget Fld.ID_BOOT_STAGE ∧ ((at_).mod.clusterSt 0).lost = false ∧
      (at_).mod.dieIsLost 0 = false ∧ ((at_).mod.clusterSt 0).held = false ∧
      (let s := at_ (fun m => m.setCluster 0 { held := true })
      (s.mod.clusterSt 0).held = true ∧ acceptsB s Reg.CAST_UNIT_CMD (clearBit (setBit 0x01000000 31) 30) .host = true)) ∧
    (acceptsB (at_) Reg.CAST_ML_CMD (setBit (setBit 0x1FFF 31) 30) .host = true ∧
      acceptsB (at_) Reg.CAST_ML_CMD (setBit (setBit 0 31) 30) .host = true ∧
      acceptsB (at_) Reg.CAST_ML_CMD (clearBit (setBit 0x1FFF 31) 30) .host = true ∧
      bitsOf (0x1FFF : Word).toNat 12 0 ≠ (at_).mod.self ∧ bitsOf (0 : Word).toNat 12 0 = (at_).mod.self ∧
      bitOf ((at_).mod.rdN (Reg.CAST_ML_MAP 255)) 31 = false ∧ (at_).mod.col.insts = [] ∧
      bitOf ((at_ (fun m => m.wrN (Reg.CAST_ML_MAP 255) 0x80000000)).mod.rdN (Reg.CAST_ML_MAP 255)) 31 = true ∧
      (engine exchange).mod.col.insts = [exchange] ∧ (exchange).status = none ∧ 2 ∈ (engine exchange).mod.instExpects exchange ∧
      bitOf ((engine exchange).mod.rdN (Reg.CAST_ML_MAP 0)) 2 = false ∧
      acceptsB (engine exchange) Reg.CAST_ML_CMD (setBit (setBit 2 31) 30) .host = true) ∧
    (let s := at_ (fun m => m.wrN Reg.CAST_DIS_SEL 0x06003000)
    let key := Mod.fnKey 6 3 0 0
    s.mod.disSelKey = key ∧ Mod.disSelOk (s.mod.rdN Reg.CAST_DIS_SEL) = true ∧ Mod.disSelOk ((at_).mod.rdN Reg.CAST_DIS_SEL) = false ∧
      (s.mod.disSt key).on = false ∧
      (∀ b ∈ [true, false], acceptsB s Reg.CAST_DIS_CMD (setBit (setBit 0 31) 30) .host = b →
        acceptsB s Reg.CAST_DIS_CMD (clearBit (setBit 0 31) 30) .host = b ∧
        acceptsB (at_) Reg.CAST_DIS_CMD (setBit (setBit 0 31) 30) .host = b) ∧
      acceptsB s Reg.CAST_DIS_CMD (setBit (setBit 0 31) 30) .host = true ∧
      (let d : DisSt := { on := true, draining := true }
      let u := at_ (fun m => (m.wrN Reg.CAST_DIS_SEL 0x06003000).setDis key d)
      u.mod.disSt key = d ∧ u.mod.works = [] ∧ u.mod.fnTracked 6 3 0 0 = false ∧
        acceptsB u Reg.CAST_DIS_CMD (clearBit (setBit 0 31) 30) .host = true)) := by
  refine ⟨?_, ?_, ?_, ?_, ?_⟩ <;> decide +kernel

/-- A ladle, a lookup and a contribution with one request at module 2, which is declared lost. -/
theorem wit_UnitsModulesAndFunctionsAreLost_asked :
    (let q := { request1 with addr := 2 * 2 ^ 51, due := some 5 }
    let s := at_ (fun m => { m with tables := { m.tables with lookups := [{ lookup1 looked with reqs := [q] }] } })
    s.mod.tables.lookups = [{ lookup1 looked with reqs := [q] }] ∧ q.status = none ∧ q.due ≠ none ∧ addrModule q.addr = 2 ∧
      s.mod.tables.contribs = [] ∧ acceptsB s Reg.CAST_ML_CMD (setBit (setBit 2 31) 30) .host = true) ∧
    (let r : ContribRow := { far := someRow none 5 (2 * 2 ^ 51), track := true, due := some 5 }
    let s := at_ (fun m => { m with tables := { m.tables with contribs := [{ contrib1 contributed with rows := [r] }] } })
    s.mod.tables.contribs = [{ contrib1 contributed with rows := [r] }] ∧ r.outcome = none ∧ r.due ≠ none ∧
      addrModule r.far.addr = 2 ∧ s.mod.tables.lookups = []) ∧
    (let k := { flying (.core 0) .ladle with due := [(9, 4)] }
    let s := at_ (fun m => { m with works := [k] })
    s.mod.works = [k] ∧ (9, 4) ∈ k.due ++ k.waits ∧ (4 : Nat) = 2 + 2) ∧
    ((at_).mod.works = [] ∧ (at_).mod.tables.orphans = [] ∧ (at_).mod.tables.lookups = [] ∧ (at_).mod.tables.contribs = []) := by
  decide

/-- The clock at a number of nanoseconds. -/
def clocked (n : Nat) (m : Mod) : Mod := { m with heat := { m.heat with time := BitVec.ofNat _ n } }

/-- A module in a stage of its bring-up. -/
def staged (k : Nat) (f : Mod → Mod := id) : State := { mod := f (({} : Mod).fset Fld.ID_BOOT_STAGE k) }

/-- An image of the shortest length: a security version of 0, settings format 1, a body of zeros and its digest. -/
def body1 : List Byte := List.replicate 4096 0
def image1 : List Byte := leBytes 16 (0x46394C53 + 1 * 2 ^ 32 + 0 * 2 ^ 48 + 1 * 2 ^ 56 + 0x2000 * 2 ^ 96) ++
  (shake256 body1 ++ (List.replicate 4048 0 ++ body1))

theorem valid_of {img : List Byte} (h : Config.falconVerify (Config.firmwareKey 0) (tagImage ++ img.take 64)
    ((img.drop 64).take 1280) = true) (hf : imgFormatOk img = true) (hd : imgDigestOk img = true)
    (hv : imgSvn img = 0) : imgValid {} img = true := by
  simp [imgValid, imgCheck, imgSigned, firmwareSigned, hf, hd, hv, h, List.range, List.range.loop, bitOf]

theorem image1_format : imgFormatOk image1 = true := by decide +kernel
theorem leBytes_length (k n : Nat) : (leBytes k n).length = k := by
  induction k generalizing n with
  | zero => rfl
  | succ k ih => simp [leBytes, ih]
theorem shake256_length (m : List Byte) : (shake256 m).length = 32 := by
  simp [shake256, leBytes_length, List.range, List.range.loop]
theorem image1_digest : imgDigestOk image1 = true := by
  have h1 : (image1.drop 16).take 32 = shake256 body1 := by
    rw [image1, List.drop_left' (leBytes_length _ _), List.take_left' (shake256_length _)]
  have h2 : image1.drop 4096 = body1 := by
    rw [image1, ← List.append_assoc, ← List.append_assoc, List.drop_left']
    simp [leBytes_length, shake256_length]
  simp [imgDigestOk, h1, h2]
theorem image1_svn : imgSvn image1 = 0 := by decide +kernel

/-- It is valid wherever its signature verifies under firmware key 0, a free constant (log entry 4). -/
theorem wit_valid_image (h : Config.falconVerify (Config.firmwareKey 0) (tagImage ++ image1.take 64)
    ((image1.drop 64).take 1280) = true) : imgValid {} image1 = true :=
  valid_of h image1_format image1_digest image1_svn

theorem wit_BringUpStagesRunInOrder :
    ((staged 1 (fun m => { m with boot := { m.boot with powered := false } })).mod.boot.powered = false ∧ (at_).mod.boot.powered = true ∧
      (∀ vin ∈ [true, false], ∀ pin ∈ [true, false],
        (let b := (staged 1 (fun m => { m with boot := { m.boot with powered := false, vinOk := vin, resetPin := pin } })).mod.boot
        b.powered = false ∧ b.vinOk = vin ∧ b.resetPin = pin))) ∧
    ((List.range 8).all (fun k => (staged (k + 1)).mod.boot.powered && (staged (k + 1)).mod.fget Fld.ID_BOOT_STAGE == k + 1)) = true ∧
    ((staged 1).mod.boot.warm = false ∧ (staged 1).mod.boot.toRecovery = false ∧
      (staged 1 (fun m => { m with boot := { m.boot with warm := true, toRecovery := true } })).mod.boot.toRecovery = true ∧
      imgValid (staged 1).mod.nv (staged 1).mod.nv.active = false ∧ (staged 1).mod.nv.stagedOk = false) ∧
    ((staged 6).mod.dieIsLost 0 = false ∧
      (∀ d, d < 4 → (staged 6 (fun m => { m with dieLost := [(0, true), (1, true), (2, true), (3, true)] })).mod.dieIsLost d = true)) ∧
    ((staged 3).mod.boot.stageStart + 6000 * 1000000 ≤ (staged 3 (clocked 6000000000)).mod.now ∧
      (staged 3 (clocked 6000000000)).mod.fget Fld.ID_BOOT_STAGE = 3 ∧
      (staged 3 (clocked 6000000000)).mod.boot.stageStart = 0 ∧ (staged 7).mod.now < 30000000000 ∧
      (staged 7 (clocked 30000000000)).mod.fget Fld.ID_BOOT_STAGE = 7 ∧
      (staged 8 (clocked 7000000000)).mod.fget Fld.ID_BOOT_STAGE = 8) ∧
    ((∀ r ∈ [(1000, 970), (1000, 1030)], 97 * r.1 ≤ 100 * r.2 ∧ 100 * r.2 ≤ 103 * r.1) ∧ ¬ 97 * 1000 ≤ 100 * 969 ∧
      ¬ 100 * 1031 ≤ 103 * 1000 ∧ 40000 ≤ 60000) ∧
    (∀ st ∈ [portUp, portTraining],
      let s := staged 7 (fun m => (List.range 12).foldl (fun m p => m.fset (Fld.FAB_P_STATE p) portUp) (m.fset (Fld.FAB_P_STATE 12) st))
      s.mod.fget Fld.ID_BOOT_STAGE = 7 ∧ (∀ p, p < 12 → s.mod.portState p = portUp) ∧ s.mod.portState 12 = st) ∧
    ((staged 8 (clocked 7000000000)).mod.works = [] ∧ (staged 8).mod.castState ≠ 4 ∧ (staged 8).mod.now < 7000000000) := by
  refine ⟨?_, ?_, ?_, ?_, ?_, ?_, ?_, ?_⟩ <;> decide +kernel

/-! ### Resets, the set-up lock and maintenance -/

/-- A maintenance request in the registers' module. -/
def maintaining (r : Maint) (f : Mod → Mod := id) : State := at_ (fun m => f { m with maint := some r })

theorem wit_ResetsSetUpLockAndMaintenance :
    (acceptsB (at_) Reg.ID_RESET 0x57520001 .host = true ∧ acceptsB (at_) Reg.ID_RESET 0x57510001 .host = true ∧
      wordBits 0x57520001 31 16 = 0x5752 ∧ bitOf (0x57520001 : Word).toNat 0 = true ∧ wordBits 0x57510001 31 16 ≠ 0x5752 ∧
      acceptsB (at_) Reg.ID_RESET 0x57520000 .host = true ∧ bitOf (0x57520000 : Word).toNat 0 = false) ∧
    ((at_).mod.torvordUp = true ∧ (at_ (fun m => { m with boot := { m.boot with recovery := true } })).mod.torvordUp = false ∧
      (at_ (fun m => { m with boot := { m.boot with powered := false } })).mod.boot.powered = false) ∧
    (let x := setBit 0 31
    acceptsB (at_) Reg.ID_SETUP x .host = true ∧ acceptsB (locked) Reg.ID_SETUP x .host = true ∧ (locked).mod.locked = true ∧
      (at_).mod.locked = false ∧
      acceptsB (staged 8) Reg.ID_SETUP x (.mgmt 1) = true ∧ (staged 8).mod.ready = false ∧ (staged 8).mod.locked = false ∧
      ((at_ tiered).mod.fset Fld.ID_PROFILE 0).lockError = none ∧ acceptsB (at_ tiered) Reg.ID_SETUP x .host = true ∧
      (let s := at_ (fun m => (tiered m).wrN (Reg.CAST_RES0 0) 0x003F0000)
      (s.mod.fset Fld.ID_PROFILE 0).lockError = some (Reg.CAST_RES0 0) ∧ acceptsB s Reg.ID_SETUP x .host = true)) ∧
    (let x := setBit 0x00100000 31
    acceptsB (at_) Reg.ID_MAINT_REQ x .host = true ∧ (at_).mod.maint = none ∧ (at_).mod.flag Fld.HEAT_RUN = false ∧
      (at_).mod.dieIsLost 0 = false ∧ ((at_).mod.clusterSt 0).lost = false ∧ bitsOf (0x00100000 : Word).toNat 23 20 = 1 ∧
      acceptsB (at_) Reg.ID_MAINT_REQ (setBit 0 31) .host = true ∧ bitsOf (0 : Word).toNat 23 20 = 0 ∧
      (let s := at_ (fun m => m.setCluster 0 { lost := true })
      (s.mod.clusterSt 0).lost = true ∧ acceptsB s Reg.ID_MAINT_REQ x .host = true) ∧
      (let s := at_ (fun m => (m.fput Fld.HEAT_RUN true).wrN Reg.ID_MAINT_N 0)
      s.mod.flag Fld.HEAT_RUN = true ∧ s.mod.rdN Reg.ID_MAINT_N = 0 ∧ acceptsB s Reg.ID_MAINT_REQ x .host = true) ∧
      (let s := at_ (fun m => (m.fput Fld.HEAT_RUN true).wrN Reg.ID_MAINT_N 4)
      s.mod.flag Fld.HEAT_RUN = true ∧ s.mod.rdN Reg.ID_MAINT_N ≠ 0 ∧ acceptsB s Reg.ID_MAINT_REQ x .host = true) ∧
      acceptsB (maintaining ⟨1, 0, 0, true, none⟩) Reg.ID_MAINT_REQ x .host = true) ∧
    ((maintaining ⟨1, 0, 0, true, none⟩).mod.maint = some ⟨1, 0, 0, true, none⟩ ∧
      (maintaining ⟨1, 0, 0, true, none⟩).mod.flag Fld.HEAT_RUNNING = false ∧
      (maintaining ⟨1, 0, 0, true, none⟩ (fun m => m.fput Fld.HEAT_RUNNING true)).mod.flag Fld.HEAT_RUNNING = true ∧
      (maintaining ⟨3, 3, 0, false, none⟩).mod.maint = some ⟨3, 3, 0, false, none⟩ ∧
      (∀ k ∈ [2, 3], (maintaining ⟨k, 0, 0, true, none⟩).mod.maint = some ⟨k, 0, 0, true, none⟩) ∧
      bitsOf (0x00100C00 : Word).toNat 11 8 = 12 ∧ acceptsB (at_) Reg.ID_MAINT_REQ (setBit 0x00100C00 31) .host = true ∧ (at_).mod.maint = none) ∧
    ((at_).mod.boot.powered = true ∧
      (at_ (fun m => { m with boot := { m.boot with powered := false } })).mod.boot.powered = false) := by
  refine ⟨?_, ?_, ?_, ?_, ?_, ?_⟩ <;> decide +kernel

/-! ### Firmware, identity and management -/

/-- A staging of an image held is under way. -/
def staging (img : Option (List Byte)) (f : Mod → Mod := id) : State :=
  at_ (fun m => f { m with staging := some ⟨0, 8192, 0, false, img⟩ })

theorem wit_FirmwareStagingSettingsAndConfirmation :
    (let go : Word := 0x40000000
    let all : Word := 0xE0000000
    acceptsB (at_) Reg.FWC_CTRL (setBit 0 30) .host = true ∧ acceptsB (staging none) Reg.FWC_CTRL (setBit 0 30) .host = true ∧
      acceptsB (at_) Reg.FWC_CTRL (setBit 0 29) .host = true ∧ acceptsB (staging none) Reg.FWC_CTRL (setBit 0 29) .host = true ∧
      acceptsB (at_) Reg.FWC_CTRL (setBit go 29) .host = true ∧ acceptsB (at_) Reg.FWC_CTRL (setBit all 30) .host = true ∧
      acceptsB (at_) Reg.FWC_CTRL (setBit all 29) .host = true ∧ bitOf go.toNat 30 = true ∧ bitOf go.toNat 31 = false ∧
      bitOf all.toNat 31 = true ∧ (staging none).mod.staging.isSome = true ∧ (at_).mod.staging = none) ∧
    (let s := at_ (fun m => m.fput Fld.FWC_UNCONFIRMED true)
    acceptsB (at_) Reg.FWC_CTRL (setBit 0 31) .host = true ∧ (at_).mod.flag Fld.FWC_UNCONFIRMED = false ∧
      acceptsB s Reg.FWC_CTRL (setBit 0 31) .host = true ∧ acceptsB s Reg.FWC_CTRL (setBit 0x40000000 31) .host = true ∧
      acceptsB s Reg.FWC_CTRL (setBit 0x20000000 31) .host = true ∧ s.mod.flag Fld.FWC_UNCONFIRMED = true ∧
      s.mod.staging = none ∧ bitOf (0x20000000 : Word).toNat 29 = true ∧ bitOf (0x20000000 : Word).toNat 30 = false ∧
      (at_ (fun m => { m with nv := { m.nv with stagedOk := true, staged := image1 } })).mod.nv.stagedOk = true ∧
      acceptsB (staging none (fun m => m.fput Fld.FWC_UNCONFIRMED true)) Reg.FWC_CTRL (setBit 0x40000000 31) .host = true) ∧
    ((staging (some [])).mod.staging = some ⟨0, 8192, 0, false, some []⟩ ∧ (staging (some [])).mod.now = 0 ∧
      (staging none (clocked 10000000000)).mod.now = 10000000000 ∧
      0 + 2 * ((8192 + 7999999) / 8000000 + 2) * 1000000000 ≤ 10000000000 ∧
      (staging none (clocked 10000000000)).mod.atTick = true ∧
      (staging none (fun m => clocked 10000000000 (m.fput Fld.HEAT_RUNNING true))).mod.atTick = false) ∧
    (let s := at_ (fun m => { m with sec := { m.sec with update := true } })
    s.mod.staging = none ∧ s.mod.sec.update = true ∧ acceptsB s Reg.FWC_CTRL (setBit 0 30) .host = true ∧
      acceptsB s Reg.FWC_CTRL (setBit 0 31) .host = true) ∧
    (acceptsB (at_) Reg.FWC_SET_WRITE 1 .host = true ∧ (at_).mod.rdN Reg.FWC_SET_SEL % 256 = 0 ∧ (1 : Word).toNat ≤ 1 ∧
      acceptsB (at_ (fun m => m.wrN Reg.FWC_SET_SEL 1)) Reg.FWC_SET_WRITE 12 .host = true ∧
      acceptsB (at_ (fun m => m.wrN Reg.FWC_SET_SEL 1)) Reg.FWC_SET_WRITE 13 .host = true ∧
      ¬ (13 : Word).toNat ≤ 12) ∧
    ((at_).mod.xipolUp = true ∧ (staged 1).mod.xipolUp = false ∧ (at_).mod.sec.update = false ∧
      (at_ (fun m => { m with sec := { m.sec with update := true } })).mod.sec.update = true ∧
      (at_ (fun m => { m with boot := { m.boot with recovery := true } })).mod.boot.recovery = true) := by
  refine ⟨?_, ?_, ?_, ?_, ?_, ?_⟩ <;> decide +kernel

/-- A command of a code with no arguments and a signature of zeros. -/
def signedCommand (code : Nat) (arg : Nat := 0) : List Byte := leBytes 1392 (code + arg * 2 ^ 384)

/-- A module whose open challenge is the commands'. -/
def challenged (f : Mod → Mod := id) : State :=
  at_ (fun m => f { m with sec := { m.sec with challenge := some (List.replicate 32 0) } })

/-- The checks of a signed command that do not rest on the free constant of its signature (log entry 4). -/
theorem wit_IdentityOwnershipAndSignedCommands :
    ((at_).mod.torvordUp = true ∧ (staged 1).mod.torvordUp = false ∧ (at_).mod.flag Fld.HEAT_RUNNING = false ∧
      (at_ (fun m => m.fput Fld.HEAT_RUNNING true)).mod.flag Fld.HEAT_RUNNING = true ∧ (at_).mod.sec.attests.length < 8 ∧
      8 ≤ (at_ (fun m => { m with sec := { m.sec with attests := List.replicate 8 (0, []) } })).mod.sec.attests.length) ∧
    ((challenged).mod.sec.challenge.isSome = true ∧ (challenged).mod.now = 0 ∧ (challenged).mod.sec.challengeAt = 0 ∧
      (challenged (clocked 60000000000)).mod.now = 60000000000 ∧
      (challenged (clocked 60000000000)).mod.sec.challenge.isSome = true) ∧
    (∀ code ∈ [0x07, 0x10, 0x11, 0x12, 0x13], (signedCommand code).length = 1392 ∧ Mod.scReservedOk (signedCommand code) = true ∧
      scCode (signedCommand code) = code ∧ scSerial (signedCommand code) = (challenged).mod.rd64 Reg.ID_SERIAL_LO ∧
      (challenged).mod.sec.challenge = some (scChallenge (signedCommand code))) ∧
    ((challenged).mod.nv.ownerKey = none ∧ (at_).mod.sec.challenge ≠ some (scChallenge (signedCommand 0x10)) ∧
      (challenged (fun m => { m with nv := { m.nv with ownerKey := some [] } })).mod.nv.ownerKey = some [] ∧
      scArg0 (signedCommand 0x13 3) = 3 ∧ Mod.scReservedOk (signedCommand 0x13 3) = true ∧ Mod.scReservedOk (leBytes 1392 0x112) = false ∧
      ((challenged).mod.nv.revoked ||| 2 ^ 3) < 15) ∧
    ([] : List Byte).length ≠ 1392 := by
  refine ⟨?_, ?_, ?_, ?_, ?_⟩ <;> decide +kernel

theorem wit_ManagementMessagesAndSensors :
    ((at_).mod.torvordUp = true ∧ (staged 1).mod.torvordUp = false ∧ (at_).mod.sec.receiver = none ∧
      (at_ (fun m => { m with sec := { m.sec with receiver := some 9 } })).mod.sec.receiver = some 9) ∧
    ((at_).mod.xipolUp = true ∧ (staged 1).mod.xipolUp = false ∧
      (let s := at_ (fun m => m.wrN Reg.SEC_MGMT_EN 7)
      bitOf (s.mod.rdN Reg.SEC_MGMT_EN) 0 = true ∧ bitOf (s.mod.rdN Reg.SEC_MGMT_EN) 1 = true ∧
        bitOf (s.mod.rdN Reg.SEC_MGMT_EN) 2 = true ∧ s.mod.xipolUp = true) ∧
      bitOf ((at_ (fun m => m.wrN Reg.SEC_MGMT_EN 0)).mod.rdN Reg.SEC_MGMT_EN) 0 = false) ∧
    ((at_).mod.sensorLevel 6 104 = (at_).mod.levelSeen 6 ∧ (at_).mod.sensorLevel 6 105 ≠ (at_).mod.levelSeen 6) := by
  refine ⟨?_, ?_, ?_⟩ <;> decide +kernel

/-! ### The rows give no bits -/

theorem test_decode_none : decodeTableWord 32 0 = none ∧ (State.reset.withFetchWord 32 0) = State.reset := by
  refine ⟨rfl, rfl⟩

/-! ### The spec's worked vectors -/

/-- Table 4.9: 0x3E99_999A to the narrower formats, nearest-even and toward zero. -/
theorem test_table_4_9 :
    let v := f32Of 0x3E99999A
    (([2, 3, 4, 5, 6] : List Nat).map (fun c => (encodeElem c 0 .nearest v).1) = [0x3E9A, 0x34CD, 0x35, 0x2A, 0x1]) ∧
    (([2, 3, 4, 5, 6] : List Nat).map (fun c => (encodeElem c 0 .zero v).1) = [0x3E99, 0x34CC, 0x34, 0x29, 0x0]) := by
  decide +kernel

/-- Table 5.5, CONV.SR: the draw 0x6666_6000 is the first that rounds up. -/
theorem test_stochastic_E4M3 :
    ([0x70000000, 0x20000000, 0x66666000, 0x66665FFF] : List Nat).map
      (fun r => (encodeElem 5 0 (.stochastic r) (f32Of 0x3E99999A)).1) = [0x2A, 0x29, 0x2A, 0x29] := by decide +kernel

/-- Table 4.10's block: its elements beside the named ones are 5/512. -/
theorem test_table_4_10 :
    let vs := (List.range 32).map (fun i => if i = 0 then Val.fin true 3 (-8) else if i = 2 then .fin true 0 0
      else if i = 5 then .fin false 3 (-1) else if i = 11 then .fin false 7 (-7) else if i = 19 then .fin true 13 (-4)
      else .fin false 5 (-9))
    let b := (cbBuild 9 (cbFit 9 vs) vs []).1
    b.length = 48 ∧ (([0, 2, 5, 11, 19] : List Nat).map (byteAt b ·)) = [0xEC, 0x00, 0x80, 0x7E, 0x80] ∧
      (b.drop 32).take 6 = [0x72, 0x02, 0xC0, 0x3F, 0x50, 0xBF] ∧ b.drop 38 = List.replicate 10 0 ∧
      f32Enc ((cbDecode 9 b).getD 11 valZero) = 0x3D600000 ∧ f32Enc ((cbDecode 9 b).getD 19 valZero) = 0xBF500000 := by
  decide +kernel

/-- Table 6.9, PHILOX.BLOCK. -/
theorem test_table_6_9 :
    ([0, 1, 2, 3] : List Nat).map (philoxWord 0 0) = [0x6627E8D5, 0xE169C58D, 0xBC57AC4C, 0x9B00DBD8] ∧
    ([0, 1, 2, 3] : List Nat).map (philoxWord (2 ^ 64 - 1) (2 ^ 128 - 1)) = [0x408F276D, 0x41C83B0E, 0xA20BC7C6, 0x6D5451FD] ∧
    ([0, 1, 2, 3] : List Nat).map (philoxWord 0x299F31D0A4093822 0x0370734413198A2E85A308D3243F6A88) =
      [0xD16CFE09, 0x94FDCCEB, 0x5001E420, 0x24126EA1] := by decide +kernel

/-- The draw of chapter 6's worked element is word 1 of its counter. -/
theorem test_worked_draw :
    drawAt 0x5E1A0C449D03B7E1 88410 0x8002 3 35817 = philoxWord 0x5E1A0C449D03B7E1 0x0001595A8002000300000000000022FA 1 := by
  decide +kernel

/-- A dropped write of an unassigned offset changes no register. -/
theorem test_unassigned_write :
    (after (.registerWrite 0x3FFFC 4 1) (at_)).mod.regs = (at_).mod.regs := by decide +kernel

/-- An idle step of a powered module moves its clock by 1 ns (log entry 1). -/
theorem test_idle : (match Machine.step State.reset with | .next t => t.mod.now | _ => 0) = 1 := by decide +kernel

/-- MOD_RST# takes the module off. -/
theorem test_power_on_reset : (after (.modRst 0) (at_)).mod.boot.powered = false ∧ (after (.modRst 0) (at_)).mod.ready = false := by
  decide +kernel

/-- The state after reset meets both invariants, and a step takes it on. -/
theorem wit_StepKeepsMemoryCanonical : State.reset.Inv ∧ ∃ t, Machine.step State.reset = .next t :=
  ⟨rfl, _, rfl⟩
theorem wit_NumbersStayFresh : State.reset.FreshNumbers ∧ ∃ t, Machine.step State.reset = .next t :=
  ⟨fresh_of ⟨rfl, rfl, rfl, rfl, rfl⟩, _, rfl⟩

end Sys2Proof.Machine.Tests
end

/-!
PROOFS of family 00_scope: what an aligned 32-bit access of BAR0 does (00_scope.md R7, R8; 01_heat.md R36;
21_bringup_and_setup.md R413), once for every register, and the three obligations that follow from it.
-/

namespace Sys2Proof.Machine

open Sys2Proof

/-! ### The commands that are accesses by address -/

/-- A host write of an aligned word is the register write every chapter's rules speak of. -/
theorem exec_registerWrite_word (s : State) {off : Nat} (v : Word) (h4 : off % 4 = 0) :
    exec (.registerWrite off 4 (v.setWidth 64)) s = writeReg off v .host s := by
  have hv : (v.setWidth 64).setWidth 32 = v := by
    rw [BitVec.setWidth_setWidth_of_le _ (by decide), BitVec.setWidth_eq]
  change nextMem s (fun mem m => m.hostWrite mem off 4 (v.setWidth 64)) = _
  simp [writeReg, Mod.hostWrite, Mod.accessWords, h4, hv]

theorem exec_regWrite_aligned (s : State) (e : Nat) {off : Nat} (v : Word) (h4 : off % 4 = 0) :
    exec (.regWrite e off v) s = writeReg off v (.mgmt e) s := by
  change execRegWrite e off v s = _
  simp [execRegWrite, h4]

theorem exec_registerRead_word {s : State} {off : Nat} (hp : s.mod.boot.powered = true) (h4 : off % 4 = 0) :
    exec (.registerRead off 4) s =
      .next (s.onMod fun m => (m.busRead off).2.emit (.regValue off (m.busRead off).1)) := by
  change nextMod s (fun m => m.hostRead off 4) = _
  simp [nextMod, State.onMod, Mod.hostRead, Mod.accessWords, hp, h4]

theorem exec_regRead_aligned {s : State} {off : Nat} (e : Nat) (hu : s.mod.torvordUp = true) (h4 : off % 4 = 0) :
    exec (.regRead e off) s =
      .next (s.onMod fun m => (m.busRead off).2.emit (.reply e stOk (leBytes 4 (m.busRead off).1.toNat))) := by
  change nextMod s (fun m => m.when m.torvordUp (fun m => m.mgmtRead e off)) = _
  simp [nextMod, State.onMod, Mod.when, Mod.mgmtRead, hu, h4]

/-! ### Bits a read never shows -/

/-- Every bit a read shows lies in a field, so none is reserved. -/
theorem readableBits_and_reservedBits (d : RegDef) :
    BitVec.ofNat 32 (Mod.readableBits d) &&& BitVec.ofNat 32 (reservedBits d) = 0 := by
  have hsub : ∀ i, (Mod.readableBits d).testBit i = true → (writableBits d ||| d.ro).testBit i = true := by
    intro i
    simp only [Mod.readableBits, writableBits, Nat.testBit_or, Bool.or_eq_true]
    rintro ((((h | h) | h) | h) | h) <;> simp only [h, true_or, or_true]
  by_cases hx : writableBits d ||| d.ro < 2 ^ 32
  · have hc : reservedBits d = 2 ^ 32 - ((writableBits d ||| d.ro) + 1) := by unfold reservedBits; omega
    apply BitVec.eq_of_getLsbD_eq
    intro i hi
    rw [BitVec.getLsbD_and, BitVec.getLsbD_ofNat, BitVec.getLsbD_ofNat, hc, Nat.testBit_two_pow_sub_succ hx]
    cases hb : (Mod.readableBits d).testBit i with
    | false => simp
    | true => simp [hsub i hb]
  · have hz : reservedBits d = 0 := by unfold reservedBits; omega
    simp [hz]

theorem shown_reserved_zero {off : Nat} {d : RegDef} (hd : regAt off = some d) (w : Word) :
    Mod.shown off w &&& BitVec.ofNat 32 (reservedBits d) = 0 := by
  simp only [Mod.shown, hd]
  rw [BitVec.and_assoc, readableBits_and_reservedBits]
  exact BitVec.and_zero

theorem shown_unassigned {off : Nat} (hn : regAt off = none) (w : Word) : Mod.shown off w = 0 := by
  simp [Mod.shown, hn]

namespace Mod

/-! ### Reads (R36, R413) -/

theorem serves_iff {m : Mod} {off : Nat} :
    m.serves off = true ↔ m.boot.powered = true ∧ (m.ready = true ∨ off < 0x10000) := by
  simp [serves]

theorem not_serves_early {m : Mod} {off : Nat} (hr : m.ready = false) (hoff : 0x10000 ≤ off) :
    m.serves off = false := by
  simp [serves, hr, hoff]

theorem busRead_unserved {m : Mod} {off : Nat} (hs : m.serves off = false) : m.busRead off = (0xFFFFFFFF, m) := by
  simp [busRead, hs]

/-- A read of a register whose half is latched answers that half and frees the latch. -/
theorem busRead_latched {m : Mod} {off : Nat} {w : Word} (hs : m.serves off = true)
    (hl : tabGet (fun _ => none) m.latch off = some w) :
    m.busRead off = (shown off w, { m with latch := tabPut (fun _ => none) m.latch off none }) := by
  simp [busRead, hs, hl]

/-- A read of a register with no latched half answers its value; that of a _LO register latches the _HI half, and any other
leaves the module as it was. -/
theorem busRead_unlatched {m : Mod} {off : Nat} (hs : m.serves off = true)
    (hl : tabGet (fun _ => none) m.latch off = none) :
    (m.busRead off).1 = m.readValue off ∧ ∃ l, (m.busRead off).2 = { m with latch := l } ∧
      ∀ d, regAt off = some d → loBases.contains d.base = true →
        tabGet (fun _ => none) l (off + 4) = some (m.readValue (off + 4)) := by
  refine ⟨by simp [busRead, hs, hl], ?_⟩
  cases hd : regAt off with
  | none => exact ⟨m.latch, by simp [busRead, hs, hl, hd, when], by simp⟩
  | some d =>
    by_cases hb : d.base ∈ loBases
    · exact ⟨tabPut (fun _ => none) m.latch (off + 4) (some (m.readValue (off + 4))),
        by simp [busRead, hs, hl, hd, when, hb], by simp⟩
    · exact ⟨m.latch, by simp [busRead, hs, hl, hd, when, hb], by simp [hb]⟩

/-- A read changes nothing but the latches. -/
theorem busRead_frame (m : Mod) (off : Nat) : ∃ l, (m.busRead off).2 = { m with latch := l } := by
  cases hs : m.serves off with
  | false => exact ⟨m.latch, by rw [busRead_unserved hs]⟩
  | true =>
    cases hl : tabGet (fun _ => none) m.latch off with
    | none =>
      obtain ⟨-, l, hm, -⟩ := busRead_unlatched hs hl
      exact ⟨l, hm⟩
    | some w => exact ⟨_, by rw [busRead_latched hs hl]⟩

/-- What a served read answers has passed the mask of the register's fields. -/
theorem busRead_value_shown {m : Mod} {off : Nat} (hs : m.serves off = true) : ∃ w, (m.busRead off).1 = shown off w := by
  cases hl : tabGet (fun _ => none) m.latch off with
  | none => exact ⟨_, (busRead_unlatched hs hl).1⟩
  | some w => exact ⟨w, by rw [busRead_latched hs hl]⟩

/-! ### Writes that are dropped (R7, R8, R413) -/

/-- A write of this offset finds no field to write: the module is off, the offset is not served yet, or no register with a
writable field stands there. -/
def FindsNoField (m : Mod) (off : Nat) : Prop :=
  m.boot.powered = false ∨ (m.ready = false ∧ 0x10000 ≤ off) ∨ (∀ d, regAt off = some d → writableBits d = 0)

theorem FindsNoField.not_checked {m : Mod} {off : Nat} (h : m.FindsNoField off) {d : RegDef} (hd : regAt off = some d) :
    (m.serves off && writableBits d != 0) = false := by
  rcases h with hp | ⟨hr, hoff⟩ | hw
  · simp [serves, hp]
  · simp [not_serves_early hr hoff]
  · simp [hw d hd]

theorem flag_eq_of_regs {m m' : Mod} (h : m'.regs = m.regs) (f : Field) : m'.flag f = m.flag f := by
  simp [flag, fget, rdN, rd, h]

/-- With the same registers no producer is newly enabled, so no lane's header is put to zero. -/
theorem ingestMemory_of_regs {m m' : Mod} (mem : Memory) (h : m'.regs = m.regs) (off : Nat) :
    ingestMemory mem m m' off = mem := by
  unfold ingestMemory
  split
  · simp [laneOn, flag_eq_of_regs h]
  · rfl

/-- A write that leaves every register as it was is no more than its journal entry and its block's trace. -/
theorem busWrite_of_regs {mem : Memory} {m m' : Mod} {off : Nat} {v : Word} {o : Origin} (hregs : m'.regs = m.regs)
    (h : m.refusedTrace mem off v (m.regWrite (fun m off v => m.blockCheck mem off v)
      (fun m off v => m.blockEffect off v o) off (m.readValue off) v o) = m') :
    m.busWrite mem off v o = (mem, m') := by
  unfold busWrite
  simp only [h]
  split
  · simp [when, flag_eq_of_regs hregs, ingestMemory_of_regs mem hregs]
  · rw [ingestMemory_of_regs mem hregs]

theorem busWrite_nothing (mem : Memory) {m : Mod} {off : Nat} (h : m.FindsNoField off) (v : Word) (o : Origin) :
    m.busWrite mem off v o = (mem, m) := by
  refine busWrite_of_regs rfl ?_
  rw [regWrite_nothing h]
  unfold refusedTrace
  split
  · next d hd => simp [h.not_checked hd]
  · rfl

/-- A write that fails the checks of R7 and R8 leaves its entry in the journal with the status of the drop. -/
theorem busWrite_dropped (mem : Memory) {m : Mod} {off : Nat} {d : RegDef} {v : Word} (o : Origin)
    (hs : m.serves off = true) (hd : regAt off = some d) (hw : writableBits d ≠ 0)
    (hc : m.commonCheck d off v ≠ stOk) :
    m.busWrite mem off v o = (mem, m.journalWrite (m.commonCheck d off v) off (m.readValue off) v o) := by
  refine busWrite_of_regs (journalWrite_regs ..) ?_
  obtain ⟨hp, hr⟩ := serves_iff.mp hs
  have hserved : (!m.boot.powered || (!m.ready && decide (0x10000 ≤ off))) = false := by
    simpa [hp, Decidable.or_iff_not_imp_left] using hr
  simp [regWrite, refusedTrace, hserved, hd, hw, hc]

theorem completionStatus_nothing (mem : Memory) {m : Mod} {off : Nat} (h : m.FindsNoField off) (v : Word) :
    m.completionStatus mem off v = stOk := by
  unfold completionStatus
  split
  · next d hd => simp [h.not_checked hd]
  · rfl

theorem commonCheck_reserved {m : Mod} {d : RegDef} {off : Nat} {v : Word}
    (h : v &&& BitVec.ofNat 32 (reservedBits d) ≠ 0) : m.commonCheck d off v = stMalformed := by
  rw [commonCheck, if_pos h]

theorem commonCheck_locked {m : Mod} {d : RegDef} {off : Nat} {v : Word} (hl : m.locked = true)
    (h0 : v &&& BitVec.ofNat 32 (reservedBits d) = 0)
    (hch : (v ^^^ m.pendingRd off) &&& BitVec.ofNat 32 d.rwl ≠ 0) : m.commonCheck d off v = stAccessDenied := by
  rw [commonCheck, if_neg (not_not_intro h0), if_pos (by simpa [hl] using hch)]

end Mod

/-- A write that finds no field leaves the state as it was but for the answer of a management write, which is OK (R413). -/
theorem writeReg_nothing {s : State} {off : Nat} (h : s.mod.FindsNoField off) (v : Word) (o : Origin)
    (ho : o = .host ∨ s.mod.torvordUp = true) :
    writeReg off v o s = .next { s with mod := replyTo o s.mod } := by
  cases o with
  | host => simp [writeReg, nextMem, Mod.commandWrite, replyTo, Mod.busWrite_nothing s.mem h]
  | mgmt e =>
    have hu : s.mod.torvordUp = true := ho.resolve_left (by simp)
    simp [writeReg, nextMem, Mod.commandWrite, replyTo, hu, Mod.busWrite_nothing s.mem h,
      Mod.completionStatus_nothing s.mem h]

/-- A host write that fails the checks of R7 and R8 leaves nothing but its entry. -/
theorem writeReg_host_dropped {s : State} {off : Nat} {d : RegDef} {v : Word} {st : Nat}
    (hs : s.mod.serves off = true) (hd : regAt off = some d) (hw : writableBits d ≠ 0)
    (hc : s.mod.commonCheck d off v = st) (hst : st ≠ stOk) :
    writeReg off v .host s =
      .next { s with mod := { s.mod with jnlPend := s.mod.jnlPend ++ [s.entryOf st off v .host] } } := by
  subst hc
  simp only [writeReg, nextMem, Mod.commandWrite, Mod.busWrite_dropped s.mem .host hs hd hw hst]
  rfl

/-! ### Writes that are accepted (R8, R441) -/

theorem State.Accepts.register {s : State} {off : Nat} {v : Word} {o : Origin} (h : s.Accepts off v o) :
    ∃ d, regAt off = some d := by
  obtain ⟨-, -, -, d, hd, -⟩ := h
  exact ⟨d, hd⟩

namespace Mod

@[simp] theorem noted_rd (m : Mod) (off : Nat) (v : Word) (o : Origin) (a : Nat) : (m.noted off v o).rd a = m.rd a := rfl
@[simp] theorem noted_out (m : Mod) (off : Nat) (v : Word) (o : Origin) : (m.noted off v o).out = m.out := rfl

theorem regStore_of_regAt {off : Nat} {d : RegDef} (hd : regAt off = some d) (m : Mod) (v : Word) :
    m.regStore off v = m.wr off (mergeWrite d (m.rd off) v) := by
  simp [regStore, hd]

end Mod

@[simp] theorem replyTo_rd (o : Origin) (m : Mod) (a : Nat) : (replyTo o m).rd a = m.rd a := by cases o <;> rfl
@[simp] theorem replyTo_jnlPend (o : Origin) (m : Mod) : (replyTo o m).jnlPend = m.jnlPend := by cases o <;> rfl

@[simp] theorem replyTo_out (o : Origin) (m : Mod) : (replyTo o m).out = m.out ++ State.replyOf stOk o := by
  cases o with
  | host => exact (List.append_nil _).symm
  | mgmt e => rfl

/-- The state an accepted write of a register with no action of its own leaves: the entry, the register, the reply. -/
def State.plainlyWritten (s : State) (d : RegDef) (off : Nat) (v : Word) (o : Origin) : State :=
  { s with mod := replyTo o ((s.mod.noted off v o).wr off (mergeWrite d (s.mod.rd off) v)) }

section

variable (s : State) {d : RegDef} {off : Nat} (v : Word) (o : Origin)

theorem plainlyWritten_stored (hd : regAt off = some d) : s.Stored (s.plainlyWritten d off v o) off v :=
  ⟨d, hd, by simp [State.plainlyWritten]⟩

theorem plainlyWritten_journalled : s.Journalled (s.plainlyWritten d off v o) off v o :=
  ⟨by rw [State.plainlyWritten, replyTo_jnlPend]; rfl, by simp [State.plainlyWritten]⟩

theorem plainlyWritten_regsBut : s.RegsBut [off] (s.plainlyWritten d off v o) := by
  intro a ha
  have hne : a ≠ off := by simpa using ha
  simp [State.plainlyWritten, Mod.rd_wr_ne _ _ hne]

end

/-- A register with no action of its own: its block adds no check and stores the word, and it enables neither a ledger nor
a producer. -/
structure PlainOffset (off : Nat) : Prop where
  aligned : off % 4 = 0
  check : ∀ (mem : Memory) (m : Mod) (v : Word), m.blockCheck mem off v = stOk
  effect : ∀ (m : Mod) (v : Word) (o : Origin), m.blockEffect off v o = m.regStore off v
  noLedger : rowIndex (Reg.MEM_LG_CFG 0) 0x20 64 off = none
  noProducer : rowIndex (Reg.ING_P_CTRL 0) 0x40 16 off = none

/-- The blocks' checks and effects, evaluated at the offsets that the obligation on accesses by address names. -/
theorem plainOffset_of_mem {off : Nat} (h : off ∈ [Reg.HEAT_CFG_NEXT, Reg.HEAT_CHANGE_AT_LO, Reg.HEAT_TIME_SET_LO,
    Reg.HIF_T2_TAB_LO, Reg.HIF_T2_TAB_HI, Reg.MEM_TD_SEL, Reg.MEM_TD_AT_LO, Reg.MEM_HOT_AT_LO, Reg.FAB_LDIM_LO,
    Reg.COL_BK_SEL, Reg.PWR_TOKEN_RESET_AT_LO, Reg.CAST_AT_LO, Reg.NUM_LS_SET_STEP, Reg.FWC_SET_SEL]) :
    PlainOffset off := by
  simp only [List.mem_cons, List.not_mem_nil, or_false] at h
  rcases h with rfl | rfl | rfl | rfl | rfl | rfl | rfl | rfl | rfl | rfl | rfl | rfl | rfl | rfl <;>
    exact ⟨rfl, fun _ _ _ => rfl, fun _ _ _ => rfl, rfl, rfl⟩

theorem writeReg_plain {s : State} {off : Nat} {v : Word} {o : Origin} {d : RegDef} (hpl : PlainOffset off)
    (h : s.Accepts off v o) (hd : regAt off = some d) : writeReg off v o s = .next (s.plainlyWritten d off v o) := by
  rw [writeReg_accepted h (hpl.check ..) hpl.noLedger hpl.noProducer, hpl.effect, Mod.regStore_of_regAt hd]
  rfl

/-! ### The obligations -/

/-- Settles O7: a read passes the mask of the register's fields whether or not its half is latched, a reserved bit fails
the first of the two common checks, and without a writable field a write changes nothing. -/
theorem reservedAndUnassignedOffsets : Obligations.ReservedAndUnassignedOffsets := by
  intro s off v hp h4 hr
  have hs : s.mod.serves off = true := Mod.serves_iff.mpr ⟨hp, hr⟩
  refine ⟨?_, fun d hd hw hres => ?_, fun hno => ?_⟩
  · obtain ⟨w, hw⟩ := Mod.busRead_value_shown hs
    obtain ⟨l, hl⟩ := Mod.busRead_frame s.mod off
    refine ⟨_, Mod.shown off w, exec_registerRead_word hp h4, ?_, fun d hd => shown_reserved_zero hd w,
      fun hn => shown_unassigned hn w⟩
    simp [hw, hl, Mod.emit]
  · rw [exec_registerWrite_word s v h4]
    exact writeReg_host_dropped hs hd hw (Mod.commonCheck_reserved hres) (by decide)
  · have hnf : s.mod.FindsNoField off := by
      refine .inr (.inr fun d hd => ?_)
      rcases hno with hn | ⟨d', hd', hz⟩
      · simp [hn] at hd
      · rwa [← Option.some.inj (hd'.symm.trans hd)]
    rw [exec_registerWrite_word s v h4, writeReg_nothing hnf v .host (.inl rfl)]
    rfl

/-- Settles O8: a changed RWL field fails the second common check, and before ready an offset outside the ID_ block is not
served. -/
theorem lockedAndEarlyWritesAreDropped : Obligations.LockedAndEarlyWritesAreDropped := by
  intro s off v hp h4
  refine ⟨fun d hd hw hr hl h0 hch => ?_, fun hr hoff => ?_⟩
  · rw [exec_registerWrite_word s v h4]
    exact writeReg_host_dropped (Mod.serves_iff.mpr ⟨hp, hr⟩) hd hw (Mod.commonCheck_locked hl h0 hch) (by decide)
  · have hnf : s.mod.FindsNoField off := .inr (.inl ⟨hr, hoff⟩)
    refine ⟨?_, ?_, fun e hu => ?_⟩
    · rw [exec_registerWrite_word s v h4, writeReg_nothing hnf v .host (.inl rfl)]
      rfl
    · rw [exec_registerRead_word hp h4, State.onMod, Mod.busRead_unserved (Mod.not_serves_early hr hoff)]
      rfl
    · rw [exec_regWrite_aligned s e v h4, writeReg_nothing hnf v (.mgmt e) (.inr hu)]
      rfl

/-- Settles O9: the named registers have no action of their own, so an accepted write is its entry, the stored word and
the reply; a read with no latched half changes no more than the latches. -/
theorem registerAccessByAddress : Obligations.RegisterAccessByAddress := by
  refine ⟨fun s off v hmem => ?_, fun s off h4 hp hr hl => ?_⟩
  · have hpl := plainOffset_of_mem hmem
    refine ⟨fun hacc => ?_, fun e hacc => ?_⟩
    all_goals obtain ⟨d, hd⟩ := hacc.register
    · exact ⟨_, (exec_registerWrite_word s v hpl.aligned).trans (writeReg_plain hpl hacc hd),
        plainlyWritten_stored s v _ hd, plainlyWritten_journalled s v _, plainlyWritten_regsBut s v _, rfl⟩
    · exact ⟨_, (exec_regWrite_aligned s e v hpl.aligned).trans (writeReg_plain hpl hacc hd),
        plainlyWritten_stored s v _ hd, plainlyWritten_journalled s v _, plainlyWritten_regsBut s v _, rfl⟩
  · obtain ⟨hval, l, hmod, hhi⟩ := Mod.busRead_unlatched (Mod.serves_iff.mpr ⟨hp, hr⟩) hl
    refine ⟨⟨_, exec_registerRead_word hp h4, ?_, ?_, ?_⟩, fun e hu => ⟨_, exec_regRead_aligned e hu h4, ?_, ?_⟩⟩
    · simp [hval, hmod, Mod.emit]
    · intro d hd hb
      simpa [hmod] using hhi d hd hb
    · simp [State.onMod, hmod, Mod.emit]
    · simp [hval, hmod, Mod.emit]
    · simp [State.onMod, hmod, Mod.emit]

end Sys2Proof.Machine

/-!
PROOFS of family 05_numerical_guard: a register write that its block refuses, the loss scale and seed writes (R116, R141,
R397), the shadow tiles and slag requests (R84, R118 to R121), and the two obligations that follow from them.
-/

namespace Sys2Proof.Machine

open Sys2Proof

/-! ### Writes that a register's own block refuses (R4, R441) -/

/-- A reply adds to what leaves the module and changes nothing else. -/
theorem replyTo_eq (o : Origin) (m : Mod) : replyTo o m = { m with out := m.out ++ State.replyOf stOk o } := by
  cases o with
  | host => simp [replyTo, State.replyOf]
  | mgmt e => rfl

@[simp] theorem replyTo_num (o : Origin) (m : Mod) : (replyTo o m).num = m.num := by cases o <;> rfl
@[simp] theorem replyTo_arr (o : Origin) (m : Mod) (g : Nat) : (replyTo o m).arr g = m.arr g := by cases o <;> rfl
@[simp] theorem replyTo_fget (o : Origin) (m : Mod) (f : Field) : (replyTo o m).fget f = m.fget f := by cases o <;> rfl
@[simp] theorem replyTo_flag (o : Origin) (m : Mod) (f : Field) : (replyTo o m).flag f = m.flag f := by cases o <;> rfl
@[simp] theorem replyTo_leOf (o : Origin) (m : Mod) (i : Nat) : (replyTo o m).leOf i = m.leOf i := by cases o <;> rfl

namespace Mod

/-- A write that passes R7 and R8 and is refused by its block leaves its entry with the block's status. -/
theorem busWrite_refused {mem : Memory} {m : Mod} {off : Nat} {d : RegDef} {v : Word} (o : Origin)
    (hs : m.serves off = true) (hd : regAt off = some d) (hw : writableBits d ≠ 0) (hc : m.commonCheck d off v = stOk)
    (hb : m.blockCheck mem off v ≠ stOk) (hr : ∀ m' : Mod, m'.blockRefused off v = m') :
    m.busWrite mem off v o = (mem, m.journalWrite (m.blockCheck mem off v) off (m.readValue off) v o) := by
  refine busWrite_of_regs (journalWrite_regs ..) ?_
  obtain ⟨hp, hready⟩ := serves_iff.mp hs
  have hserved : (!m.boot.powered || (!m.ready && decide (0x10000 ≤ off))) = false := by
    simpa [hp, Decidable.or_iff_not_imp_left] using hready
  simp [regWrite, refusedTrace, hserved, hd, hw, hc, hb, hr]

end Mod

theorem writableBits_ne_zero {d : RegDef} (h : recordedBits d ≠ 0) : writableBits d ≠ 0 := by
  intro hz
  apply h
  simp only [writableBits, Nat.or_eq_zero_iff] at hz
  obtain ⟨⟨⟨⟨hrw, -⟩, hwo⟩, hrws⟩, hrwl⟩ := hz
  simp [recordedBits, hrw, hwo, hrws, hrwl]

/-- A write that only its block refuses, where the block leaves no trace of it, is dropped with the block's status. -/
theorem writeReg_refused {s : State} {off : Nat} {v : Word} {o : Origin} {st : Nat} (h : s.Accepts off v o)
    (hb : s.mod.blockCheck s.mem off v = st) (hst : st ≠ stOk) (hr : ∀ m : Mod, m.blockRefused off v = m) :
    ∃ t, writeReg off v o s = .next t ∧ s.Dropped t st off v o := by
  subst hb
  obtain ⟨hp, hready, horigin, d, hd, hrec, hres, hlock⟩ := h
  have hs := Mod.serves_iff.mpr ⟨hp, hready⟩
  have hw := writableBits_ne_zero hrec
  have hc := commonCheck_ok hres hlock
  have hbus := Mod.busWrite_refused o hs hd hw hc hst hr
  refine ⟨_, rfl, ?_⟩
  cases o with
  | host =>
    simp only [Mod.commandWrite, hbus, State.Dropped, State.replyOf, List.append_nil]
    rfl
  | mgmt e =>
    have hup : s.mod.torvordUp = true := horigin
    have hcompl : s.mod.completionStatus s.mem off v = s.mod.blockCheck s.mem off v := by
      simp [Mod.completionStatus, hd, hs, hw, Mod.writeStatus, hc]
    simp only [Mod.commandWrite, hup, hbus, hcompl, State.Dropped, State.replyOf, if_true]
    rfl

/-- An effect that adds nothing to the journal and lets nothing leave the module keeps the write's entry and its reply. -/
theorem journalled_replyTo {s : State} {m : Mod} (off : Nat) (v : Word) (o : Origin)
    (hj : m.jnlPend = (s.mod.noted off v o).jnlPend) (hout : m.out = s.mod.out) :
    s.Journalled { s with mod := replyTo o m } off v o := by
  refine ⟨?_, ?_⟩
  · rw [replyTo_jnlPend, hj]
    rfl
  · rw [replyTo_out, hout]

/-! ### The word that a command's own bit is set in -/

theorem toNat_setBit (v : Word) (i : Nat) : (setBit v i).toNat = v.toNat ||| 2 ^ i % 2 ^ 32 := by
  simp [setBit]

theorem bitOf_eq_testBit (n i : Nat) : bitOf n i = n.testBit i := by
  rw [bitOf, Nat.testBit_eq_decide_div_mod_eq, ← Bool.beq_eq_decide_eq]

theorem bitOf_setBit_31 (v : Word) : bitOf (setBit v 31).toNat 31 = true := by
  rw [bitOf_eq_testBit, toNat_setBit, Nat.testBit_or]
  simp [show (2147483648 : Nat).testBit 31 = true by decide]

/-- The bits below the one set are those of the word. -/
theorem wordBits_setBit_below (v : Word) {i hi lo : Nat} (h : hi < i) : wordBits (setBit v i) hi lo = wordBits v hi lo := by
  apply Nat.eq_of_testBit_eq
  intro j
  rw [wordBits, wordBits, bitsOf_testBit, bitsOf_testBit, toNat_setBit, Nat.testBit_or, Nat.testBit_mod_two_pow,
    Nat.testBit_two_pow]
  by_cases hj : j < hi + 1 - lo
  · simp [hj, show i ≠ j + lo by omega]
  · simp [hj]

theorem wordBits_7_0_lt (v : Word) : wordBits v 7 0 < 256 := Nat.mod_lt _ (by decide)

namespace Mod

/-! ### The exponent of a step (R115, R116) -/

@[simp] theorem putLe_rd (m : Mod) (s le a : Nat) : (m.putLe s le).rd a = m.rd a := rfl
@[simp] theorem showLe_num (m : Mod) : m.showLe.num = m.num := rfl

theorem putLe_les (m : Mod) (s le : Nat) :
    (m.putLe s le).num.les = (s % 2 ^ 32, le) :: m.num.les.filter (fun e => e.1 != s % 2 ^ 32) := rfl

theorem mem_les_putLe {m : Mod} {s le : Nat} {e : Nat × Nat} (he : e ∈ m.num.les) (hne : e.1 ≠ s % 2 ^ 32) :
    e ∈ (m.putLe s le).num.les :=
  List.mem_cons_of_mem _ (List.mem_filter.mpr ⟨he, by simpa using hne⟩)

/-- An exponent in the list is the step's, whatever the guard's registers hold. -/
theorem leOf_of_find {m : Mod} {s : Nat} {e : Nat × Nat} (h : m.num.les.find? (fun e => e.1 == s % 2 ^ 32) = some e) :
    m.leOf s = some e.2 := by
  simp only [leOf, h]

/-- The display changes three registers. -/
theorem showLe_rd_ne (m : Mod) {a : Nat} (h1 : a ≠ Reg.NUM_LS_NOW) (h2 : a ≠ Reg.NUM_LS_NOW_STEP) (h3 : a ≠ Reg.NUM_STATUS) :
    m.showLe.rd a = m.rd a := by
  rw [showLe, rd_fput_ne _ _ _ h3, rd_wrN_ne _ _ h2, rd_wrN_ne _ _ h1]

/-- What NUM_LS_ARM does: NUM_LS_SET keeps the exponent, two steps get it, and the latest exponent is shown. -/
def armedLe (m : Mod) (s le : Nat) : Mod := (((m.wrN Reg.NUM_LS_SET le).putLe s le).putLe (s + 1) le).showLe

theorem armedLe_eq (m : Mod) (s le : Nat) :
    m.armedLe s le = { m with
      regs := (m.armedLe s le).regs, num := { m.num with les := (m.armedLe s le).num.les } } := rfl

theorem leOf_armedLe_next (m : Mod) (s le : Nat) : (m.armedLe s le).leOf (s + 1) = some le :=
  leOf_of_find (e := ((s + 1) % 2 ^ 32, le)) (by simp [armedLe, putLe_les])

theorem leOf_armedLe_step (m : Mod) (s le : Nat) : (m.armedLe s le).leOf s = some le := by
  have hne : (s + 1) % 2 ^ 32 ≠ s % 2 ^ 32 := by omega
  refine leOf_of_find (e := (s % 2 ^ 32, le)) ?_
  rw [armedLe, showLe_num, putLe_les, List.find?_cons_of_neg (by simpa using hne), putLe_les, List.filter_cons_of_pos
    (by simpa using hne.symm), List.find?_cons_of_pos (by simp)]

theorem mem_les_armedLe {m : Mod} {s le : Nat} {e : Nat × Nat} (he : e ∈ m.num.les) (h0 : e.1 ≠ s % 2 ^ 32)
    (h1 : e.1 ≠ (s + 1) % 2 ^ 32) : e ∈ (m.armedLe s le).num.les :=
  mem_les_putLe (mem_les_putLe he h0) h1

theorem armedLe_rd_ne (m : Mod) (s le : Nat) {a : Nat}
    (h : a ∉ [Reg.NUM_LS_SET, Reg.NUM_LS_NOW, Reg.NUM_LS_NOW_STEP, Reg.NUM_STATUS]) : (m.armedLe s le).rd a = m.rd a := by
  simp only [List.mem_cons, List.not_mem_nil, or_false, not_or] at h
  obtain ⟨hset, hnow, hstep, hstatus⟩ := h
  rw [armedLe, showLe_rd_ne _ hnow hstep hstatus, putLe_rd, putLe_rd, rd_wrN_ne _ _ hset]

theorem armedLe_rdN_set (m : Mod) (s : Nat) {le : Nat} (h : le < 256) : (m.armedLe s le).rdN Reg.NUM_LS_SET = le := by
  have hrd : (m.armedLe s le).rd Reg.NUM_LS_SET = (m.wrN Reg.NUM_LS_SET le).rd Reg.NUM_LS_SET :=
    showLe_rd_ne _ (by decide) (by decide) (by decide)
  rw [rdN, hrd]
  simp only [wrN, rd_wr_same, BitVec.toNat_ofNat]
  omega

theorem armedLe_arm (m : Mod) (s : Nat) {le : Nat} (h : le < 256) : (m.armedLe s le).flag Fld.NUM_LS_ARM = false := by
  have hbit : bitsOf le 31 31 = 0 := by unfold bitsOf; omega
  simp [flag, fget, Fld.NUM_LS_ARM, armedLe_rdN_set m s h, hbit]

theorem armedLe_exponent (m : Mod) (s : Nat) {le : Nat} (h : le < 256) :
    (m.armedLe s le).fget ⟨Reg.NUM_LS_SET, 7, 0⟩ = le := by
  have hbits : bitsOf le 7 0 = le := by unfold bitsOf; omega
  simp [fget, armedLe_rdN_set m s h, hbits]

/-! ### The checks and effects of NUM_LS_SET and of the seed -/

theorem blockCheck_lsSet (mem : Memory) (m : Mod) (v : Word) (ha : bitOf v.toNat 31 = true) :
    m.blockCheck mem Reg.NUM_LS_SET v =
      if m.flag Fld.CAST_RS_LOCKED = true then stAccessDenied else if m.lsSetOk v = true then stOk else stMalformed := by
  change (if m.flag Fld.CAST_RS_LOCKED = true then stAccessDenied
    else if (bitOf v.toNat 31 && !m.lsSetOk v) = true then stMalformed else stOk) = _
  cases m.lsSetOk v <;> simp [ha]

theorem blockEffect_lsSet (m : Mod) (v : Word) (o : Origin) (ha : bitOf v.toNat 31 = true) :
    m.blockEffect Reg.NUM_LS_SET v o = m.armedLe (m.rdN Reg.NUM_LS_SET_STEP) (wordBits v 7 0) := by
  change (if bitOf v.toNat 31 = true then _ else _) = _
  rw [if_pos ha]
  rfl

theorem blockCheck_seedLo (mem : Memory) (m : Mod) (v : Word) :
    m.blockCheck mem Reg.NUM_SEED_LO v = if m.flag Fld.CAST_RS_LOCKED = true then stAccessDenied else stOk := rfl

theorem blockEffect_seedLo (m : Mod) (v : Word) (o : Origin) :
    m.blockEffect Reg.NUM_SEED_LO v o = m.regStore Reg.NUM_SEED_LO v := rfl

theorem blockCheck_seedHi (mem : Memory) (m : Mod) (v : Word) :
    m.blockCheck mem Reg.NUM_SEED_HI v =
      if (m.noCoreBusy && !m.flag Fld.CAST_RS_LOCKED) = true then stOk else stAccessDenied := rfl

theorem blockEffect_seedHi (m : Mod) (v : Word) (o : Origin) :
    m.blockEffect Reg.NUM_SEED_HI v o = (m.regStore Reg.NUM_SEED_HI v).setBase64 Reg.NUM_SEED_LO
      (m.rdN Reg.NUM_SEED_LO + 2 ^ 32 * v.toNat) := rfl

end Mod

/-! ### NUM_LS_ARM, NUM_SEED_LO and NUM_SEED_HI -/

/-- NUM_LS_ARM accepted: the entry, the exponent of two steps, the reply (R116). -/
theorem exec_numLsArm_accepted {s : State} {v : Word} {o : Origin} (h : s.Accepts Reg.NUM_LS_SET (setBit v 31) o)
    (hl : s.mod.flag Fld.CAST_RS_LOCKED = false) (hok : s.mod.lsSetOk (setBit v 31) = true) :
    exec (.numLsArm v o) s = .next { s with
      mod := replyTo o ((s.mod.noted Reg.NUM_LS_SET (setBit v 31) o).armedLe (s.mod.rdN Reg.NUM_LS_SET_STEP)
        (wordBits v 7 0)) } := by
  have hb : s.mod.blockCheck s.mem Reg.NUM_LS_SET (setBit v 31) = stOk := by
    rw [Mod.blockCheck_lsSet _ _ _ (bitOf_setBit_31 v)]
    simp [hl, hok]
  change writeReg Reg.NUM_LS_SET (setBit v 31) o s = _
  rw [writeReg_accepted h hb rfl rfl, Mod.blockEffect_lsSet _ _ _ (bitOf_setBit_31 v),
    wordBits_setBit_below v (by decide)]
  rfl

/-- NUM_LS_ARM refused: under the restore lock with ACCESS_DENIED, else for its values with MALFORMED (R116, R397). -/
theorem exec_numLsArm_dropped {s : State} {v : Word} {o : Origin} (h : s.Accepts Reg.NUM_LS_SET (setBit v 31) o)
    (hno : s.mod.flag Fld.CAST_RS_LOCKED = true ∨ s.mod.lsSetOk (setBit v 31) = false) :
    ∃ t, exec (.numLsArm v o) s = .next t ∧
      s.Dropped t (if s.mod.flag Fld.CAST_RS_LOCKED = true then stAccessDenied else stMalformed)
        Reg.NUM_LS_SET (setBit v 31) o := by
  refine writeReg_refused h ?_ (by split <;> decide) fun _ => rfl
  rw [Mod.blockCheck_lsSet _ _ _ (bitOf_setBit_31 v)]
  rcases hno with hl | hbad
  · simp [hl]
  · simp [hbad]

/-- What an accepted NUM_LS_ARM leaves. -/
theorem numLsArm_accepted {s : State} {v : Word} {o : Origin} (h : s.Accepts Reg.NUM_LS_SET (setBit v 31) o)
    (hl : s.mod.flag Fld.CAST_RS_LOCKED = false) (hok : s.mod.lsSetOk (setBit v 31) = true) :
    ∃ t, exec (.numLsArm v o) s = .next t ∧ s.Journalled t Reg.NUM_LS_SET (setBit v 31) o ∧
      t.mod.leOf (s.mod.rdN Reg.NUM_LS_SET_STEP) = some (wordBits v 7 0) ∧
      t.mod.leOf (s.mod.rdN Reg.NUM_LS_SET_STEP + 1) = some (wordBits v 7 0) ∧
      t.mod.flag Fld.NUM_LS_ARM = false ∧ t.mod.fget ⟨Reg.NUM_LS_SET, 7, 0⟩ = wordBits v 7 0 ∧
      (∀ e ∈ s.mod.num.les, e.1 ≠ s.mod.rdN Reg.NUM_LS_SET_STEP → e.1 ≠ (s.mod.rdN Reg.NUM_LS_SET_STEP + 1) % 2 ^ 32 →
        e ∈ t.mod.num.les) ∧
      s.RegsBut [Reg.NUM_LS_SET, Reg.NUM_LS_NOW, Reg.NUM_LS_NOW_STEP, Reg.NUM_STATUS] t ∧
      t = { s with mod := { s.mod with
        regs := t.mod.regs, jnlPend := t.mod.jnlPend, out := t.mod.out, num := { s.mod.num with les := t.mod.num.les } } } := by
  refine ⟨_, exec_numLsArm_accepted h hl hok, journalled_replyTo _ _ _ rfl rfl, ?_⟩
  have hlt := wordBits_7_0_lt v
  have hstep : s.mod.rdN Reg.NUM_LS_SET_STEP % 2 ^ 32 = s.mod.rdN Reg.NUM_LS_SET_STEP :=
    Nat.mod_eq_of_lt (Mod.rdN_lt ..)
  refine ⟨?_, ?_, ?_, ?_, fun e he h0 h1 => ?_, fun a ha => ?_, ?_⟩
  · simp only [replyTo_leOf, Mod.leOf_armedLe_step]
  · simp only [replyTo_leOf, Mod.leOf_armedLe_next]
  · simp only [replyTo_flag, Mod.armedLe_arm _ _ hlt]
  · simp only [replyTo_fget, Mod.armedLe_exponent _ _ hlt]
  · rw [replyTo_num]
    exact Mod.mem_les_armedLe he (by rwa [hstep]) h1
  · simp only [replyTo_rd, Mod.armedLe_rd_ne _ _ _ ha, Mod.noted_rd]
  · rw [replyTo_eq, Mod.armedLe_eq]
    rfl

/-- NUM_SEED_LO accepted is stored and no more; the seed in force is the 64 bits last taken (R141). -/
theorem exec_numSeedLo_accepted {s : State} {v : Word} {o : Origin} {d : RegDef} (h : s.Accepts Reg.NUM_SEED_LO v o)
    (hd : regAt Reg.NUM_SEED_LO = some d) (hl : s.mod.flag Fld.CAST_RS_LOCKED = false) :
    exec (.numSeedLo v o) s = .next (s.plainlyWritten d Reg.NUM_SEED_LO v o) := by
  change writeReg Reg.NUM_SEED_LO v o s = _
  rw [writeReg_accepted h (by simp [Mod.blockCheck_seedLo, hl]) rfl rfl, Mod.blockEffect_seedLo, Mod.regStore_of_regAt hd]
  rfl

/-- NUM_SEED_HI accepted is stored, and takes both words as the seed (R141). -/
theorem exec_numSeedHi_accepted {s : State} {v : Word} {o : Origin} {d : RegDef} (h : s.Accepts Reg.NUM_SEED_HI v o)
    (hd : regAt Reg.NUM_SEED_HI = some d) (hq : s.mod.noCoreBusy = true) (hl : s.mod.flag Fld.CAST_RS_LOCKED = false) :
    exec (.numSeedHi v o) s = .next ((s.plainlyWritten d Reg.NUM_SEED_HI v o).onMod fun m =>
      m.setBase64 Reg.NUM_SEED_LO (s.mod.rdN Reg.NUM_SEED_LO + 2 ^ 32 * v.toNat)) := by
  change writeReg Reg.NUM_SEED_HI v o s = _
  rw [writeReg_accepted h (by simp [Mod.blockCheck_seedHi, hq, hl]) rfl rfl, Mod.blockEffect_seedHi,
    Mod.regStore_of_regAt hd]
  cases o <;> rfl

/-- Settles O27: NUM_LS_ARM puts the exponent of two steps in front of the list, and the seed is taken by its high word;
what the NUM_ block's check refuses is dropped with the check's status. -/
theorem lossScaleAndSeedWrites : Obligations.LossScaleAndSeedWrites := by
  refine ⟨fun s v o h => ⟨numLsArm_accepted h, fun hl => ?_, fun hl hbad => ?_⟩,
    fun s v o h => ⟨fun hl => ?_, fun hl => ?_⟩, fun s v o h => ⟨fun hq hl => ?_, fun hno => ?_⟩⟩
  · simpa [hl] using exec_numLsArm_dropped h (.inl hl)
  · simpa [hl] using exec_numLsArm_dropped h (.inr hbad)
  · obtain ⟨d, hd⟩ := h.register
    refine ⟨_, exec_numSeedLo_accepted h hd hl, plainlyWritten_stored s v o hd, plainlyWritten_journalled s v o, ?_,
      plainlyWritten_regsBut s v o, ?_⟩ <;> cases o <;> rfl
  · exact writeReg_refused h (by simp [Mod.blockCheck_seedLo, hl]) (by decide) fun _ => rfl
  · obtain ⟨d, hd⟩ := h.register
    refine ⟨_, exec_numSeedHi_accepted h hd hq hl, plainlyWritten_stored s v o hd, plainlyWritten_journalled s v o,
      Mod.base64_setBase64_same .., fun a ha => (Mod.base64_setBase64_ne _ _ ha).trans ?_,
      plainlyWritten_regsBut s v o, ?_⟩ <;> cases o <;> rfl
  · exact writeReg_refused h (by rw [Mod.blockCheck_seedHi, if_neg (by simpa using hno)]) (by decide) fun _ => rfl

namespace Mod

/-! ### Counters and arrays after an update -/

theorem rdN_addSat_same (m : Mod) (a k : Nat) : (m.addSat a k).rdN a = min (m.rdN a + k) 0xFFFFFFFF := by
  rw [addSat, rdN_wrN, if_pos rfl]
  omega

theorem rdN_inc_same (m : Mod) (a : Nat) : (m.inc a).rdN a = min (m.rdN a + 1) 0xFFFFFFFF := rdN_addSat_same ..

@[simp] theorem arr_modArr_same (m : Mod) (g : Nat) (f : ArraySt → ArraySt) : (m.modArr g f).arr g = f (m.arr g) := by
  simp [modArr, setArr, arr]

theorem arr_modArr_ne (m : Mod) {g k : Nat} (f : ArraySt → ArraySt) (h : k ≠ g) : (m.modArr g f).arr k = m.arr k := by
  simp [modArr, setArr, arr, tabGet_put_ne _ _ _ h]

@[simp] theorem modArr_regs (m : Mod) (g : Nat) (f : ArraySt → ArraySt) : (m.modArr g f).regs = m.regs := rfl
@[simp] theorem modArr_events (m : Mod) (g : Nat) (f : ArraySt → ArraySt) : (m.modArr g f).events = m.events := rfl
@[simp] theorem modArr_rdN (m : Mod) (g : Nat) (f : ArraySt → ArraySt) (a : Nat) : (m.modArr g f).rdN a = m.rdN a := by
  simp [rdN, rd]
@[simp] theorem wr_arr (m : Mod) (a : Nat) (v : Word) (g : Nat) : (m.wr a v).arr g = m.arr g := by simp [arr]
@[simp] theorem noted_arr (m : Mod) (off : Nat) (v : Word) (o : Origin) (g : Nat) : (m.noted off v o).arr g = m.arr g := rfl
@[simp] theorem fput_arr (m : Mod) (f : Field) (b : Bool) (g : Nat) : (m.fput f b).arr g = m.arr g := by simp [arr]
@[simp] theorem addSat_arr (m : Mod) (a k g : Nat) : (m.addSat a k).arr g = m.arr g := by simp [arr]
@[simp] theorem inc_arr (m : Mod) (a g : Nat) : (m.inc a).arr g = m.arr g := by simp [arr]
@[simp] theorem postCluster_arr (m : Mod) (code c : Nat) (e : List Byte) (g : Nat) :
    (m.postCluster code c e).arr g = m.arr g := by simp [arr]

/-! ### What a step of a cluster's array guard leaves -/

/-- Nothing but some registers, the array of one cluster and the events differs from one module to the next. -/
structure GuardStep (g : Nat) (offs : List Nat) (m m' : Mod) : Prop where
  regs : ∀ a, a ∉ offs → m'.rd a = m.rd a
  others : ∀ k, k ≠ g → m'.arr k = m.arr k
  frame : ∃ r x e, m' = { m with regs := r, arrays := x, events := e }

namespace GuardStep

variable {g : Nat} {offs : List Nat} {m m' m'' : Mod}

theorem refl (g : Nat) (offs : List Nat) (m : Mod) : GuardStep g offs m m :=
  ⟨fun _ _ => rfl, fun _ _ => rfl, _, _, _, rfl⟩

theorem trans (h : GuardStep g offs m m') (h' : GuardStep g offs m' m'') : GuardStep g offs m m'' := by
  refine ⟨fun a ha => (h'.regs a ha).trans (h.regs a ha), fun k hk => (h'.others k hk).trans (h.others k hk), ?_⟩
  obtain ⟨r, x, e, rfl⟩ := h.frame
  obtain ⟨r', x', e', rfl⟩ := h'.frame
  exact ⟨r', x', e', rfl⟩

theorem mono {offs' : List Nat} (h : GuardStep g offs m m') (hs : offs ⊆ offs') : GuardStep g offs' m m' :=
  ⟨fun a ha => h.regs a fun hm => ha (hs hm), h.others, h.frame⟩

theorem rdN (h : GuardStep g offs m m') {a : Nat} (ha : a ∉ offs) : m'.rdN a = m.rdN a :=
  congrArg BitVec.toNat (h.regs a ha)

theorem fget (h : GuardStep g offs m m') {f : Field} (hf : f.reg ∉ offs) : m'.fget f = m.fget f := by
  rw [Mod.fget, h.rdN hf, Mod.fget]

theorem ready (h : GuardStep g offs m m') (hid : Reg.ID_BOOT ∉ offs) : m'.ready = m.ready := by
  rw [Mod.ready, flag, h.fget hid, ← flag, ← Mod.ready]

theorem chip (h : GuardStep g offs m m') (hself : Reg.FAB_SELF ∉ offs) (d : Nat) : m'.chip d = m.chip d := by
  rw [Mod.chip, self, h.rdN hself, ← self, ← Mod.chip]

theorem now (h : GuardStep g offs m m') : m'.now = m.now := by
  obtain ⟨r, x, e, rfl⟩ := h.frame
  rfl

theorem heatNo (h : GuardStep g offs m m') : m'.heatNo = m.heatNo := by
  obtain ⟨r, x, e, rfl⟩ := h.frame
  rfl

/-- The frame as the obligations write it. -/
theorem frame_eq (h : GuardStep g offs m m') :
    m' = { m with regs := m'.regs, arrays := m'.arrays, events := m'.events } := by
  obtain ⟨r, x, e, rfl⟩ := h.frame
  rfl

end GuardStep

/-- A cluster-level event of a ready module names its die's chip and its place on the die. -/
theorem postCluster_events {m : Mod} (hr : m.ready = true) (code g : Nat) (e : List Byte) :
    (m.postCluster code g e).events =
      m.events ++ [⟨m.now, m.heatNo, code, m.chip (g / 12), g % 12, 0, padBytes 14 e⟩] := by
  rw [postCluster, post_events, if_pos hr]

theorem modArr_guardStep (m : Mod) (g : Nat) (f : ArraySt → ArraySt) (offs : List Nat) :
    GuardStep g offs m (m.modArr g f) :=
  ⟨fun _ _ => rfl, fun _ hk => arr_modArr_ne _ _ hk, _, _, _, rfl⟩

theorem wr_guardStep (m : Mod) (g a : Nat) (v : Word) {offs : List Nat} (ha : a ∈ offs) : GuardStep g offs m (m.wr a v) :=
  ⟨fun _ hb => rd_wr_ne _ _ fun he => hb (he ▸ ha), fun _ _ => rfl, _, _, _, rfl⟩

theorem wrN_guardStep (m : Mod) (g a v : Nat) {offs : List Nat} (ha : a ∈ offs) : GuardStep g offs m (m.wrN a v) :=
  wr_guardStep m g a _ ha

theorem inc_guardStep (m : Mod) (g a : Nat) {offs : List Nat} (ha : a ∈ offs) : GuardStep g offs m (m.inc a) :=
  wrN_guardStep m g a _ ha

theorem postCluster_guardStep (m : Mod) (g code c : Nat) (e : List Byte) (offs : List Nat) :
    GuardStep g offs m (m.postCluster code c e) := by
  refine ⟨fun _ _ => postCluster_rd .., fun _ _ => postCluster_arr .., ?_⟩
  unfold postCluster post
  split
  · exact ⟨_, _, _, rfl⟩
  · exact ⟨_, _, _, rfl⟩

/-! ### A column waiting to be slagged (R84) -/

theorem arr_requestSlag (m : Mod) (g col src : Nat) :
    (m.requestSlag g col src).arr g = { m.arr g with slagPend := (m.arr g).slagPend ++ [(col, src)] } := by
  simp [requestSlag]

@[simp] theorem requestSlag_events (m : Mod) (g col src : Nat) : (m.requestSlag g col src).events = m.events := by
  rw [requestSlag, fput_events, modArr_events]

theorem requestSlag_pend (m : Mod) (g col src : Nat) : (m.requestSlag g col src).flag (Fld.ARR_SLAG_PEND g) = true :=
  flag_fput_same _ _ _ rfl (by decide : (18 : Nat) < 32)

theorem requestSlag_guardStep (m : Mod) (g col src : Nat) {offs : List Nat} (h : Reg.ARR_STATUS g ∈ offs) :
    GuardStep g offs m (m.requestSlag g col src) :=
  (modArr_guardStep m g _ offs).trans (wrN_guardStep _ g _ _ h)

/-! ### The suspect column (R121) -/

/-- A checked tile leaves the suspect register as it is, or writes it, or writes it and asks for its column to be slagged. -/
theorem suspectStep_cases (m : Mod) (g : Nat) (c : Capture) (bad : List Nat) :
    m.suspectStep g c bad = m ∨ (∃ x, m.suspectStep g c bad = m.wrN (Reg.NUM_SHADOW_SUSPECT g) x) ∨
      ∃ x col, m.suspectStep g c bad = (m.wrN (Reg.NUM_SHADOW_SUSPECT g) x).requestSlag g col 3 := by
  match bad with
  | [] =>
    simp only [suspectStep]
    split
    · exact .inr (.inl ⟨_, rfl⟩)
    · exact .inl rfl
  | [j] =>
    simp only [suspectStep]
    split
    all_goals
      split
      · exact .inr (.inr ⟨_, _, rfl⟩)
      · exact .inr (.inl ⟨_, rfl⟩)
  | _ :: _ :: _ => exact .inl rfl

theorem suspectStep_guardStep (m : Mod) (g : Nat) (c : Capture) (bad : List Nat) :
    GuardStep g [Reg.NUM_SHADOW_SUSPECT g, Reg.ARR_STATUS g] m (m.suspectStep g c bad) := by
  rcases suspectStep_cases m g c bad with h | ⟨x, h⟩ | ⟨x, col, h⟩ <;> rw [h]
  · exact .refl ..
  · exact wrN_guardStep _ _ _ _ (by simp)
  · exact (wrN_guardStep _ _ _ _ (by simp)).trans (requestSlag_guardStep _ _ _ _ (by simp))

theorem arr_suspectStep (m : Mod) (g : Nat) (c : Capture) (bad : List Nat) :
    ∃ p, (m.suspectStep g c bad).arr g = { m.arr g with slagPend := p } := by
  rcases suspectStep_cases m g c bad with h | ⟨x, h⟩ | ⟨x, col, h⟩ <;> rw [h]
  · exact ⟨_, rfl⟩
  · exact ⟨_, rfl⟩
  · exact ⟨_, arr_requestSlag ..⟩

theorem suspectStep_events (m : Mod) (g : Nat) (c : Capture) (bad : List Nat) :
    (m.suspectStep g c bad).events = m.events := by
  rcases suspectStep_cases m g c bad with h | ⟨x, h⟩ | ⟨x, col, h⟩ <;> simp [h]

/-! ### A disagreeing tile (R120) -/

theorem disagreed_guardStep (m : Mod) (g : Nat) (c : Capture) (bad : List Nat) :
    GuardStep g [Reg.NUM_DIE_CTR (g / 12) 8] m (m.disagreed g c bad) := by
  have hcount := inc_guardStep m g (Reg.NUM_DIE_CTR (g / 12) 8) (List.mem_singleton_self _)
  simp only [disagreed]
  split
  · exact (hcount.trans (modArr_guardStep ..)).trans (postCluster_guardStep ..)
  · exact hcount.trans (modArr_guardStep ..)

theorem rdN_disagreed (m : Mod) (g : Nat) (c : Capture) (bad : List Nat) :
    (m.disagreed g c bad).rdN (Reg.NUM_DIE_CTR (g / 12) 8) =
      min (m.rdN (Reg.NUM_DIE_CTR (g / 12) 8) + 1) 0xFFFFFFFF := by
  simp only [disagreed]
  split
  · rw [postCluster_rdN, modArr_rdN, rdN_inc_same]
  · rw [modArr_rdN, rdN_inc_same]

theorem disagreed_below {m : Mod} {g : Nat} (c : Capture) (bad : List Nat)
    (h : ¬ m.fget Fld.NUM_SHADOW_THRESH ≤ (m.arr g).disagree + 1) :
    (m.disagreed g c bad).arr g = { m.arr g with disagree := (m.arr g).disagree + 1 } ∧
      (m.disagreed g c bad).events = m.events := by
  simp [disagreed, h]

theorem arr_disagreed (m : Mod) (g : Nat) (c : Capture) (bad : List Nat) :
    ∃ d, (m.disagreed g c bad).arr g = { m.arr g with disagree := d } := by
  simp only [disagreed]
  split
  · exact ⟨_, by rw [postCluster_arr, arr_modArr_same, inc_arr]⟩
  · exact ⟨_, by rw [arr_modArr_same, inc_arr]⟩

/-- A register below the counters of the dies is none of them. -/
theorem not_dieCtr {a : Nat} (d i : Nat) (h : a < 0x90100) : a ∉ [Reg.NUM_DIE_CTR d i] := by
  simp only [List.mem_singleton, Reg.NUM_DIE_CTR]
  omega

/-- SHADOW_DISAGREE: the count, the tile's class, the lowest and highest bad column and the mask of the tile's columns. -/
def disagreeEvent (m : Mod) (g : Nat) (c : Capture) (bad : List Nat) : EvRec :=
  ⟨m.now, m.heatNo, 0x125, m.chip (g / 12), g % 12, 0, padBytes 14
    (let cols := bad.map (fun j => c.phys.getD j 0)
    leBytes 2 ((m.arr g).disagree + 1) ++ leBytes 1 c.cls ++ leBytes 2 (cols.foldl min 511) ++
      leBytes 2 (cols.foldl max 0) ++ leBytes 4 (bad.foldl (fun x j => x + 2 ^ j) 0))⟩

/-- At the threshold the count is told and starts again. -/
theorem disagreed_reported {m : Mod} {g : Nat} (c : Capture) (bad : List Nat) (hr : m.ready = true)
    (h : m.fget Fld.NUM_SHADOW_THRESH ≤ (m.arr g).disagree + 1) :
    (m.disagreed g c bad).arr g = { m.arr g with disagree := 0 } ∧
      (m.disagreed g c bad).events = m.events ++ [m.disagreeEvent g c bad] := by
  have hstep : GuardStep g [Reg.NUM_DIE_CTR (g / 12) 8] m
      ((m.inc (Reg.NUM_DIE_CTR (g / 12) 8)).modArr g (fun a => { a with disagree := 0 })) :=
    (inc_guardStep _ _ _ (List.mem_singleton_self _)).trans (modArr_guardStep ..)
  simp only [disagreed, if_pos h]
  refine ⟨by simp, ?_⟩
  rw [postCluster_events ((hstep.ready (not_dieCtr _ _ (by decide))).trans hr), hstep.now,
    hstep.heatNo, hstep.chip (not_dieCtr _ _ (by decide))]
  rfl

/-! ### The check and the drop of captures (R118, R119) -/

/-- A capture leaves its queue and counts as a tile checked. -/
def tileTaken (m : Mod) (g : Nat) (cs : List Capture) : Mod :=
  (m.modArr g (fun a => { a with captures := cs })).inc (Reg.NUM_DIE_CTR (g / 12) 7)

theorem tileTaken_guardStep (m : Mod) (g : Nat) (cs : List Capture) :
    GuardStep g [Reg.NUM_DIE_CTR (g / 12) 7] m (m.tileTaken g cs) :=
  (modArr_guardStep ..).trans (inc_guardStep _ _ _ (List.mem_singleton_self _))

theorem arr_tileTaken (m : Mod) (g : Nat) (cs : List Capture) :
    (m.tileTaken g cs).arr g = { m.arr g with captures := cs } := by simp [tileTaken]

theorem rdN_tileTaken (m : Mod) (g : Nat) (cs : List Capture) :
    (m.tileTaken g cs).rdN (Reg.NUM_DIE_CTR (g / 12) 7) = min (m.rdN (Reg.NUM_DIE_CTR (g / 12) 7) + 1) 0xFFFFFFFF := by
  rw [tileTaken, rdN_inc_same, modArr_rdN]

theorem tileTaken_events (m : Mod) (g : Nat) (cs : List Capture) : (m.tileTaken g cs).events = m.events := rfl

/-- The oldest capture, in time and on a die that is not halted: it is taken, counted where a column disagrees, and moves
the suspect column. -/
theorem shadowCheck_inTime {m : Mod} {g : Nat} {c : Capture} {cs : List Capture} (hh : m.dieHalted (g / 12) = false)
    (hc : (m.arr g).captures = c :: cs) (ht : m.heatNo ≤ c.heat + 1) :
    m.shadowCheck g = ((m.tileTaken g cs).when (!(m.badColumns c).isEmpty) fun m' =>
      m'.disagreed g c (m.badColumns c)).suspectStep g c (m.badColumns c) := by
  simp only [shadowCheck, hh, hc, Bool.false_eq_true, if_false, if_neg (Nat.not_lt.mpr ht), tileTaken]

/-- The counters of a die stand apart from what its clusters show of suspects and of slagging. -/
theorem dieCtr_apart {g i : Nat} (hg : g < 48) (hi : i < 10) :
    Reg.NUM_DIE_CTR (g / 12) i ∉ [Reg.NUM_SHADOW_SUSPECT g, Reg.ARR_STATUS g] := by
  simp only [List.mem_cons, List.not_mem_nil, or_false, Reg.NUM_DIE_CTR, Reg.NUM_SHADOW_SUSPECT, Reg.ARR_STATUS]
  omega

theorem dieCtr_ne (d : Nat) {i j : Nat} (h : i ≠ j) : Reg.NUM_DIE_CTR d i ∉ [Reg.NUM_DIE_CTR d j] := by
  simp only [List.mem_singleton, Reg.NUM_DIE_CTR]
  omega

section

variable {m : Mod} {g : Nat} {c : Capture} {cs : List Capture}

/-- A check changes two counters of the die, the suspect column, ARR_STATUS, the cluster's array and the events. -/
theorem shadowCheck_guardStep (hh : m.dieHalted (g / 12) = false) (hc : (m.arr g).captures = c :: cs)
    (ht : m.heatNo ≤ c.heat + 1) :
    GuardStep g [Reg.NUM_DIE_CTR (g / 12) 7, Reg.NUM_DIE_CTR (g / 12) 8, Reg.NUM_SHADOW_SUSPECT g, Reg.ARR_STATUS g] m
      (m.shadowCheck g) := by
  rw [shadowCheck_inTime hh hc ht]
  refine ((tileTaken_guardStep m g cs).mono (by simp)).trans (.trans ?_ ((suspectStep_guardStep ..).mono (by simp)))
  unfold when
  split
  · exact (disagreed_guardStep ..).mono (by simp)
  · exact .refl ..

/-- The check of a tile whose columns all agree. -/
theorem shadowCheck_agreeing (hh : m.dieHalted (g / 12) = false) (hc : (m.arr g).captures = c :: cs)
    (ht : m.heatNo ≤ c.heat + 1) (hb : m.badColumns c = []) :
    m.shadowCheck g = (m.tileTaken g cs).suspectStep g c [] := by
  rw [shadowCheck_inTime hh hc ht, hb]
  rfl

/-- The check of a tile with a column that disagrees. -/
theorem shadowCheck_disagreeing (hh : m.dieHalted (g / 12) = false) (hc : (m.arr g).captures = c :: cs)
    (ht : m.heatNo ≤ c.heat + 1) (hb : m.badColumns c ≠ []) :
    m.shadowCheck g =
      ((m.tileTaken g cs).disagreed g c (m.badColumns c)).suspectStep g c (m.badColumns c) := by
  rw [shadowCheck_inTime hh hc ht, show (m.badColumns c).isEmpty = false by simpa using hb]
  rfl

theorem rdN_suspectStep (hg : g < 48) (bad : List Nat) {i : Nat} (hi : i < 10) :
    (m.suspectStep g c bad).rdN (Reg.NUM_DIE_CTR (g / 12) i) = m.rdN (Reg.NUM_DIE_CTR (g / 12) i) :=
  (suspectStep_guardStep m g c bad).rdN (dieCtr_apart hg hi)

theorem suspectStep_disagree (bad : List Nat) : ((m.suspectStep g c bad).arr g).disagree = (m.arr g).disagree := by
  obtain ⟨p, hp⟩ := arr_suspectStep m g c bad
  rw [hp]

/-- What a check leaves of the cluster's array: the capture is taken, and only the count of disagreements and the columns
waiting to be slagged may move. -/
theorem arr_shadowCheck (hh : m.dieHalted (g / 12) = false) (hc : (m.arr g).captures = c :: cs)
    (ht : m.heatNo ≤ c.heat + 1) :
    ∃ d p, (m.shadowCheck g).arr g = { m.arr g with captures := cs, disagree := d, slagPend := p } := by
  by_cases hb : m.badColumns c = []
  · obtain ⟨p, hp⟩ := arr_suspectStep (m.tileTaken g cs) g c []
    exact ⟨_, p, by rw [shadowCheck_agreeing hh hc ht hb, hp, arr_tileTaken]⟩
  · obtain ⟨p, hp⟩ := arr_suspectStep ((m.tileTaken g cs).disagreed g c (m.badColumns c)) g c (m.badColumns c)
    obtain ⟨d, hd⟩ := arr_disagreed (m.tileTaken g cs) g c (m.badColumns c)
    exact ⟨d, p, by rw [shadowCheck_disagreeing hh hc ht hb, hp, hd, arr_tileTaken]⟩

theorem rdN_shadowCheck_tiles (hg : g < 48) (hh : m.dieHalted (g / 12) = false) (hc : (m.arr g).captures = c :: cs)
    (ht : m.heatNo ≤ c.heat + 1) :
    (m.shadowCheck g).rdN (Reg.NUM_DIE_CTR (g / 12) 7) =
      min (m.rdN (Reg.NUM_DIE_CTR (g / 12) 7) + 1) 0xFFFFFFFF := by
  by_cases hb : m.badColumns c = []
  · rw [shadowCheck_agreeing hh hc ht hb, rdN_suspectStep hg _ (by decide), rdN_tileTaken]
  · rw [shadowCheck_disagreeing hh hc ht hb, rdN_suspectStep hg _ (by decide),
      (disagreed_guardStep ..).rdN (dieCtr_ne _ (by decide)), rdN_tileTaken]

/-- Where all columns agree, nothing is counted but the tile. -/
theorem shadowCheck_agreeing_leaves (hg : g < 48) (hh : m.dieHalted (g / 12) = false)
    (hc : (m.arr g).captures = c :: cs) (ht : m.heatNo ≤ c.heat + 1) (hb : m.badColumns c = []) :
    (m.shadowCheck g).rdN (Reg.NUM_DIE_CTR (g / 12) 8) = m.rdN (Reg.NUM_DIE_CTR (g / 12) 8) ∧
      (m.shadowCheck g).events = m.events ∧ ((m.shadowCheck g).arr g).disagree = (m.arr g).disagree := by
  rw [shadowCheck_agreeing hh hc ht hb]
  refine ⟨?_, ?_, ?_⟩
  · rw [rdN_suspectStep hg _ (by decide), (tileTaken_guardStep ..).rdN (dieCtr_ne _ (by decide))]
  · rw [suspectStep_events, tileTaken_events]
  · rw [suspectStep_disagree, arr_tileTaken]

theorem rdN_shadowCheck_disagreeing (hg : g < 48) (hh : m.dieHalted (g / 12) = false)
    (hc : (m.arr g).captures = c :: cs) (ht : m.heatNo ≤ c.heat + 1) (hb : m.badColumns c ≠ []) :
    (m.shadowCheck g).rdN (Reg.NUM_DIE_CTR (g / 12) 8) =
      min (m.rdN (Reg.NUM_DIE_CTR (g / 12) 8) + 1) 0xFFFFFFFF := by
  rw [shadowCheck_disagreeing hh hc ht hb, rdN_suspectStep hg _ (by decide), rdN_disagreed,
    (tileTaken_guardStep ..).rdN (dieCtr_ne _ (by decide))]

/-- The taken tile leaves the threshold and the count it is compared with as they were. -/
theorem tileTaken_threshold (m : Mod) (g : Nat) (cs : List Capture) :
    (m.tileTaken g cs).fget Fld.NUM_SHADOW_THRESH = m.fget Fld.NUM_SHADOW_THRESH ∧
      ((m.tileTaken g cs).arr g).disagree = (m.arr g).disagree :=
  ⟨(tileTaken_guardStep m g cs).fget (not_dieCtr _ _ (by decide)), by rw [arr_tileTaken]⟩

/-- Below the threshold a disagreement is only counted. -/
theorem shadowCheck_below (hh : m.dieHalted (g / 12) = false) (hc : (m.arr g).captures = c :: cs)
    (ht : m.heatNo ≤ c.heat + 1) (hb : m.badColumns c ≠ [])
    (hk : ¬ m.fget Fld.NUM_SHADOW_THRESH ≤ (m.arr g).disagree + 1) :
    ((m.shadowCheck g).arr g).disagree = (m.arr g).disagree + 1 ∧ (m.shadowCheck g).events = m.events := by
  obtain ⟨hthresh, hcount⟩ := tileTaken_threshold m g cs
  obtain ⟨harr, hev⟩ := disagreed_below (m := m.tileTaken g cs) c (m.badColumns c) (by rwa [hthresh, hcount])
  rw [shadowCheck_disagreeing hh hc ht hb, suspectStep_disagree, suspectStep_events, harr, hev, tileTaken_events]
  exact ⟨congrArg (· + 1) hcount, rfl⟩

/-- At the threshold SHADOW_DISAGREE is posted and the count starts again. -/
theorem shadowCheck_reported (hr : m.ready = true) (hh : m.dieHalted (g / 12) = false)
    (hc : (m.arr g).captures = c :: cs) (ht : m.heatNo ≤ c.heat + 1) (hb : m.badColumns c ≠ [])
    (hk : m.fget Fld.NUM_SHADOW_THRESH ≤ (m.arr g).disagree + 1) :
    ((m.shadowCheck g).arr g).disagree = 0 ∧
      (m.shadowCheck g).events = m.events ++ [m.disagreeEvent g c (m.badColumns c)] := by
  obtain ⟨hthresh, hcount⟩ := tileTaken_threshold m g cs
  have hstep := tileTaken_guardStep m g cs
  obtain ⟨harr, hev⟩ := disagreed_reported (m := m.tileTaken g cs) c (m.badColumns c)
    ((hstep.ready (not_dieCtr _ _ (by decide))).trans hr) (by rwa [hthresh, hcount])
  rw [shadowCheck_disagreeing hh hc ht hb, suspectStep_disagree, suspectStep_events, harr, hev, tileTaken_events]
  refine ⟨rfl, ?_⟩
  rw [disagreeEvent, hstep.now, hstep.heatNo, hstep.chip (not_dieCtr _ _ (by decide)), hcount, ← disagreeEvent]

end

/-- A drop changes the counter of captures dropped and the cluster's array. -/
theorem shadowDrop_guardStep (m : Mod) (g : Nat) : GuardStep g [Reg.NUM_DIE_CTR (g / 12) 9] m (m.shadowDrop g) :=
  (modArr_guardStep ..).trans (wrN_guardStep _ _ _ _ (List.mem_singleton_self _))

/-! ### ARR_SLAG_REQ (R84) -/

theorem clusterOfOff_slagReq (g : Nat) : clusterOfOff (Reg.ARR_SLAG_REQ g) = g := by
  simp only [clusterOfOff, Reg.ARR_SLAG_REQ]
  omega

theorem slagReq_ne_ctrl (g : Nat) : Reg.ARR_SLAG_REQ g ≠ Reg.ARR_CTRL g := by
  simp only [Reg.ARR_SLAG_REQ, Reg.ARR_CTRL]
  omega

theorem slagReq_ne_status (g : Nat) : Reg.ARR_SLAG_REQ g ≠ Reg.ARR_STATUS g := by
  simp only [Reg.ARR_SLAG_REQ, Reg.ARR_STATUS]
  omega

/-- ARR_SLAG_REQ lies among the array's registers of a cluster's window. -/
theorem slagReq_window (g : Nat) : dieWindow ≤ Reg.ARR_SLAG_REQ g ∧ Reg.ARR_SLAG_REQ g % 0x10000 < 0x1000 := by
  simp only [dieWindow, Reg.ARR_SLAG_REQ]
  omega

theorem blockCheck_slagReq (mem : Memory) (m : Mod) (g : Nat) (v : Word) :
    m.blockCheck mem (Reg.ARR_SLAG_REQ g) v = stOk := by
  obtain ⟨hdie, harr⟩ := slagReq_window g
  simp [blockCheck, hdie, harr, arrCheck, clusterOfOff_slagReq, slagReq_ne_ctrl]

/-- The array has no use for a request: it has failed, or the column is slagged already. -/
def slagIdle (m : Mod) (g col : Nat) : Prop :=
  (m.arr g).failed = true ∨ (m.arr g).slag.any (fun x => x.1 == col) = true

/-- An armed request is stored; where the array has no use for it the arm is cleared, else its column waits for step 2. -/
theorem blockEffect_slagReq (m : Mod) (g : Nat) (v : Word) (o : Origin) (ha : bitOf v.toNat 31 = true) :
    (m.slagIdle g (wordBits v 8 0) → m.blockEffect (Reg.ARR_SLAG_REQ g) v o =
      (m.regStore (Reg.ARR_SLAG_REQ g) v).fput (Fld.ARR_SLAG_ARM g) false) ∧
    (¬ m.slagIdle g (wordBits v 8 0) → m.blockEffect (Reg.ARR_SLAG_REQ g) v o =
      (m.regStore (Reg.ARR_SLAG_REQ g) v).requestSlag g (wordBits v 8 0) 4) := by
  obtain ⟨hdie, harr⟩ := slagReq_window g
  simp only [blockEffect, if_pos hdie, if_pos harr, arrEffect, clusterOfOff_slagReq, if_neg (slagReq_ne_ctrl g), ha,
    and_self, if_true, slagIdle, ← Bool.or_eq_true]
  exact ⟨fun h => if_pos h, fun h => if_neg h⟩

end Mod

/-- A write of ARR_SLAG_REQ that arms it: the entry, the effect of the array's block, the reply. -/
theorem exec_arrSlagReq {s : State} {g : Nat} {v : Word} {o : Origin} (hg : g < 48)
    (h : s.Accepts (Reg.ARR_SLAG_REQ g) (setBit v 31) o) :
    exec (.arrSlagReq g v o) s = .next { s with
      mod := replyTo o ((s.mod.noted (Reg.ARR_SLAG_REQ g) (setBit v 31) o).blockEffect (Reg.ARR_SLAG_REQ g)
        (setBit v 31) o) } := by
  have hnoLedger : rowIndex (Reg.MEM_LG_CFG 0) 0x20 64 (Reg.ARR_SLAG_REQ g) = none := by
    simp only [rowIndex, Reg.MEM_LG_CFG, Reg.ARR_SLAG_REQ]
    exact if_neg (by omega)
  have hnoProducer : rowIndex (Reg.ING_P_CTRL 0) 0x40 16 (Reg.ARR_SLAG_REQ g) = none := by
    simp only [rowIndex, Reg.ING_P_CTRL, Reg.ARR_SLAG_REQ]
    exact if_neg (by omega)
  change writeAt g 48 (Reg.ARR_SLAG_REQ g) (setBit v 31) o s = _
  rw [writeAt, if_pos hg, writeReg_accepted h (Mod.blockCheck_slagReq ..) hnoLedger hnoProducer]

/-- A write that its block carries out as a step of a cluster's guard without an event: the entry and the reply, and the
frame of the step. -/
theorem Mod.GuardStep.replied {s : State} {g off : Nat} {v : Word} {o : Origin} {offs : List Nat} {m : Mod}
    (h : Mod.GuardStep g offs (s.mod.noted off v o) m) (he : m.events = s.mod.events) {t : State}
    (ht : t = { s with mod := replyTo o m }) :
    s.Journalled t off v o ∧ s.RegsBut offs t ∧ (∀ k, k ≠ g → t.mod.arr k = s.mod.arr k) ∧
      t = { s with mod := { s.mod with
        regs := t.mod.regs, jnlPend := t.mod.jnlPend, out := t.mod.out, arrays := t.mod.arrays } } := by
  subst ht
  refine ⟨?_, fun a ha => ?_, fun k hk => ?_, ?_⟩
  · obtain ⟨r, x, e, rfl⟩ := h.frame
    exact journalled_replyTo _ _ _ rfl rfl
  · rw [replyTo_rd, h.regs a ha, Mod.noted_rd]
  · rw [replyTo_arr, h.others k hk, Mod.noted_arr]
  · obtain ⟨r, x, e, rfl⟩ := h.frame
    obtain rfl : e = s.mod.events := he
    rw [replyTo_eq]
    rfl

section

variable {s : State} {g : Nat} {v : Word} {o : Origin}

/-- A request the array has no use for: the entry and the arm cleared (R84). -/
theorem arrSlagReq_idle (hg : g < 48) (h : s.Accepts (Reg.ARR_SLAG_REQ g) (setBit v 31) o)
    (hi : s.mod.slagIdle g (wordBits v 8 0)) :
    ∃ t m, exec (.arrSlagReq g v o) s = .next t ∧ t = { s with mod := replyTo o m } ∧
      Mod.GuardStep g [Reg.ARR_SLAG_REQ g] (s.mod.noted (Reg.ARR_SLAG_REQ g) (setBit v 31) o) m ∧
      m.events = s.mod.events ∧ t.mod.flag (Fld.ARR_SLAG_ARM g) = false ∧ t.mod.arr g = s.mod.arr g := by
  obtain ⟨d, hd⟩ := h.register
  have heff := (Mod.blockEffect_slagReq (s.mod.noted (Reg.ARR_SLAG_REQ g) (setBit v 31) o) g (setBit v 31) o
    (bitOf_setBit_31 v)).1
  rw [wordBits_setBit_below v (by decide), Mod.regStore_of_regAt hd] at heff
  refine ⟨_, _, (exec_arrSlagReq hg h).trans (by rw [heff hi]), rfl, ?_, ?_, ?_, ?_⟩
  · exact (Mod.wr_guardStep _ _ _ _ (List.mem_singleton_self _)).trans
      (Mod.wrN_guardStep _ _ _ _ (List.mem_singleton_self _))
  · rw [Mod.fput_events, Mod.wr_events, Mod.noted, Mod.journalWrite_events]
  · rw [replyTo_flag, Mod.flag_fput_same _ _ _ rfl (by decide : (31 : Nat) < 32)]
  · rw [replyTo_arr, Mod.fput_arr, Mod.wr_arr, Mod.noted_arr]

/-- A request of a column the array still uses: the entry, and the column waiting with source 4 (R84). -/
theorem arrSlagReq_pending (hg : g < 48) (h : s.Accepts (Reg.ARR_SLAG_REQ g) (setBit v 31) o)
    (hi : ¬ s.mod.slagIdle g (wordBits v 8 0)) :
    ∃ t m, exec (.arrSlagReq g v o) s = .next t ∧ t = { s with mod := replyTo o m } ∧
      Mod.GuardStep g [Reg.ARR_SLAG_REQ g, Reg.ARR_STATUS g] (s.mod.noted (Reg.ARR_SLAG_REQ g) (setBit v 31) o) m ∧
      m.events = s.mod.events ∧ s.Stored t (Reg.ARR_SLAG_REQ g) (setBit v 31) ∧
      t.mod.flag (Fld.ARR_SLAG_PEND g) = true ∧
      t.mod.arr g = { s.mod.arr g with slagPend := (s.mod.arr g).slagPend ++ [(wordBits v 8 0, 4)] } := by
  obtain ⟨d, hd⟩ := h.register
  have heff := (Mod.blockEffect_slagReq (s.mod.noted (Reg.ARR_SLAG_REQ g) (setBit v 31) o) g (setBit v 31) o
    (bitOf_setBit_31 v)).2
  rw [wordBits_setBit_below v (by decide), Mod.regStore_of_regAt hd] at heff
  refine ⟨_, _, (exec_arrSlagReq hg h).trans (by rw [heff hi]), rfl, ?_, ?_, ⟨d, hd, ?_⟩, ?_, ?_⟩
  · exact (Mod.wr_guardStep _ _ _ _ (by simp)).trans (Mod.requestSlag_guardStep _ _ _ _ (by simp))
  · rw [Mod.requestSlag_events, Mod.wr_events, Mod.noted, Mod.journalWrite_events]
  · rw [replyTo_rd, (Mod.requestSlag_guardStep _ _ _ _ (List.mem_singleton_self _)).regs _
      (by simpa using Mod.slagReq_ne_status g), Mod.rd_wr_same, Mod.noted_rd]
  · rw [replyTo_flag, Mod.requestSlag_pend]
  · rw [replyTo_arr, Mod.arr_requestSlag, Mod.wr_arr, Mod.noted_arr]

end

/-- Settles O25: the check is the capture taken, the disagreement counted or told, and the suspect column moved, each a step
of the cluster's guard; the drop and the slag request are one such step each. -/
theorem shadowTilesAndSlagRequests : Obligations.ShadowTilesAndSlagRequests := by
  refine ⟨fun s g c cs hg hr hh hc ht => ?_, fun s g => ?_, fun s g v o hg h => ?_⟩
  · have hstep := Mod.shadowCheck_guardStep hh hc ht
    obtain ⟨d, p, harr⟩ := Mod.arr_shadowCheck hh hc ht
    refine ⟨s.onMod (·.shadowCheck g), rfl, ?_, Mod.rdN_shadowCheck_tiles hg hh hc ht, ?_, ?_, hstep.others, hstep.regs, ?_⟩
    · rw [State.onMod_mod, harr]
    · by_cases hb : s.mod.badColumns c = []
      · rw [if_pos hb]
        exact Mod.shadowCheck_agreeing_leaves hg hh hc ht hb
      · rw [if_neg hb]
        refine ⟨Mod.rdN_shadowCheck_disagreeing hg hh hc ht hb, ?_⟩
        by_cases hk : s.mod.fget Fld.NUM_SHADOW_THRESH ≤ (s.mod.arr g).disagree + 1
        · rw [if_pos hk]
          exact Mod.shadowCheck_reported hr hh hc ht hb hk
        · rw [if_neg hk]
          exact Mod.shadowCheck_below hh hc ht hb hk
    · rw [State.onMod_mod, harr]
    · exact congrArg (fun m => { s with mod := m }) hstep.frame_eq
  · have hstep := Mod.shadowDrop_guardStep s.mod g
    refine ⟨s.onMod (·.shadowDrop g), rfl, ?_, ?_, hstep.others, hstep.regs, rfl⟩
    · rw [State.onMod_mod, Mod.shadowDrop, Mod.addSat_arr, Mod.arr_modArr_same]
    · rw [State.onMod_mod, Mod.shadowDrop, Mod.rdN_addSat_same, Mod.modArr_rdN]
  · by_cases hi : (s.mod.arr g).failed = true ∨ (s.mod.arr g).slag.any (fun x => x.1 == wordBits v 8 0) = true
    · obtain ⟨t, m, hexec, ht, hstep, hev, harm, harr⟩ := arrSlagReq_idle hg h hi
      obtain ⟨hj, hregs, hothers, hframe⟩ := hstep.replied hev ht
      exact ⟨t, hexec, hj, by rw [if_pos hi]; exact ⟨harm, harr, hregs⟩, hothers, hframe⟩
    · obtain ⟨t, m, hexec, ht, hstep, hev, hstored, hpend, harr⟩ := arrSlagReq_pending hg h hi
      obtain ⟨hj, hregs, hothers, hframe⟩ := hstep.replied hev ht
      exact ⟨t, hexec, hj, by rw [if_neg hi]; exact ⟨hstored, hpend, harr, hregs⟩, hothers, hframe⟩

end Sys2Proof.Machine
